-- ==== Sys2Proof/Word.lean ====
section
/-! DEFINITION. The word types of the machine and their plainest arithmetic.

A value is a bit vector here only where the manual treats it as bits: register contents, addresses while they
are formed, fields of an op word. Agent numbers are `Fin`, counts are `Nat`. -/

namespace Sys2Proof

/-- One byte of memory. -/
abbrev Byte := BitVec 8
/-- A 32-bit lane register, op word or extension word (R58, R78). -/
abbrev W32 := BitVec 32
/-- A 64-bit scalar register or address (R6). -/
abbrev W64 := BitVec 64
/-- A 6-bit register field of an op word (R58, R59). -/
abbrev Reg := BitVec 6
/-- A predicate number, 0 to 7 (R6, R59). -/
abbrev Pred := BitVec 3
/-- A set of lanes of a warp, bit l for lane l (R134). -/
abbrev LaneMask := BitVec 32
/-- The 2048 bytes of a tile: byte i of row k is bits [8(128k+i)+7 : 8(128k+i)] (R8). -/
abbrev TileData := BitVec 16384
/-- The 128 bytes of a memory line, byte i at bits [8i+7 : 8i] (R190). -/
abbrev LineData := BitVec 1024

/-- A die number, 0 to 3 (R1). -/
abbrev DieId := Fin 4
/-- A package core number: 64 x die + core on die (R103). -/
abbrev CoreId := Fin 256
/-- A sequencer strand number of a core (R6). -/
abbrev StrandId := Fin 8
/-- A slot of a bundle (R12). -/
abbrev Slot := Fin 8
/-- An entry of a core's fragment table, the fragment's identity FRAG (R134). -/
abbrev FragId := Fin 192
/-- A warp place of a core: 0 to 63 the warp slots, 64 to 67 the landing slots 0 to 3 (R131, R374). -/
abbrev WarpIx := Fin 68
/-- A context number (R386). -/
abbrev CtxId := Fin 64
/-- A hardware queue number (R254). -/
abbrev QueueId := Fin 256
/-- A host port, named by its die (R378). -/
abbrev PortId := Fin 4
/-- A lane number of a warp (R134). -/
abbrev Lane := Fin 32

/-- Little-endian bytes of a number, `n` of them. -/
def bytesLE : Nat → Nat → List Byte
  | 0, _ => []
  | n + 1, x => BitVec.ofNat 8 x :: bytesLE n (x / 256)

/-- The number that little-endian bytes spell. -/
def natLE : List Byte → Nat
  | [] => 0
  | b :: bs => b.toNat + 256 * natLE bs

/-- `a` rounded down to a multiple of `n`. -/
def alignDown (a n : Nat) : Nat := a / n * n

end Sys2Proof
end

