-- ==== Sys2Proof/Syntax.lean ====
section
/-! DEFINITION. The abstract syntax: one constructor of `Instr` for every row of the opcode table.

The first part holds the ops that an op word names; a constructor keeps the fields of the word that its description
uses, and no others. The second part holds the table's other steps: the internal steps of a unit, what a host or a
debugger does to the machine, and the bring-up, firmware and power events. Each of these carries what it acts on. -/

namespace Sys2Proof

/-- The guard field G of an op word: GN in bit 25, GP in [24:22] (R24, R58). -/
structure Guard where
  /-- GN: the op executes when the predicate is false. -/
  neg : Bool
  /-- GP: the predicate's number. -/
  pr : Pred
  deriving DecidableEq, Repr, Inhabited

/-- Condition codes of CMP, CMPI and FCMP (R60, R92, R169). -/
inductive Cond where
  | eq | ne | lt | le | gt | ge | ltn | gen
  deriving DecidableEq, Repr, Inhabited

/-- Scopes of an order, a fence or a copy (R60). -/
inductive Scope where
  | core | clu | dev | sys
  deriving DecidableEq, Repr, Inhabited

/-- The order field OR of LD, ST, LDO and STO: `sync` is an acquire on a load and a release on a store (R60, R219). -/
inductive Order where
  | weak | sync | strong
  deriving DecidableEq, Repr, Inhabited

/-- The width field WD (R60, R220). -/
inductive Width where
  | b8 | b16 | b32 | b64 | b128
  deriving DecidableEq, Repr, Inhabited

/-- The operations of ATOM and RED (R63). -/
inductive AtomOp where
  | add | fadd | bfadd2 | hfadd2 | min | max | minn | maxn | and | or | xor | exch | add64
  deriving DecidableEq, Repr, Inhabited

/-- The rounding override of FFMA (R168). -/
inductive FmaRound where
  | fpctl | rne | rz | ru | rd
  deriving DecidableEq, Repr, Inhabited

/-- The selector of CVTF (R172). -/
inductive CvtfKind where
  | bfF32 | hfF32 | f32Bf | f32Hf
  deriving DecidableEq, Repr, Inhabited

/-- The selector of CVTI (R172). -/
inductive CvtiKind where
  | s32F32 | u32F32 | f32S32 | f32U32
  deriving DecidableEq, Repr, Inhabited

/-- What a host read reads: BAR 0, the window of BAR 2, or the debug access window of a core, with the seat on it (R342, R379). -/
inductive HostSpace where
  | bar0
  | window
  | debug (k : CoreId) (n : Nat)
  deriving DecidableEq, Repr, Inhabited

/-- The mode of UNPK2 (R172, R176). -/
inductive UnpkMode where
  | z | s | bf
  deriving DecidableEq, Repr, Inhabited

/-- The mode of TLD and TST (R125). -/
inductive TileMode where
  | rows | cont | cols
  deriving DecidableEq, Repr, Inhabited

/-- An agent that issues ops: a fragment or a strand of a core (R6, R134). -/
inductive AgentRef where
  | frag (k : CoreId) (f : FragId)
  | strand (k : CoreId) (n : StrandId)
  deriving DecidableEq, Repr, Inhabited

/-- How a die's self-test ends (R385): passed, failed, or HBM training failed. -/
inductive TestResult where
  | pass | selfTest | hbm
  deriving DecidableEq, Repr, Inhabited

/-- What a peer package asks of a home slice (R231, R369). -/
inductive PeerAccess where
  | load (len : Nat)
  | store (data : List Byte)
  | atomic (op : AtomOp) (v : W64)
  | cas (w64 : Bool) (cmp new : W64)
  deriving DecidableEq, Repr, Inhabited

/-- The instructions and steps of the opcode table, one constructor per row. -/
inductive Instr where
  /-- NOP. R14, R94. Empty slot or op word. -/
  | nop (g : Guard)
  /-- YIELD. R149. Strand, slot 1. -/
  | yield (g : Guard)
  /-- END. R28, R94. Strand, slot 1. -/
  | endOp (g : Guard)
  /-- EXIT. R164. Warp. -/
  | exit (g : Guard)
  /-- SEGB. R310. Strand, slot 1. -/
  | segb (g : Guard)
  /-- BRK. R303. Number n. -/
  | brk (g : Guard) (n : BitVec 6)
  /-- CONV. R165. Warp. -/
  | conv (g : Guard)
  /-- IRREV. R280. -/
  | irrev (g : Guard)
  /-- KPT. R280. -/
  | kpt (g : Guard)
  /-- RFT. R302. B = 0: re-issue the trapping op. -/
  | rft (g : Guard)
  /-- RFT_NEXT. R302. B = 1: skip the trapping op. -/
  | rftNext (g : Guard)
  /-- BRA. R95. -/
  | bra (g : Guard) (off : BitVec 22)
  /-- CALL. R95. -/
  | call (g : Guard) (off : BitVec 22)
  /-- LOOP. R98. Strand, slot 0. -/
  | loop (g : Guard) (d : Reg) (len : BitVec 10)
  /-- BRX. R96. -/
  | brx (g : Guard) (a : Reg)
  /-- CALLX. R96. -/
  | callx (g : Guard) (a : Reg)
  /-- RET. R96. -/
  | ret (g : Guard)
  /-- TRAP. R303. -/
  | trap (g : Guard) (code : BitVec 16)
  /-- RDV. R313. Strand, slot 1. -/
  | rdv (g : Guard) (n : BitVec 16)
  /-- NXT. R265. Strand, slot 1. -/
  | nxt (g : Guard) (sel : BitVec 16)
  /-- ADD. R81. -/
  | add (g : Guard) (d a b : Reg)
  /-- SUB. R81. -/
  | sub (g : Guard) (d a b : Reg)
  /-- MUL. R81. -/
  | mul (g : Guard) (d a b : Reg)
  /-- MULH. R81. -/
  | mulh (g : Guard) (d a b : Reg)
  /-- MULHN. R81. -/
  | mulhn (g : Guard) (d a b : Reg)
  /-- MIN. R81. -/
  | min (g : Guard) (d a b : Reg)
  /-- MAX. R81. -/
  | max (g : Guard) (d a b : Reg)
  /-- MINN. R81. -/
  | minn (g : Guard) (d a b : Reg)
  /-- MAXN. R81. -/
  | maxn (g : Guard) (d a b : Reg)
  /-- AND. R81. -/
  | and (g : Guard) (d a b : Reg)
  /-- OR. R81. -/
  | or (g : Guard) (d a b : Reg)
  /-- XOR. R81. -/
  | xor (g : Guard) (d a b : Reg)
  /-- ANDN. R81. -/
  | andn (g : Guard) (d a b : Reg)
  /-- SHL. R81, R82. -/
  | shl (g : Guard) (d a b : Reg)
  /-- SHR. R81, R82. -/
  | shr (g : Guard) (d a b : Reg)
  /-- SAR. R81, R82. -/
  | sar (g : Guard) (d a b : Reg)
  /-- MOV. R83. -/
  | mov (g : Guard) (d a : Reg)
  /-- SEL. R84. The G field is the selector. -/
  | sel (g : Guard) (d a b : Reg)
  /-- MAC. R83. D is also a source. -/
  | mac (g : Guard) (d a b : Reg)
  /-- POPC. R83. -/
  | popc (g : Guard) (d a : Reg)
  /-- CLZ. R83. -/
  | clz (g : Guard) (d a : Reg)
  /-- BREV. R83. -/
  | brev (g : Guard) (d a : Reg)
  /-- BFE. R85. -/
  | bfe (g : Guard) (d a b : Reg)
  /-- BFI. R85. D is also a source. -/
  | bfi (g : Guard) (d a b : Reg)
  /-- ROTL. R83. -/
  | rotl (g : Guard) (d a b : Reg)
  /-- ABS. R83. -/
  | abs (g : Guard) (d a : Reg)
  /-- NEG. R83. -/
  | neg (g : Guard) (d a : Reg)
  /-- MULW. R86. -/
  | mulw (g : Guard) (d a b : Reg)
  /-- LEA. R87. -/
  | lea (g : Guard) (d a b : Reg) (sh : BitVec 2)
  /-- ADDI. R89. -/
  | addi (g : Guard) (d a : Reg) (imm : BitVec 10)
  /-- ANDI. R89. -/
  | andi (g : Guard) (d a : Reg) (imm : BitVec 10)
  /-- ORI. R89. -/
  | ori (g : Guard) (d a : Reg) (imm : BitVec 10)
  /-- XORI. R89. -/
  | xori (g : Guard) (d a : Reg) (imm : BitVec 10)
  /-- SHLI. R89. -/
  | shli (g : Guard) (d a : Reg) (n : BitVec 6)
  /-- SHRI. R89. -/
  | shri (g : Guard) (d a : Reg) (n : BitVec 6)
  /-- SARI. R89. -/
  | sari (g : Guard) (d a : Reg) (n : BitVec 6)
  /-- MOVI. R90. -/
  | movi (g : Guard) (d : Reg) (imm : BitVec 16)
  /-- MOVH. R90. -/
  | movh (g : Guard) (d : Reg) (imm : BitVec 16)
  /-- LIMM. R91. Long form. -/
  | limm (g : Guard) (d : Reg) (imm : BitVec 16) (ext : W32)
  /-- CMP. R92. FN 0. -/
  | cmp (g : Guard) (pd : Pred) (cc : Cond) (a b : Reg)
  /-- CMP_64. R92. FN 1, strand only. -/
  | cmp64 (g : Guard) (pd : Pred) (cc : Cond) (a b : Reg)
  /-- CMPI. R92. -/
  | cmpi (g : Guard) (pd : Pred) (cc : Cond) (a : Reg) (imm : BitVec 10)
  /-- PAND. R93. -/
  | pand (g : Guard) (pd pa pb : Pred)
  /-- POR. R93. -/
  | por (g : Guard) (pd pa pb : Pred)
  /-- PXOR. R93. -/
  | pxor (g : Guard) (pd pa pb : Pred)
  /-- PANDN. R93. -/
  | pandn (g : Guard) (pd pa pb : Pred)
  /-- FADD. R167. Warp. -/
  | fadd (g : Guard) (d a b : Reg)
  /-- FSUB. R167. Warp. -/
  | fsub (g : Guard) (d a b : Reg)
  /-- FMUL. R167. Warp. -/
  | fmul (g : Guard) (d a b : Reg)
  /-- FMIN. R167. Warp. -/
  | fmin (g : Guard) (d a b : Reg)
  /-- FMAX. R167. Warp. -/
  | fmax (g : Guard) (d a b : Reg)
  /-- FABS. R167. Warp. -/
  | fabs (g : Guard) (d a : Reg)
  /-- FNEG. R167. Warp. -/
  | fneg (g : Guard) (d a : Reg)
  /-- FCPS. R167. Warp. -/
  | fcps (g : Guard) (d a b : Reg)
  /-- FFMA. R168. Warp. D is also a source. -/
  | ffma (g : Guard) (d a b : Reg) (rm : FmaRound)
  /-- FCMP. R169. Warp. -/
  | fcmp (g : Guard) (pd : Pred) (cc : Cond) (a b : Reg) (sig : Bool)
  /-- PADD2. R170. Warp. hf: FP16 halves, else BF16. -/
  | padd2 (g : Guard) (d a b : Reg) (hf : Bool)
  /-- PSUB2. R170. Warp. hf: FP16 halves, else BF16. -/
  | psub2 (g : Guard) (d a b : Reg) (hf : Bool)
  /-- PMUL2. R170. Warp. hf: FP16 halves, else BF16. -/
  | pmul2 (g : Guard) (d a b : Reg) (hf : Bool)
  /-- PFMA2. R170. Warp. hf: FP16 halves, else BF16. -/
  | pfma2 (g : Guard) (d a b : Reg) (hf : Bool)
  /-- PMAX2. R170. Warp. hf: FP16 halves, else BF16. -/
  | pmax2 (g : Guard) (d a b : Reg) (hf : Bool)
  /-- PMIN2. R170. Warp. hf: FP16 halves, else BF16. -/
  | pmin2 (g : Guard) (d a b : Reg) (hf : Bool)
  /-- XEXP2. R171. Warp. -/
  | xexp2 (g : Guard) (d a : Reg)
  /-- XLOG2. R171. Warp. -/
  | xlog2 (g : Guard) (d a : Reg)
  /-- XRCP. R171. Warp. -/
  | xrcp (g : Guard) (d a : Reg)
  /-- XRSQ. R171. Warp. -/
  | xrsq (g : Guard) (d a : Reg)
  /-- XSQRT. R171. Warp. -/
  | xsqrt (g : Guard) (d a : Reg)
  /-- XTANH. R171. Warp. -/
  | xtanh (g : Guard) (d a : Reg)
  /-- XSIN. R171. Warp. -/
  | xsin (g : Guard) (d a : Reg)
  /-- XCOS. R171. Warp. -/
  | xcos (g : Guard) (d a : Reg)
  /-- CVTF. R173. Warp. -/
  | cvtf (g : Guard) (d a : Reg) (k : CvtfKind) (hi : Bool)
  /-- CVTI. R174. Warp. -/
  | cvti (g : Guard) (d a : Reg) (k : CvtiKind) (trunc : Bool)
  /-- CVTN. R175. Warp. -/
  | cvtn (g : Guard) (d a b : Reg)
  /-- PACK2. R172. Warp. -/
  | pack2 (g : Guard) (d a b : Reg)
  /-- UNPK2. R176. Warp. -/
  | unpk2 (g : Guard) (d a : Reg) (m : UnpkMode)
  /-- VOTE_ANY. R177. Warp. -/
  | voteAny (g : Guard) (pd pa : Pred)
  /-- VOTE_ALL. R177. Warp. -/
  | voteAll (g : Guard) (pd pa : Pred)
  /-- VOTE_BAL. R177. Warp. -/
  | voteBal (g : Guard) (d : Reg) (pa : Pred)
  /-- SHFL_IDX. R178. Warp. -/
  | shflIdx (g : Guard) (d a b : Reg)
  /-- SHFL_UP. R178. Warp. -/
  | shflUp (g : Guard) (d a b : Reg)
  /-- SHFL_DN. R178. Warp. -/
  | shflDn (g : Guard) (d a b : Reg)
  /-- SHFL_XOR. R178. Warp. -/
  | shflXor (g : Guard) (d a b : Reg)
  /-- SRD. R101. Special register n. -/
  | srd (g : Guard) (d : Reg) (n : BitVec 12)
  /-- SWR. R101. Special register n. -/
  | swr (g : Guard) (d : Reg) (n : BitVec 12)
  /-- GIVE. R180. -/
  | give (g : Guard) (a b : Reg)
  /-- TAKE. R181. -/
  | take (g : Guard) (a : Reg)
  /-- TTRY. R182. -/
  | ttry (g : Guard) (pd : Pred) (a : Reg)
  /-- TSEL. R183. Warp. -/
  | tsel (g : Guard) (a : Reg)
  /-- TOWN. R184. -/
  | town (g : Guard) (d a : Reg)
  /-- LD. R218 to R225. -/
  | ld (g : Guard) (d a : Reg) (sc : Scope) (ord : Order) (w : Width) (sx : Bool)
  /-- ST. R218 to R225. D is the stored register. -/
  | st (g : Guard) (d a : Reg) (sc : Scope) (ord : Order) (w : Width)
  /-- LDO. R219. Long form. -/
  | ldo (g : Guard) (d a : Reg) (sc : Scope) (ord : Order) (w : Width) (sx : Bool) (ext : W32)
  /-- STO. R219. Long form. -/
  | sto (g : Guard) (d a : Reg) (sc : Scope) (ord : Order) (w : Width) (ext : W32)
  /-- ATOM. R229 to R233. -/
  | atom (g : Guard) (d a b : Reg) (op : AtomOp)
  /-- ATCAS. R234. -/
  | atcas (g : Guard) (d a b : Reg) (w64 : Bool)
  /-- RED. R229 to R233. EXCH is illegal. -/
  | red (g : Guard) (a b : Reg) (op : AtomOp)
  /-- FENCE. R235. -/
  | fence (g : Guard) (sc : Scope)
  /-- TFENCE. R213, R235. -/
  | tfence (g : Guard) (sc : Scope)
  /-- PFT. R236. -/
  | pft (g : Guard) (a : Reg)
  /-- PCLR. R247. -/
  | pclr (g : Guard) (a b : Reg)
  /-- AWAIT. R247. -/
  | await (g : Guard) (a : Reg)
  /-- CPK. R242. -/
  | cpk (g : Guard) (a : Reg)
  /-- RACQ. R252. -/
  | racq (g : Guard) (d a : Reg)
  /-- RACQ_TRY. R252. -/
  | racqTry (g : Guard) (d a : Reg) (p : Pred)
  /-- RCMT. R252. -/
  | rcmt (g : Guard) (a b : Reg)
  /-- RPEK. R252. -/
  | rpek (g : Guard) (d a : Reg)
  /-- RPEK_TRY. R252. -/
  | rpekTry (g : Guard) (d a : Reg) (p : Pred)
  /-- RREL. R252. -/
  | rrel (g : Guard) (a : Reg)
  /-- LAUNCH. R262. -/
  | launch (g : Guard) (d a : Reg)
  /-- JNEW. R271. -/
  | jnew (g : Guard) (d a b : Reg)
  /-- JARR. R281. -/
  | jarr (g : Guard) (d : Reg)
  /-- JWAIT. R289. -/
  | jwait (g : Guard) (d a : Reg)
  /-- JQRY. R289. -/
  | jqry (g : Guard) (d a : Reg) (sel : BitVec 6)
  /-- MIGR. R371 to R373. Warp. -/
  | migr (g : Guard) (pd : Pred) (a : Reg)
  /-- MHOME. R370. Warp. -/
  | mhome (g : Guard) (d a : Reg)
  /-- BAR. R143, R163. -/
  | bar (g : Guard) (n : Byte) (id : BitVec 4)
  /-- MMA. R110, R111. Strand, slot 2; beats 2 x (fn + 1). -/
  | mma (g : Guard) (d a b : Reg) (fn : BitVec 4)
  /-- MMAZ. R110, R111. Strand, slot 2; beats 2 x (fn + 1). -/
  | mmaz (g : Guard) (d a b : Reg) (fn : BitVec 4)
  /-- MMAR. R110, R111. Strand, slot 2; beats 2 x (fn + 1). -/
  | mmar (g : Guard) (d a b : Reg) (fn : BitVec 4)
  /-- MXC. R108. Strand, slot 2. -/
  | mxc (g : Guard) (a : Reg)
  /-- TADD. R119. Strand, slot 3. -/
  | tadd (g : Guard) (d a b : Reg)
  /-- TSUB. R119. Strand, slot 3. -/
  | tsub (g : Guard) (d a b : Reg)
  /-- TMUL. R119. Strand, slot 3. -/
  | tmul (g : Guard) (d a b : Reg)
  /-- TFMA. R119. Strand, slot 3. -/
  | tfma (g : Guard) (d a b : Reg)
  /-- TMAX. R119. Strand, slot 3. -/
  | tmax (g : Guard) (d a b : Reg)
  /-- TMIN. R119. Strand, slot 3. -/
  | tmin (g : Guard) (d a b : Reg)
  /-- TSCLR. R119. Strand, slot 3. -/
  | tsclr (g : Guard) (d a b : Reg)
  /-- TSCLC. R119. Strand, slot 3. -/
  | tsclc (g : Guard) (d a b : Reg)
  /-- TCPY. R119. Strand, slot 3. -/
  | tcpy (g : Guard) (d a : Reg)
  /-- TFILL. R119. Strand, slot 3. -/
  | tfill (g : Guard) (d a : Reg)
  /-- TMSK. R120. Strand, slot 3. -/
  | tmsk (g : Guard) (d a b : Reg)
  /-- TCVT. R121. Strand, slot 3. -/
  | tcvt (g : Guard) (d a b : Reg)
  /-- TRMAX. R122. Strand, slot 4. -/
  | trmax (g : Guard) (d a : Reg)
  /-- TRSUM. R122. Strand, slot 4. -/
  | trsum (g : Guard) (d a : Reg)
  /-- TCMAX. R122. Strand, slot 4. -/
  | tcmax (g : Guard) (d a : Reg)
  /-- TCSUM. R122. Strand, slot 4. -/
  | tcsum (g : Guard) (d a : Reg)
  /-- TTRN. R122. Strand, slot 4. -/
  | ttrn (g : Guard) (d a : Reg)
  /-- TBCR. R122. Strand, slot 4. -/
  | tbcr (g : Guard) (d a : Reg)
  /-- TBCC. R122. Strand, slot 4. -/
  | tbcc (g : Guard) (d a : Reg)
  /-- SEXP2. R124. Strand, slot 5. -/
  | sexp2 (g : Guard) (d a : Reg)
  /-- SLOG2. R124. Strand, slot 5. -/
  | slog2 (g : Guard) (d a : Reg)
  /-- SRCP. R124. Strand, slot 5. -/
  | srcp (g : Guard) (d a : Reg)
  /-- SRSQ. R124. Strand, slot 5. -/
  | srsq (g : Guard) (d a : Reg)
  /-- STANH. R124. Strand, slot 5. -/
  | stanh (g : Guard) (d a : Reg)
  /-- TLD. R125. Strand, slots 6 and 7. -/
  | tld (g : Guard) (d a b : Reg) (strong : Bool) (mode : TileMode)
  /-- TST. R125. Strand, slots 6 and 7. -/
  | tst (g : Guard) (d a b : Reg) (strong : Bool) (mode : TileMode)
  /-- NULLIFIER_SKIP. R31, R32. Strand n of core k. -/
  | nullifierSkip (k : CoreId) (n : StrandId)
  /-- RESULT_LANDING. R18, R19. Strand n of core k. -/
  | resultLanding (k : CoreId) (n : StrandId)
  /-- LOAD_REPLY. R22. Request r. -/
  | loadReply (r : Nat)
  /-- FRAGX_TIMEOUT. R137. -/
  | fragxTimeout (k : CoreId) (f : FragId)
  /-- TAKE_COMPLETE. R153. -/
  | takeComplete (who : AgentRef)
  /-- RDV_RELEASE. R313. -/
  | rdvRelease (k : CoreId) (n : StrandId)
  /-- HOME_FILL. R195. Request r. -/
  | homeFill (r : Nat)
  /-- HOME_WRITE. R196. Request r. -/
  | homeWrite (r : Nat)
  /-- HOME_ATOMIC. R205. Request r. -/
  | homeAtomic (r : Nat)
  /-- RELEASE_SEND. R198. -/
  | releaseSend (who : AgentRef)
  /-- FENCE_COMPLETE. R198, R235. -/
  | fenceComplete (who : AgentRef)
  /-- TOKEN_REFILL. R366. One tick of every bucket. -/
  | tokenRefill
  /-- TOKEN_SEND. R367. Held request r. -/
  | tokenSend (r : Nat)
  /-- PAGER_FILL. R216. -/
  | pagerFill (c : CtxId) (va : W64)
  /-- PAGER_POOL_TIMEOUT. R217. -/
  | pagerPoolTimeout (c : CtxId) (va : W64)
  /-- PRESENCE_RESUME. R224. -/
  | presenceResume (who : AgentRef)
  /-- COPY_ACCEPT. R243. -/
  | copyAccept (k : CoreId)
  /-- ARRIVAL_WORD_UPDATE. R244. Copy c of core k. -/
  | arrivalWordUpdate (k : CoreId) (c : Nat)
  /-- PRESENCE_SET. R244. Copy c of core k. -/
  | presenceSet (k : CoreId) (c : Nat)
  /-- COMMIT_ON_ARRIVAL. R244, R253. Copy c of core k. -/
  | commitOnArrival (k : CoreId) (c : Nat)
  /-- AWAIT_WAKE. R247. -/
  | awaitWake (who : AgentRef)
  /-- RING_WAKE. R252. -/
  | ringWake (who : AgentRef)
  /-- TEAM_PLACE. R255, R256. Launch engine of die d. -/
  | teamPlace (d : DieId)
  /-- EVENT_POLL. R260. -/
  | eventPoll (d : DieId)
  /-- TEAM_RETIRE. R157. Team t. -/
  | teamRetire (t : Nat)
  /-- GRID_RETIRE_SIGNAL. R260. Grid gr. -/
  | gridRetireSignal (gr : Nat)
  /-- SPILL_TIMEOUT. R264. -/
  | spillTimeout (who : AgentRef)
  /-- JOIN_DEADLINE_FLUSH. R286. The join whose object is at cell j. -/
  | joinDeadlineFlush (j : Nat)
  /-- JOIN_RELEASE. R287. -/
  | joinRelease (j : Nat)
  /-- JWAIT_WAKE. R289. -/
  | jwaitWake (who : AgentRef)
  /-- MIGRATION_LANDING. R373, R374. The fragment whose MIGR is in transit. -/
  | migrationLanding (k : CoreId) (f : FragId)
  /-- LANDING_SLOT_TIMEOUT. R373. -/
  | landingSlotTimeout (k : CoreId) (f : FragId)
  /-- PREEMPT_CHOICE. R322. Team t. -/
  | preemptChoice (t : Nat)
  /-- DRAIN_TIMEOUT. R322. -/
  | drainTimeout (t : Nat)
  /-- TEAM_SAVE. R323. -/
  | teamSave (t : Nat)
  /-- STALL_SAMPLE. R351. -/
  | stallSample (k : CoreId)
  /-- SAMPLER_ENABLE. R350, R351. The value written to SMPCTL. -/
  | samplerEnable (k : CoreId) (v : W64)
  /-- SAMPLER_DISABLE. R354. The value written to SMPCTL. -/
  | samplerDisable (k : CoreId) (v : W64)
  /-- STOPALL. R341. -/
  | stopall (c : CtxId)
  /-- RESUMEALL. R341. -/
  | resumeall (c : CtxId)
  /-- HALT. R341, R346. -/
  | dbgHalt (c : CtxId) (who : AgentRef)
  /-- RESUME. R341, R346. -/
  | dbgResume (c : CtxId) (who : AgentRef)
  /-- STEP. R341, R346. -/
  | dbgStep (c : CtxId) (who : AgentRef)
  /-- STEPB. R341, R346. -/
  | dbgStepb (c : CtxId) (who : AgentRef)
  /-- REGISTER_WRITE. R3, R379. BAR 0 offset. -/
  | registerWrite (p : PortId) (off : Nat) (v : W64)
  /-- DOORBELL. R381. -/
  | doorbell (p : PortId) (q : QueueId) (v : W32)
  /-- WINDOW_WRITE. R379, R382; R342 with a debug access window: its core, and the seat on it. -/
  | windowWrite (p : PortId) (dbg : Option (CoreId × Nat)) (off : Nat) (data : List Byte) (ro : Bool)
  /-- INBOUND_DATA_SEND. R382. The nth queued write of the port. -/
  | inboundDataSend (p : PortId) (n : Nat)
  /-- WINDOW_READ. R379, R383. -/
  | windowRead (p : PortId) (sp : HostSpace) (off len : Nat)
  /-- CTXCREATE. R386. Arguments in HARG0 to HARG3 of port p. -/
  | ctxcreate (p : PortId)
  /-- CTXSTOP. R386. Arguments in HARG0 to HARG3 of port p. -/
  | ctxstop (p : PortId)
  /-- CTXRESUME. R386. Arguments in HARG0 to HARG3 of port p. -/
  | ctxresume (p : PortId)
  /-- CTXDESTROY. R386. Arguments in HARG0 to HARG3 of port p. -/
  | ctxdestroy (p : PortId)
  /-- QREG. R386. Arguments in HARG0 to HARG3 of port p. -/
  | qreg (p : PortId)
  /-- QUNREG. R386. Arguments in HARG0 to HARG3 of port p. -/
  | qunreg (p : PortId)
  /-- SPILLCLR. R386. Arguments in HARG0 to HARG3 of port p. -/
  | spillclr (p : PortId)
  /-- DBGGRANT. R386. Arguments in HARG0 to HARG3 of port p. -/
  | dbggrant (p : PortId)
  /-- DBGREVOKE. R386. Arguments in HARG0 to HARG3 of port p. -/
  | dbgrevoke (p : PortId)
  /-- FLAGCLR. R386. Arguments in HARG0 to HARG3 of port p. -/
  | flagclr (p : PortId)
  /-- RESYNC. R386. Arguments in HARG0 to HARG3 of port p. -/
  | resync (p : PortId)
  /-- ATTEST. R386. Arguments in HARG0 to HARG3 of port p. -/
  | attest (p : PortId)
  /-- STAGE. R386. Arguments in HARG0 to HARG3 of port p. -/
  | stage (p : PortId)
  /-- RESTRIKE. R386. Arguments in HARG0 to HARG3 of port p. -/
  | restrike (p : PortId)
  /-- TLBINV. R386. Arguments in HARG0 to HARG3 of port p. -/
  | tlbinv (p : PortId)
  /-- IMAGE_PLACE_READY. R392. -/
  | imagePlaceReady (d : DieId)
  /-- IMAGE_ALIVE. R392. -/
  | imageAlive (d : DieId)
  /-- RESTRIKE_TIMEOUT. R392. -/
  | restrikeTimeout (d : DieId)
  /-- PLACEMENT_FALLBACK. R392. -/
  | placementFallback (d : DieId)
  /-- POWER_ON. R385. -/
  | powerOn
  /-- SELFTEST_COMPLETE. R385. -/
  | selftestComplete (d : DieId) (res : TestResult)
  /-- FWLOAD_COMPLETE. R385. -/
  | fwloadComplete (d : DieId) (ok : Bool)
  /-- LINK_COMPLETE. R385. Which bridges trained. -/
  | linkComplete (d : DieId) (pair cross : Bool)
  /-- ILLOP. R64, R65. The word that is not an instruction. -/
  | illop (w : W32)
  /-- SAVED_TEAM_RESTORE. R325. -/
  | savedTeamRestore (t : Nat)
  /-- UNIT_STALL_END. R21, R148. -/
  | unitStallEnd (k : CoreId) (n : StrandId)
  /-- INSTRUCTION_FETCH_ARRIVAL. R353. -/
  | instructionFetchArrival (k : CoreId) (f : FragId)
  /-- UNKNOWN_HOST_COMMAND. R386. -/
  | unknownHostCommand (p : PortId) (code : Byte)
  /-- KICK. R240. The stored request address. -/
  | kick (a : W64)
  /-- LINE_EVICTION. R195. A device line. -/
  | lineEviction (line : Nat)
  /-- PAGE_WALK. R211, R212. -/
  | pageWalk (k : CoreId) (c : CtxId) (va : W64)
  /-- DBG_UNKNOWN_COMMAND. R341. -/
  | dbgUnknownCommand (c : CtxId) (code : Byte)
  /-- FREQUENCY_CHANGE. R395. 1.0 GHz + 250 MHz x step. -/
  | frequencyChange (d : DieId) (octet : Fin 8) (step : Fin 13)
  /-- PEER_INBOUND_REQUEST. R231, R368, R369. -/
  | peerInboundRequest (port : Fin 8) (c : CtxId) (cell : Nat) (what : PeerAccess)
  /-- PEER_REFUSAL. R368. The refused request r. -/
  | peerRefusal (d : DieId) (r : Nat)
  /-- STIPPLE_ENABLE. R356. The value written to STPCTL. -/
  | stippleEnable (d : DieId) (v : W64)
  deriving DecidableEq, Repr, Inhabited

end Sys2Proof
end

