-- ==== Sys2Proof/Config.lean ====
section
/-! DEFINITION. What a part fixes, and the values that the manual leaves open.

An `opaque` constant here has no body: nothing can be proved of its value, so a claim about the machine holds whatever
it is. Each is named in the assumption log. -/

namespace Sys2Proof

/-- An image of an embedded controller (R391, R393). -/
structure Image where
  version : BitVec 16 := 0
  digest : BitVec 256 := 0
  /-- The highest hand-over format version that it accepts. -/
  format : Nat := 0
  deriving DecidableEq, Repr, Inhabited

/-- What the 256-byte header of an image holds (R391). -/
structure ImageHeader where
  kind : Nat
  security : Nat
  bodyLen : Nat
  image : Image
  deriving DecidableEq, Repr, Inhabited

end Sys2Proof

namespace Sys2Proof.Config

/-- A value the manual leaves open, the n-th such value of a run (log entry 3). -/
opaque freeValue : Nat → W64

/-- Which of the admitted results an approximation returns: a fixed function of the op's number and its input
(R124, R171; log entry 6). -/
opaque approxPick : Nat → W32 → Nat

/-- XSIN and XCOS of a finite argument beyond 2^16: some value in [-1, 1], fixed for each input (R171; log entry 6). -/
opaque trigBeyond : Bool → W32 → W32

/-- The fused silicon stepping of a die (R384). -/
opaque stepOf : DieId → Byte

/-- The fused serial number of a die (R384). -/
opaque serialOf : DieId → W64

/-- The fused minimum security version of a controller of a die (R388, R391). -/
opaque minSecurity : DieId → Fin 3 → Nat

/-- The image that a die's image store holds for a controller as the die is made: primary, or retained (R385). -/
opaque storedImage : DieId → Fin 3 → Bool → Image

/-- The boot ROM verifies a die's image of a controller, primary or retained (R385, R388; log entry 8). -/
opaque bootVerifies : DieId → Fin 3 → Image → Bool

/-- The fields of an image header; the manual does not lay them out (R391; log entry 8). -/
opaque headerOf : List Byte → ImageHeader

/-- The format version of the hand-over record that a running image writes (R393; log entry 8). -/
opaque handOverFormat : Image → Nat

/-- WATTS and TJMAX of PWRSTAT of a die as they read at a tick, in their places (R384; log entry 8). -/
opaque powerSample : DieId → Nat → W32

/-- The die that carries out an ATTEST, by its port and by the arguments to which the manual gives no meaning (R386, R388; log
entry 92). -/
opaque attestDie : PortId → W64 → W64 → DieId

/-- What an attestation report holds (R388). -/
structure Report where
  nonce : List Byte
  serial : W64
  die : DieId
  step : Byte
  count : W32
  /-- The running and the retained image of each controller. -/
  running : List Image
  retained : List Image
  deriving DecidableEq, Repr

/-- The 256 bytes of a report; the manual does not say where its fields stand (R388; log entry 92). -/
opaque reportBytes : Report → BitVec 2048

/-- Words of a RESYNC record whose fields the manual names without their places: READYM and the BRUPs; a restrike's die and controller;
of a die DSTATE, FWVER, the retained versions, the error counts and THROT; of a context the resident and saved teams, DROPS, HEAD and
TAIL; of a queue its context, CLASS, HEAD, TAIL and deficit (R390; log entry 92). -/
opaque resyncReady : Nat → List Nat → W64
/-- As `resyncReady` says: the restrike in progress. -/
opaque resyncStrike : Option (DieId × Fin 3) → W64
/-- As `resyncReady` says: a die. -/
opaque resyncDie : List Nat → BitVec 512
/-- As `resyncReady` says: a context. -/
opaque resyncCtx : List Nat → BitVec 256
/-- As `resyncReady` says: a queue. -/
opaque resyncQueue : List Nat → BitVec 128

/-- The bytes of a hand-over body, by its controller and its values in the manual's order; the manual does not lay them out (R393; log
entry 92). -/
opaque handOverBytes : Fin 3 → List Nat → List Byte

/-- What a read of a doorbell returns at a tick; the manual gives only writes (R381; log entry 8). -/
opaque doorbellRead : QueueId → Nat → W64

/-- SHA-256 of a byte string, 32 bytes as a little-endian number (R388, R391; log entry 8). -/
opaque sha256 : List Byte → BitVec 256

/-- An SLH-DSA signature by a die's identity key, 7,856 bytes (R388; log entry 8). -/
opaque signature : DieId → List Byte → BitVec 62848

/-- The firmware key accepts a signature over an image header (R391; log entry 8). -/
opaque firmwareSigned : List Byte → List Byte → Bool

/-- The ports that a system cables (R378, R369). -/
opaque cabled : PortId → Bool

/-- Ticks of a default lease, and of the two other LEASE codes (R195, R210). -/
def leaseTicks : List Nat := [512, 128, 2048]

/-- Device bytes of one stack: 23,437,500 units of 2 KiB (R190, R194). -/
def stackBytes : Nat := 48000000000

/-- Bytes of the PKG view (R194). -/
def pkgBytes : Nat := 8 * stackBytes

/-- Bytes of a DIE view (R194). -/
def dieBytes : Nat := 2 * stackBytes

/-- Lines of a home slice's 4 MiB (R190). -/
def sliceLines : Nat := 32768

/-- Entries of a core's L1 TLB and of a die's TLB (R212). -/
def coreTlbEntries : Nat := 64
/-- Entries of a die's TLB (R212). -/
def dieTlbEntries : Nat := 8192

/-- Requests that a copy engine's queue holds (R240, R242). -/
def copyQueue : Nat := 16

/-- Records of a child queue (R263). -/
def childQueue : Nat := 64

/-- Live joins of a die (R270). -/
def liveJoins : Nat := 256

/-- Tags of a stipple sampler (R357). -/
def stippleTags : Nat := 256

end Sys2Proof.Config
end

