-- ==== Sys2Proof/Machine/State.lean ====
section
/-! DEFINITION. The machine's state as plain data, its stops, and the state after reset.

The state is that of the whole package (R1): four dies, 256 cores, the device memory of the eight stacks, the host
ports, and the units that act beside the cores. What an agent only implies (a request in flight, a wait that has
begun) is written out as data. -/

namespace Sys2Proof.Machine

/-- Bytes of a memory: addresses strictly rising, and no entry that equals what an unlisted address reads as. -/
abbrev Memory := List Host.Cell

/-- Why the machine stops with a fault. -/
inductive Fault where
  /-- A peer package names a device cell that no stack has (R194): raised by PEER_INBOUND_REQUEST. The manual gives
  no effect; safe. -/
  | noSuchCell
  deriving DecidableEq, Repr, Inhabited

/-- Why a state has no such step. -/
inductive Refusal where
  /-- Raised by a dispatch arm whose meaning is not written: none is left; safe. -/
  | notModelled (mnemonic : String)
  /-- Raised by every op when no fragment and no strand is issuing: an op has no effect of its own; safe. -/
  | noIssuer
  /-- Raised by an internal step, a host step or a command in a state in which the manual does not let it happen;
  safe. -/
  | notEnabled
  deriving DecidableEq, Repr, Inhabited

/-! ## Traps -/

/-- The precise trap classes (R296). -/
inductive TrapClass where
  | illop | fetch | align | memv | pres | prov | own | absy | sched | fragx | segovf | seh | trap | brk | migx
  deriving DecidableEq, Repr, Inhabited

/-- One set of trap registers (R103, R297). -/
structure TrapRegs where
  cause : W32 := 0
  pc : W64 := 0
  addr : W64 := 0
  synd : W64 := 0
  unit : W32 := 0
  coord : W64 := 0
  townf : W32 := 0
  deriving DecidableEq, Repr, Inhabited

/-- What a trap reports, before its place is known (R297, R298). -/
structure TrapInfo where
  cls : TrapClass
  code : BitVec 16 := 0
  addr : W64 := 0
  synd : W64 := 0
  unit : Nat := 8
  coord : W64 := 0
  townf : BitVec 9 := 0
  deriving DecidableEq, Repr, Inhabited

/-! ## Places, requests and what waits -/

/-- Where an access lands once its address is translated (R188, R194, R369). -/
inductive Loc where
  /-- Device memory: stack x 48,000,000,000 + offset in the stack. -/
  | dev (cell : Nat)
  /-- Host memory, by system address. -/
  | host (a : Nat)
  /-- Memory behind peer port p. -/
  | peer (p : Fin 8) (a : Nat)
  /-- Shared memory of a team on a core. -/
  | shared (k : CoreId) (team : Nat) (off : Nat)
  deriving DecidableEq, Repr, Inhabited

/-- Where a returned value goes. -/
inductive Dest where
  | none
  /-- A register of a lane: width and sign extension of the load (R220). -/
  | lane (l : Lane) (r : Reg) (w : Width) (sx : Bool)
  /-- S registers of a strand. -/
  | sreg (r : Reg) (w : Width) (sx : Bool)
  /-- `len` bytes at `off` of a team tile (R126). -/
  | tile (t : Nat) (off : Nat)
  /-- The Y registers of a lane from row y of a team tile (R161). -/
  | row (t : Nat) (y : Nat) (l : Lane) (w : Width) (sx : Bool)
  deriving DecidableEq, Repr, Inhabited

/-- What a request does at its home (R193). -/
inductive ReqOp where
  /-- A load; `keep`: its fill enters the L1 (R192). -/
  | load (keep acq : Bool) (dst : Dest)
  /-- PFT's fill (R236). -/
  | fill
  | store (data : List Byte)
  /-- A merged atomic; each lane with the sum of the lower lanes' operands, none for the lowest (R208). -/
  | atomic (op : AtomOp) (v : W64) (parts : List W32) (rets : List (Dest × Option W64 × List W32))
  | cas (w64 : Bool) (cmp new : W64) (dst : Dest)
  /-- A write of copy `c`'s data, poisoned or not (R243, R304). -/
  | engine (c : Nat) (data : List Byte) (poison : Bool)
  /-- A strand's FENCE or TFENCE, in its place among the strand's accesses (R227, R235). -/
  | fence (sc : Scope) (tlb : Bool)
  /-- A copy request in its engine's queue: it is over when the engine accepts it (R198, R242). -/
  | kick
  deriving DecidableEq, Repr, Inhabited

/-- What a release has published (R203): the releaser's horizon. Its accesses that were not performed carry the number. -/
structure Mark where
  id : Nat
  hz : Nat
  deriving DecidableEq, Repr, Inhabited

/-- The bytes that a release, or a write after a fence, left: a read of them synchronises with the mark (R202, R203). -/
structure Sync where
  loc : Loc
  len : Nat
  mark : Nat
  deriving DecidableEq, Repr, Inhabited

/-- A memory request that has been issued and whose effects are not complete. -/
structure Req where
  id : Nat
  /-- The agent that receives the result. -/
  who : AgentRef
  /-- The warp whose lanes receive the result. -/
  place : Option (CoreId × WarpIx) := none
  /-- The issuer's number as records give it, and whether it has exited since (R318). -/
  agent : Nat := 0
  gone : Bool := false
  /-- The lanes whose access it is; bit 0 for a strand (R298, R321). -/
  lanes : LaneMask := 1
  /-- Agents in whose program order it stands: its issuer, and those that split from it or merged with it (R200). -/
  issuers : List AgentRef
  /-- Agents whose later waits cover the request: its issuers, and those that inherited it (R198, R203). -/
  owners : List AgentRef
  /-- Marks of the releases that it was not performed before (R203). -/
  marks : List Nat := []
  /-- It is a release; the marks that its write publishes; the marks of what its read returned (R203). -/
  isRel : Bool := false
  mark : List Nat := []
  seen : List Nat := []
  /-- The sending core, team, context and the op's number and place, for records (R318). -/
  core : CoreId
  team : Nat
  ctx : CtxId
  wisn : W64
  pc : W64
  va : W64 := 0
  loc : Loc
  len : Nat
  op : ReqOp
  /-- Lease length of the page in ticks (R195). -/
  lease : Nat := 512
  /-- Not yet sent: it waits for remote tokens (R367), in the order of its core (R197), for `rel`, or for `after`. -/
  held : Bool := false
  /-- A store of its core has dropped its line: its fill is not kept (R197). -/
  noKeep : Bool := false
  /-- An uncorrectable error has met the data of the store (R304, R319). -/
  bad : Bool := false
  /-- Its refusal stands in the record of another lane of its line (R368). -/
  told : Bool := false
  /-- Tokens it costs (R365). -/
  cost : Nat := 0
  /-- The wait of R198 that comes before it, over its owners' earlier accesses (R227). -/
  rel : Option Scope := none
  /-- Requests of slot 6 that come before it: one that returns a value must be over, another sent (R227). -/
  after : List Nat := []
  /-- Bytes of the strand's own segment store queue that the load sees: offset and byte (R311). -/
  ovr : List (Nat × Byte) := []
  /-- The results of one op that land together (R126). -/
  group : Nat := 0
  /-- Performed: the bytes returned, and whether they are poisoned. -/
  reply : Option (List Byte × Bool) := none
  /-- The low half of a packed atomic has been performed (R207), with the old word. -/
  half : Option W32 := none
  deriving DecidableEq, Repr, Inhabited

/-- What a begun wait waits for. -/
inductive WaitFor where
  | take (t : Nat)
  | fence (sc : Scope) (tlb : Bool)
  /-- The wait of R198; the op is performed when it ends. -/
  | release (sc : Scope)
  | await (l : Loc)
  | ring (l : Loc) (peek : Bool)
  | copyQueue
  /-- A LAUNCH that has read its record waits as a DEV release (R262). -/
  | launch (raw : LineData)
  /-- The context's overflow ring is full, or its page is being filled (R264). -/
  | spill (raw : LineData) (since : Nat)
  /-- The object of a JNEW is stored; the join is registered when TICK has passed the stores (R271). -/
  | jnew (cell : Nat) (va : W64) (desc : BitVec 512) (wt : W32) (weights : List W32) (after : Nat)
  | jwait (cell : Nat) (va : W64)
  /-- A commit is done; its ticks must pass before the join unit counts it (R282). -/
  | arrive (after : Nat)
  | landing (d : DieId) (since : Nat)
  deriving DecidableEq, Repr, Inhabited

/-- Why a fragment is PARKED (R135). -/
inductive Park where
  /-- A lane fault: the lanes and addresses whose translations are outstanding, and whether the fragment could not split,
  so that all of them come first (R223). -/
  | fault (vas : List (Lane × W64)) (whole : Bool)
  /-- An absent presence line (R224). -/
  | presence (ls : List Loc)
  /-- The provisional budget (R278). -/
  | budget
  deriving DecidableEq, Repr, Inhabited

/-- The states of a fragment (R135). `free` is the absence of an entry. -/
inductive FragState where
  | ready
  | wait (i : Instr) (c : WaitFor)
  | convw
  /-- At a BAR: its number, the expected count, and the cycle of entry (R143, R144). -/
  | barw (id : BitVec 4) (n : Byte) (since : Nat)
  /-- A split does not fit: the cycle of its first try, and the groups it needs (R137). -/
  | fragw (since groups : Nat)
  | parked (p : Park)
  /-- Halted by the debugger with a cause (R342); `back` is the state it returns to. -/
  | halted (cause : Nat) (back : FragState)
  /-- Stopped by a kill, or by STOPIMP (R285, R320). -/
  | stopped
  deriving DecidableEq, Repr, Inhabited

/-- A fragment-table entry (R134). -/
structure Frag where
  warp : WarpIx
  pc : W64
  mask : LaneMask
  state : FragState := .ready
  /-- The trap-handler flag (R300). -/
  flag : Bool := false
  trap : TrapRegs := {}
  /-- The horizon H of its accesses (R198). -/
  hz : Nat := 0
  /-- Marks that its loads have read, for its next fence, and those that its last fence published (R203). -/
  seen : List Nat := []
  pub : List Nat := []
  /-- Registers whose result is not ready: key (0 to 47 V, 48 to 63 Y, 64 + p predicates) and cycle (R162). -/
  score : List (Nat × Nat) := []
  /-- The cycle it was last selected, or created (R142). -/
  lastSel : Nat := 0
  /-- The sequence number of its last op (R299). -/
  num : W64 := 0
  /-- A watch hit halts it before its next op (R349). -/
  watch : Bool := false
  /-- Its next op is being stepped, or must not match a breakpoint (R344, R346). -/
  step : Bool := false
  resume : Bool := false
  /-- Its next op has reached the instruction cache (R353). -/
  fetched : Bool := true
  deriving DecidableEq, Repr, Inhabited

/-- One lane of a warp (R6, R134, R300, R304). -/
structure LaneRegs where
  v : Vector W32 48
  /-- P0 to P7; bit 0 reads true whatever is stored. -/
  p : BitVec 8
  /-- Poisoned V registers, and for each the unit that detected the error, at bits [4v + 3:4v]. -/
  poison : BitVec 48
  punit : BitVec 192 := 0
  /-- The handler lane bank: V44 to V47 and P1 to P7. -/
  bankV : Vector W32 4
  bankP : BitVec 8
  deriving DecidableEq, Repr, Inhabited

/-- Where an away warp comes from (R372). -/
structure Origin where
  core : CoreId
  ix : WarpIx
  deriving DecidableEq, Repr, Inhabited

/-- What the ops of a warp's fragments find in a cycle in which two of them issue: the registers as they stood at its start, and
the flags that they have set in it (R52, R101, R183). -/
structure CycleRegs where
  fpctl : W32
  fpstat : W32
  tbase : W64
  sel : Option Nat
  flags : BitVec 5 := 0
  deriving DecidableEq, Repr, Inhabited

/-- A resident warp (R132). -/
structure Warp where
  team : Nat
  lanes : Vector LaneRegs 32
  fpctl : W32 := 0
  fpstat : W32 := 0
  tbase : W64 := 0
  wisn : W64 := 0
  /-- The team tile its window selects (R183). -/
  sel : Option Nat := none
  /-- The selection that fragments in WAIT issued their op under, when a TSEL has changed it since (R183). -/
  sels : List (FragId × Option Nat) := []
  /-- The start of the cycle, while two of its fragments issue in it. -/
  now : Option CycleRegs := none
  /-- The cycle it became resident (R142). -/
  born : Nat := 0
  /-- Its origin, for a warp that has migrated (R372). -/
  away : Option Origin := none
  /-- The origin slot is reserved; the warp runs elsewhere (R372). -/
  gone : Bool := false
  /-- A debugger's HALT of each fragment waits for its next kill point (R341, R347). -/
  haltReq : List (FragId × Nat) := []
  /-- STOPIMP stops it at its next op boundary (R320). -/
  stopReq : Bool := false
  /-- A kill request is pending (R284). -/
  kill : Bool := false
  /-- Barriers whose phase was open when it came back from a migration: it counts from the next phase on (R144). -/
  uncounted : BitVec 16 := 0
  deriving DecidableEq, Repr, Inhabited

/-! ## Strands -/

/-- A loop-stack entry (R98). -/
structure LoopEntry where
  start : W64
  stop : W64
  count : W64
  deriving DecidableEq, Repr, Inhabited

/-- What a pending result writes (R6, R18, R22). -/
inductive PendDst where
  | sreg (r : Reg) (v : W64)
  | pred (p : Pred) (v : Bool)
  | twb (v : BitVec 9)
  | mxcfg (v : W64)
  | tile (t : Nat) (mx : Bool) (v : TileData)
  /-- Scale bytes of TCVT (R121). -/
  | bytes (t : Nat) (off : Nat) (v : List Byte)
  deriving DecidableEq, Repr, Inhabited

/-- A result that a unit has issued and that has not landed: due bundle clock, cycle of physical arrival, and the
writer in TPC layout (R18, R20, R23). -/
structure Pend where
  due : Nat
  arrive : Nat
  pc : W64
  dst : PendDst
  deriving DecidableEq, Repr, Inhabited

/-- A tile of the pool as a team's tile: its owner field, bytes and marks (R8, R114, R150, R304). -/
structure Tile where
  owner : BitVec 9
  data : TileData := 0
  suspect : Bool := false
  poison : Bool := false
  /-- The marked columns and rows, the discrepancies of a suspect tile, and the unit that found the error (R297, R298, R305). -/
  spot : BitVec 48 := 0
  gap : W64 := 0
  unit : Nat := 13
  /-- The cycle of the last physical arrival of a write from the giver's side, and of the last GIVE (R153). -/
  arrive : Nat := 0
  given : Nat := 0
  /-- The cycle in which the matrix engine has finished the results that were carried with it (R114, R152). -/
  mx : Nat := 0
  /-- The marks of that GIVE (R203). -/
  mark : List Nat := []
  deriving DecidableEq, Repr, Inhabited

/-- A store held in the segment store queue (R311). -/
structure SegStore where
  va : W64
  loc : Loc
  data : List Byte
  lease : Nat
  /-- The op's place and bundle clock, for records (R318). -/
  pc : W64
  wisn : W64
  /-- Its tokens: one for the first store of its op to each line (R365). -/
  cost : Nat := 1
  deriving DecidableEq, Repr, Inhabited

/-- The snapshot of a segment's entry (R310). -/
structure SegSnap where
  s : Vector W64 64
  p : BitVec 8
  /-- The poison marks that stand on the snapshot's S registers. -/
  poison : BitVec 64 := 0
  pc : W64
  clock : Nat
  loops : List LoopEntry
  mxcfg : W64
  twb : BitVec 9
  nxt : BitVec 2
  deriving DecidableEq, Repr, Inhabited

/-- A replay record: the S values, predicate and guard a not-done slot read (R306, R327). -/
structure Replay where
  a : W64 := 0
  b : W64 := 0
  d : W64 := 0
  /-- The pair partner of D, for a 128-bit store (R220). -/
  e : W64 := 0
  g : Bool := true
  deriving DecidableEq, Repr, Inhabited

/-- An op of a strand that has issued and waits: the status of a LAUNCH or JNEW is still to come (R22), and a JARR or IRREV
holds the next bundle (R262, R271, R280, R281). -/
structure Hold where
  i : Instr
  slot : Slot
  cond : WaitFor
  pc : W64
  clock : Nat
  /-- The release that it is: the accesses before it carry the mark (R198, R203). -/
  mark : List Nat := []
  deriving DecidableEq, Repr, Inhabited

/-- Why the bundle at PC did not issue at its last attempt (R22, R23, R148). -/
inductive Stall where
  | landing
  | unit (n : Slot)
  | take (t : Nat)
  | await (l : Loc)
  | ring (l : Loc) (peek : Bool)
  | jwait (va : W64)
  | copyQueue
  | presence (ls : List Loc)
  | pager (va : W64)
  | budget
  deriving DecidableEq, Repr, Inhabited

/-- The states of a bound strand (R147, R306, R342). -/
inductive StrandState where
  | ready
  | bar (id : BitVec 4)
  /-- At an RDV: its number, and the behind partners it waits for (R313). -/
  | rdv (n : BitVec 16) (behind : List (CoreId × StrandId))
  /-- END has issued; pending writes and sent accesses remain (R28). -/
  | ending
  | stopped
  | halted (cause : Nat) (back : StrandState)
  | killed
  deriving DecidableEq, Repr, Inhabited

/-- What the slots of the bundle being issued have decided so far. -/
structure BundleFx where
  faults : List (Slot × TrapInfo) := []
  stall : Option Stall := none
  target : Option W64 := none
  isYield : Bool := false
  isEnd : Bool := false
  /-- The bundle closes its segment, opens one, or holds a kill point. -/
  close : Bool := false
  segb : Bool := false
  killPoint : Bool := false
  watch : Bool := false
  rewind : Bool := false
  /-- The lowest slot that asks for the rewind (R312, R318). -/
  rewinder : Slot := 0
  /-- The tile that its GIVE has offered (R180). -/
  gave : Option Nat := none
  /-- Slots left for a later turn: they come after what the rest of the bundle has begun (R199, R227). -/
  later : List Slot := []
  deriving DecidableEq, Repr, Inhabited

/-- A bound strand (R6, R7). -/
structure Strand where
  team : Nat
  s : Vector W64 64
  p : BitVec 8 := 1
  /-- Poisoned S registers (R312). -/
  poison : BitVec 64 := 0
  pc : W64
  clock : Nat := 0
  twb : BitVec 9 := 0
  mxcfg : W64 := 0
  /-- Innermost entry first; at most 4 (R98). -/
  loops : List LoopEntry := []
  nxt : BitVec 2 := 0
  /-- In order of issue. -/
  pend : List Pend := []
  /-- First free bundle clock of the MX, TV, TR and SF units (slots 2 to 5) (R21). -/
  busy : Vector Nat 4
  state : StrandState := .ready
  /-- The wait at a BAR or RDV that has issued in the bundle at PC, while another slot of it is still to be issued
  (R166, R306). -/
  back : StrandState := .ready
  stall : Option Stall := none
  /-- The page whose fill failed while the bundle waited for it (R217). -/
  failed : Option Nat := none
  holds : List Hold := []
  trap : TrapRegs := {}
  hz : Nat := 0
  /-- As a fragment's (R203). -/
  seen : List Nat := []
  pub : List Nat := []
  fx : BundleFx := {}
  /-- Slots of the bundle at PC that are done (R306), and the replay records of the others. -/
  done : BitVec 8 := 0
  replay : Vector (Option Replay) 8
  /-- The segment (R309 to R312). -/
  segOpen : Bool := false
  rewound : Bool := false
  behind : Bool := false
  /-- A rewind has begun: it waits for the matrix ops that have issued (R312). -/
  rewinding : Bool := false
  snap : Option SegSnap := none
  undo : List (Nat × Tile) := []
  queue : List SegStore := []
  /-- NXT sets delivered in the open segment, and those to be replayed after a rewind (R266). -/
  segSets : List Nat := []
  replaySets : List Nat := []
  /-- A slot-by-slot step (R346), and a resumption that no breakpoint matches. -/
  step : Bool := false
  stepAll : Bool := false
  resume : Bool := false
  haltReq : Option Nat := none
  stopReq : Bool := false
  kill : Bool := false
  deriving DecidableEq, Repr, Inhabited

/-! ## Cores -/

/-- A team's share of one core: its tiles, shared memory, warp slots and strand (R131). -/
structure Seat where
  team : Nat
  tiles : List Tile
  shared : Memory := []
  /-- Lines whose presence bit is 0 (R246), and poisoned lines (R304). -/
  absent : List Nat := []
  poisoned : List Nat := []
  /-- Warp slots in index order (R130). -/
  slots : List WarpIx := []
  strand : Option StrandId := none
  /-- The warp slots, in the same order, and the strand that a protected team takes on its proof core (R130, R146, R314). -/
  lentSlots : List WarpIx := []
  lentStrand : Option StrandId := none
  deriving DecidableEq, Repr, Inhabited

/-- A leaf translation held in a TLB: context, first address, size, level and entry word (R212). -/
structure TlbEntry where
  ctx : CtxId
  base : Nat
  size : Nat
  pte : W64
  deriving DecidableEq, Repr, Inhabited

/-- An L1 line: canonical line number, lease expiry and data (R192). -/
structure L1Line where
  line : Nat
  e : Nat
  data : LineData
  /-- What its fill read (R203). -/
  syncs : List Sync := []
  deriving DecidableEq, Repr, Inhabited

/-- A copy request as its 64 bytes give it, with its issuer (R241, R242). -/
structure CopyReq where
  /-- The request that stands for it among its issuer's accesses, while it is queued. -/
  id : Nat
  raw : BitVec 512
  team : Nat
  ctx : CtxId
  who : AgentRef
  place : Option (CoreId × WarpIx)
  agent : Nat
  gone : Bool := false
  /-- What the engine inherits from the issuer at CORE scope (R242). -/
  mark : List Nat := []
  /-- The indices of GATHER and SCATTER read so far (R241). -/
  idx : List Nat := []
  wisn : W64
  pc : W64
  /-- In a saved request: the agents whose later waits cover its acceptance (R198, R323). -/
  owners : List AgentRef := []
  deriving DecidableEq, Repr, Inhabited

/-- An accepted copy request (R243, R244). -/
structure Copy where
  id : Nat
  req : CopyReq
  /-- Device lines marked engine-pending, each with the bytes still to be written into it (R243). -/
  marks : List (Nat × Nat) := []
  /-- Next element and byte of it to be moved. -/
  elem : Nat := 0
  off : Nat := 0
  /-- Largest completion tick of its global writes. -/
  hz : Nat := 0
  /-- Bytes written, and bytes counted into the arrival word. -/
  written : Nat := 0
  counted : Nat := 0
  /-- Shared lines whose presence bit is still to be set: owning core and line, and the bytes still to be written into it
  (R244). -/
  lines : List (CoreId × Nat × Nat) := []
  /-- All bytes moved; commit made. -/
  moved : Bool := false
  committed : Bool := false
  /-- Parked on the provisional budget (R278). -/
  budget : Bool := false
  deriving DecidableEq, Repr, Inhabited

/-- The stall sampler's registers (R350). -/
structure Sampler where
  period : BitVec 16 := 17
  ctx : CtxId := 0
  busy : Nat := 0
  en : Bool := false
  base : W64 := 0
  count : W32 := 0
  idx : W32 := 0
  drop : W32 := 0
  /-- Cycle in which EN became 1, the round-robin pointer, and the completion tick of the written records (R351). -/
  since : Nat := 0
  ptr : Nat := 0
  hz : Nat := 0
  deriving DecidableEq, Repr, Inhabited

/-- A strand number's loop counters (R355): LCSEL, and FILLED, EMPTY, STALL of each slot. -/
structure LoopCounters where
  sel : W64 := 0
  filled : Vector W32 8
  empty : Vector W32 8
  stall : Vector W32 8
  deriving DecidableEq, Repr, Inhabited

/-- A core. -/
structure Core where
  /-- CLOCK: core cycles since the core left reset (R103). -/
  cycle : Nat := 0
  strands : Vector (Option Strand) 8
  /-- The strand that holds the front end, and the cycle from which it may issue (R147). -/
  front : Option StrandId := none
  bubble : Nat := 0
  /-- The strand that left the front end idle (R147). -/
  lastFront : StrandId := 7
  /-- Cycle from which the MX, TV, TR and SF units are physically free (R21, R148). -/
  unitFree : Vector Nat 4
  /-- Warp slots 0 to 63 and landing slots 64 to 67 (R131, R374). -/
  warps : Vector (Option Warp) 68
  frags : Vector (Option Frag) 192
  /-- Fragments selected in the last cycle of each quadrant (R142). -/
  lastSel : List FragId := []
  /-- Fragments that were selected in the current cycle (R142, R351). -/
  issued : List FragId := []
  /-- The signatures of the protected pair do not agree in the current cycle (R315). -/
  mismatch : Bool := false
  seats : List Seat := []
  /-- What is left of teams that have released the core while copy requests of theirs are still to complete: the shared memory
  that those read and write (R157, R244; log entry 12). -/
  ended : List Seat := []
  l1 : List L1Line := []
  tlb : List TlbEntry := []
  copyQ : List CopyReq := []
  copies : List Copy := []
  /-- Abandoned requests of each resident team (R240). -/
  abandoned : List (Nat × Nat) := []
  sampler : Sampler := {}
  loopCtr : Vector LoopCounters 8
  deriving DecidableEq, Repr, Inhabited

/-! ## Teams, grids, queues and joins -/

/-- A barrier of a team (R143, R144): the count of the phase. Who has arrived is seen from the agents' states. -/
structure Barrier where
  n : Byte := 0
  /-- The phase opened with a first arrival. -/
  phase : Bool := false
  deriving DecidableEq, Repr, Inhabited

/-- A team's place in its life (R157, R308). -/
inductive TeamStatus where
  /-- Holds its cores. -/
  | placed
  /-- Is being saved: agents are stopping (R323). -/
  | saving
  /-- Is being flushed: accepted copy requests complete (R324). -/
  | flushing
  | saved
  /-- All agents finished; only the record is kept (R157). -/
  | record
  | retired
  deriving DecidableEq, Repr, Inhabited

/-- A core's share of a saved team as it stood (R323). -/
structure SavedCore where
  seat : Seat
  warps : List (WarpIx × Warp)
  frags : List (FragId × Frag)
  strand : Option Strand
  deriving DecidableEq, Repr, Inhabited

/-- A team (R129). Its launch record is that of its grid. -/
structure Team where
  id : Nat
  grid : Nat
  ctx : CtxId
  /-- Team coordinates x, y, z (R103). -/
  x : BitVec 16 := 0
  y : BitVec 16 := 0
  z : BitVec 16 := 0
  /-- Its cores by logical position; plate cores of a protected team (R314). -/
  cores : List CoreId := []
  /-- First cluster position (R129). -/
  pos : Nat := 0
  status : TeamStatus := .placed
  bars : Vector Barrier 16
  /-- Save blocks by logical position (R389). -/
  blocks : List Nat := []
  /-- The join and index it is bound as (R272). -/
  member : Option (Nat × Nat) := none
  /-- Tick of placement, run ticks before it, and the tick of a DRAIN choice (R322). -/
  placed : Nat := 0
  drain : Option Nat := none
  /-- Tile-queue sets delivered since its start, and those to be delivered again (R266). -/
  sets : List Nat := []
  again : List Nat := []
  /-- The largest completion tick of its writes (R260, R283). -/
  hz : Nat := 0
  /-- What a save keeps beside the save blocks' laid-out parts: the cores as they stood (R323). -/
  image : List SavedCore := []
  /-- Copy requests that were queued on each of its cores (R323). -/
  savedCopies : List (List CopyReq) := []
  /-- A stopped agent of a saved team waits for the host, which has asked for its restore (R308, R386). -/
  resume : Bool := false
  deriving DecidableEq, Repr, Inhabited

/-- A grid (R156, R258): its launch record's 128 bytes and its progress. -/
structure Grid where
  id : Nat
  /-- Grid number within the context, and nesting depth (R103). -/
  number : W32
  depth : Nat
  ctx : CtxId
  raw : LineData
  cls : Nat
  /-- The queue it comes from: its die, and the child queue of context c (c) or hardware queue 64 x die + j (64 + j). -/
  die : DieId
  key : Nat
  parent : Option Nat := none
  /-- Next team in linear order, and teams retired. -/
  next : Nat := 0
  retired : Nat := 0
  /-- Flushed teams to be placed again first: their linear numbers and delivered sets (R324). -/
  again : List (Nat × List Nat × Option (Nat × Nat)) := []
  /-- The tile-queue counter (R265). -/
  tq : Nat := 0
  /-- Run ticks of its retired teams (R322). -/
  runSum : Nat := 0
  runNum : Nat := 0
  /-- The largest completion tick of its flushed teams' writes (R260, R324). -/
  hz : Nat := 0
  /-- The marks of the events that its start has acquired (R203, R261). -/
  marks : List Nat := []
  /-- All teams retired; the signal is still to be made (R260). -/
  ended : Bool := false
  deriving DecidableEq, Repr, Inhabited

/-- A registered hardware queue (R254). -/
structure Queue where
  /-- PKG-view address of its queue block. -/
  block : Nat
  ring : W64
  ctx : CtxId
  log2n : Nat
  quantum : Nat
  cls : Nat
  head : BitVec 16
  tail : BitVec 16
  deficit : Nat := 0
  /-- Tick of the last reading of its wait events, and whether they are to be read at once (R260). -/
  polled : Nat := 0
  look : Bool := true
  /-- QUNREG: starts no further record (R386). -/
  closing : Bool := false
  deriving DecidableEq, Repr, Inhabited

/-- A record of a child queue (R262, R263). -/
structure Child where
  raw : LineData
  parent : Nat
  depth : Nat
  deriving DecidableEq, Repr, Inhabited

/-- A context's child queue on one die (R263). -/
structure ChildQueue where
  ctx : CtxId
  recs : List Child := []
  deficit : Nat := 0
  polled : Nat := 0
  look : Bool := true
  deriving DecidableEq, Repr, Inhabited

/-- The states of a join member (R274). -/
inductive MemberState where
  | unbound | running | pledged | arrived | killing | killed | cancelled
  deriving DecidableEq, Repr, Inhabited

/-- A bound or cancelled member (R272, R273). -/
structure Member where
  state : MemberState
  team : Option Nat
  weight : W32
  retired : Bool := false
  /-- Its context has stopped: it is flushed where it stands (R274; log entry 83). -/
  stop : Bool := false
  deriving DecidableEq, Repr, Inhabited

/-- STATE of a join (R269). -/
inductive JoinState where
  | opened | quorum | released | failed
  deriving DecidableEq, Repr, Inhabited

/-- A live join at its join unit (R269, R270). -/
structure Join where
  /-- Device cell and virtual address of its object. -/
  cell : Nat
  va : W64
  ctx : CtxId
  desc : BitVec 512
  state : JoinState := .opened
  killed : BitVec 16 := 0
  bound : BitVec 16 := 0
  arrived : BitVec 16 := 0
  pledged : BitVec 16 := 0
  wa : W32 := 0
  wt : W32
  q : BitVec 16
  f : W32 := 0
  qtick : W64 := 0
  rtick : W64 := 0
  /-- Members by index, bound ones first. -/
  members : List Member := []
  /-- Indexes that have arrived, in order. -/
  mask : List Nat := []
  /-- The weights of the table as JNEW read them; none with WTAB = 0 (R271, R273). -/
  weights : List W32 := []
  /-- The join unit is between the commit of a member and its count: the member and the tick to pass (R282). -/
  busy : Option (Nat × Nat) := none
  /-- The fill has been made: the tick to pass, and whether every element was in reach (R287). -/
  filled : Option (Nat × Bool) := none
  deriving DecidableEq, Repr, Inhabited

/-- A provisional effect on device memory (R275, R277). -/
inductive HeldEff where
  | bytes (data : W32)
  | delta (op : AtomOp) (v : W64) (parts : List W32)
  deriving DecidableEq, Repr, Inhabited

/-- A held effect of member `member` of the join at `join`, on the 4-byte word `word` (cell / 4). -/
structure Held where
  join : Nat
  member : Nat
  word : Nat
  eff : HeldEff
  deriving DecidableEq, Repr, Inhabited

/-- A provisional CMAP bit (R275): the ring's block, and the slot index. -/
structure HeldCommit where
  join : Nat
  member : Nat
  core : CoreId
  team : Nat
  off : Nat
  slot : Nat
  deriving DecidableEq, Repr, Inhabited

/-! ## Contexts -/

/-- A context's debug block (R340, R343, R349). -/
structure Debug where
  right : Bool := false
  armbrk : Bool := false
  stopall : Bool := false
  cmd : W64 := 0
  status : Byte := 0
  /-- The target of the command under way, as it is now called; none for a stop-all (R341). -/
  job : Option AgentRef := none
  breaks : Vector (W64 × W64) 16
  watch : Vector (W64 × W64) 8
  /-- An edit has been made while the right was held (R329). -/
  edited : Bool := false
  deriving DecidableEq, Repr, Inhabited

/-- A record in a context's overflow ring, in the order of the ring (R263, R264): its die, parent team and depth, and whether it
has returned to its child queue while an earlier one waits. -/
structure Spilled where
  die : DieId
  parent : Nat
  depth : Nat
  back : Bool := false
  deriving DecidableEq, Repr, Inhabited

/-- The fields of an error record that its writer gives (R318). -/
structure ErrRec where
  cls : Nat
  detail : Nat := 0
  rdie : DieId := 0
  core : CoreId := 0
  akind : Nat := 0
  agent : Nat := 0
  frag : Nat := 0
  iret : Bool := false
  precise : Bool := false
  stopd : Bool := false
  wisn : W64 := 0
  pc : W64 := 0
  addr : W64 := 0
  synd : W64 := 0
  team : W64 := 0
  grid : W32 := 0
  deriving DecidableEq, Repr, Inhabited

/-- What the policy of a record may stop: nothing; the context, when STOP is 1; or its issuer, of a team, when STOPIMP is 1 (R301,
R308, R320). -/
inductive RecStop where
  | never
  | context
  | agent (team : Nat)
  deriving DecidableEq, Repr, Inhabited

/-- A record that a context has generated (R318, R320): it waits to be written, or, with its completion tick and the TAIL that
follows it, for TAIL to advance. -/
structure PendingRec where
  info : ErrRec
  seq : W32
  stop : RecStop := .never
  who : Option AgentRef := none
  place : Option (CoreId × WarpIx) := none
  tail : Option (Nat × Nat) := none
  deriving DecidableEq, Repr, Inhabited

/-- A live context (R389). -/
structure Ctx where
  /-- PKG-view address of its record. -/
  record : Nat
  root : Nat
  pager : W64
  errq : W64
  ovbase : W64
  ovlog : Nat
  ovhead : BitVec 16
  ovtail : BitVec 16
  spstop : Bool := false
  spilled : List Spilled := []
  buckets : Vector W64 3
  /-- Level of each class on each die, in 2^-8 token (R366). -/
  levels : Vector (Vector Nat 3) 4
  savebase : W64
  savecnt : Nat
  grants : Vector (Nat × Nat) 4
  /-- Save blocks in use, and those whose team is saved. -/
  used : List Nat := []
  stopped : Bool := false
  /-- STOP and STOPIMP as last read, and SEQ (R318, R320). -/
  stop : Bool := false
  stopimp : Bool := false
  seq : W32 := 0
  /-- Records that are not yet in the queue, and bits of its flags to be set or cleared (R317, R320). -/
  recs : List PendingRec := []
  flagJobs : List (Nat × Bool) := []
  grids : W32 := 0
  port : PortId := 0
  dbg : Debug
  deriving DecidableEq, Repr, Inhabited

/-- A fill whose frame has been written and whose swap waits for TICK (R216): the entry as it was read and its cell, the
frame's address bits, HEAD as it was read, and the completion tick of the frame's writes. -/
structure FillWork where
  old : W64
  cell : Nat
  frame : Nat
  head : Nat
  w : Nat
  deriving DecidableEq, Repr, Inhabited

/-- A pager fill under way (R216, R217). -/
structure Fill where
  ctx : CtxId
  page : Nat
  /-- The pool it takes a frame from. -/
  pool : Nat
  /-- Tick at which the pool was found empty; its record is written. -/
  empty : Option Nat := none
  start : Option FillWork := none
  deriving DecidableEq, Repr, Inhabited

/-! ## Dies, ports and the package -/

/-- The states of bring-up (R385). -/
inductive DieState where
  | reset | selftest | fwload | link | ready | failed
  deriving DecidableEq, Repr, Inhabited

/-- RST of RSTAT (R384). -/
inductive Restrike where
  | idle | staged | progress | done | rolledBack | rejected
  deriving DecidableEq, Repr, Inhabited

/-- The hand-over record of a restrike, in die-private controller memory: its header's fields, and the values that its body holds in the
manual's order (R393). -/
structure HandOver where
  format : Nat
  kind : Fin 3
  die : DieId
  len : Nat
  tick : Nat
  digest : BitVec 256
  body : List Nat
  deriving DecidableEq, Repr, Inhabited

/-- A restrike in progress on a die (R392). -/
structure Striking where
  ctl : Fin 3
  /-- The retained image is starting (rollback). -/
  back : Bool := false
  port : PortId := 0
  quiesce : Nat := 0
  started : Nat := 0
  placeReady : Bool := false
  /-- The launch engine places on its tables as they stood (R392). -/
  tables : Bool := false
  deriving DecidableEq, Repr, Inhabited

/-- A stipple tag: set, line, last (R357). -/
structure Tag where
  set : Fin 4
  line : Nat
  last : Nat
  deriving DecidableEq, Repr, Inhabited

/-- The stipple sampler of a die (R356). -/
structure Stipple where
  k : BitVec 5 := 0
  ctx : CtxId := 0
  en : Bool := false
  krn : Vector W64 4
  hist : Vector (Vector W32 32) 4
  new : Vector W32 4
  count : Vector Nat 4
  tags : List Tag := []
  deriving DecidableEq, Repr, Inhabited

/-- A die. -/
structure Die where
  state : DieState := .reset
  err : Byte := 0
  /-- Bridges up: pair, cross (R384). -/
  pair : Bool := false
  cross : Bool := false
  /-- Running images of the management, launch engine and fabric controllers. -/
  running : Vector Image 3
  /-- The image store, when a restrike has changed it: primary and retained images (R385, R391). -/
  store : Option (Vector Image 3 × Vector Image 3) := none
  /-- The staged image: its controller, PERSIST, and the watchdog in ms. -/
  staged : Option (Fin 3 × Image × Bool × Nat) := none
  rst : Restrike := .idle
  rstCtl : Fin 3 := 0
  strikes : W32 := 0
  striking : Option Striking := none
  /-- The hand-over record of the last restrike (R393). -/
  hand : Option HandOver := none
  /-- Corrected and uncorrectable errors (R390). -/
  corrected : Nat := 0
  uncorrected : Nat := 0
  stipple : Stipple
  /-- Frequency step of each octet, 1.0 GHz + 250 MHz x step, and the phase of its clock (R395). -/
  freq : Vector (Fin 13) 8
  phase : Vector Nat 8
  tlb : List TlbEntry := []
  children : List ChildQueue := []
  /-- The turn in each class: 2 x the queue's key, plus 1 when its turn has begun (R255, R263). -/
  turn : Vector Nat 4
  deriving DecidableEq, Repr, Inhabited

/-- A posted write at a port's ordering point (R382). -/
structure Posted where
  id : Nat
  /-- A window write (PKG-view address and bytes), or a BAR 0 register write (offset and value). -/
  addr : Nat
  data : List Byte
  reg : Bool
  ro : Bool
  /-- Largest completion tick of its marks. -/
  hz : Nat := 0
  /-- Performed: the completion tick of its data. -/
  done : Option Nat := none
  deriving DecidableEq, Repr, Inhabited

/-- A host port (R378, R379, R386). -/
structure Port where
  winbase : W64 := 0
  args : Vector W64 4
  hcmd : Byte := 0
  hstat : Byte := 0
  /-- The number of the write that started the command: TLBINV waits for the writes before it (R387). -/
  since : Nat := 0
  posted : List Posted := []
  /-- Raised MSI-X vectors, oldest first (R380). -/
  vectors : List Nat := []
  /-- Error-queue vectors held while the management controller is exchanged (R392). -/
  later : List Nat := []
  /-- Completions of non-posted reads, oldest first (R383). -/
  reads : List (List Byte) := []
  deriving DecidableEq, Repr, Inhabited

/-- What a home slice knows of a line it holds (R193, R195, R202). -/
structure HomeLine where
  line : Nat
  e : Nat := 0
  /-- Engine-pending marks, by owner number. -/
  pend : List Nat := []
  poison : Bool := false
  /-- The unit that detected the error (R297, R304). -/
  unit : Nat := 11
  deriving DecidableEq, Repr, Inhabited

/-- Who issues the op that `exec` is given. -/
inductive Issuer where
  | none
  | frag (k : CoreId) (f : FragId)
  | strand (k : CoreId) (n : StrandId) (slot : Slot)
  deriving DecidableEq, Repr, Inhabited

/-- A step that is due. The agenda is the model's own schedule (log entry 2). -/
inductive Choice where
  /-- Fragment f of core k issues its next op. -/
  | frag (k : CoreId) (f : FragId)
  /-- Strand n of core k issues or skips its next bundle. -/
  | strand (k : CoreId) (n : StrandId)
  /-- The copy engine of core k moves the next piece of copy c. -/
  | engine (k : CoreId) (c : Nat)
  /-- An internal step, or something the outside does. -/
  | event (i : Instr)
  /-- The protected pair of core k compares its signatures for the cycle (R315; log entry 31). -/
  | compare (k : CoreId)
  /-- A hardware error: an uncorrectable one, or one that a beat's checksum lane finds (R114, R304; log entry 32). -/
  | error
  deriving DecidableEq, Repr, Inhabited

/-- A unit that reaches memory through a context's tables: a copy, the head of a launch engine's queue, a grid that retires, a join, the
launch engine's reads of an overflow ring, and the LAUNCHes that write to it. -/
inductive UnitRef where
  | copy (id : Nat)
  | queue (d : DieId) (key : Nat)
  | grid (id : Nat)
  | join (cell : Nat)
  | ring (c : CtxId)
  | spill (c : CtxId)
  deriving DecidableEq, Repr, Inhabited

/-- A unit that is about to reach a page of a context, or is told that the page's fill failed (R216, R217). -/
structure Want where
  ctx : CtxId
  page : Nat
  unit : UnitRef
  deriving DecidableEq, Repr, Inhabited

/-- The package. -/
structure State where
  /-- The global tick (R2), and the quarter-tick within it (log entry 2). -/
  tick : Nat
  quarter : Nat
  dies : Vector Die 4
  cores : Vector Core 256
  ports : Vector Port 4
  ctxs : Vector (Option Ctx) 64
  queues : Vector (Option Queue) 256
  /-- Device memory, and host memory as the ports reach it (R188, R369). -/
  dev : Memory
  host : Memory
  /-- Lines that a home slice holds, and each slice's expiry floor (R195). -/
  lines : List HomeLine
  floors : Vector Nat 512
  reqs : List Req
  /-- What releases have published, and where (R203). -/
  marks : List Mark
  syncs : List Sync
  teams : List Team
  grids : List Grid
  /-- The records of retired teams and grids that copy requests still name (R244, R321; log entry 12). -/
  past : List Team
  pastGrids : List Grid
  joins : List Join
  held : List Held
  heldCmap : List HeldCommit
  fills : List Fill
  /-- The pages that units are about to reach, as last listed, and those whose fill failed while a unit waited for it, until the unit
  has been told (R217). -/
  wants : List Want
  failed : List Want
  /-- Peer refusals, and other numbers, are drawn from these counters. -/
  nextId : Nat
  /-- The model's own counter of free values (log entry 3). -/
  free : Nat
  /-- The model's own schedule, issuer and bundle-start copy of the issuing core (log entry 2). -/
  agenda : List Choice
  issuer : Issuer
  start : Option Core
  deriving DecidableEq, Repr, Inhabited

/-! ## Reset -/

/-- A lane's registers before a warp sets them. -/
def LaneRegs.reset : LaneRegs :=
  { v := Vector.replicate 48 0, p := 1, poison := 0, bankV := Vector.replicate 4 0, bankP := 0 }

/-- Loop counters after reset (R355). -/
def LoopCounters.reset : LoopCounters :=
  { filled := Vector.replicate 8 0, empty := Vector.replicate 8 0, stall := Vector.replicate 8 0 }

/-- A core after reset: nothing resident (R131). -/
def Core.reset : Core :=
  { strands := Vector.replicate 8 none, unitFree := Vector.replicate 4 0, warps := Vector.replicate 68 none,
    frags := Vector.replicate 192 none, loopCtr := Vector.replicate 8 LoopCounters.reset }

/-- The stipple sampler after reset (R356). -/
def Stipple.reset : Stipple :=
  { krn := Vector.replicate 4 0, hist := Vector.replicate 4 (Vector.replicate 32 0), new := Vector.replicate 4 0,
    count := Vector.replicate 4 0 }

/-- A die after reset: state RESET, every octet at 4.0 GHz (R384, R385; log entry 9). -/
def Die.reset : Die :=
  { running := Vector.replicate 3 {}, stipple := Stipple.reset, freq := Vector.replicate 8 12, phase := Vector.replicate 8 0,
    turn := Vector.replicate 4 0 }

/-- A port after reset (R386). -/
def Port.reset : Port := { args := Vector.replicate 4 0 }

/-- The debug block of a new context (R340). -/
def Debug.reset : Debug := { breaks := Vector.replicate 16 (0, 0), watch := Vector.replicate 8 (0, 0) }

/-- The package right after reset: every die in RESET, no context, no queue, nothing resident, no line held and every
floor 0 (R195, R385). -/
def State.reset : State :=
  { tick := 0, quarter := 0, dies := Vector.replicate 4 Die.reset, cores := Vector.replicate 256 Core.reset,
    ports := Vector.replicate 4 Port.reset, ctxs := Vector.replicate 64 none, queues := Vector.replicate 256 none,
    dev := [], host := [], lines := [], floors := Vector.replicate 512 0, reqs := [], marks := [], syncs := [], teams := [], grids := [], past := [],
    pastGrids := [], joins := [], held := [], heldCmap := [], fills := [], wants := [], failed := [], nextId := 0, free := 0, agenda := [], issuer := .none,
    start := none }

end Sys2Proof.Machine
end

