-- ==== Sys2Proof/Machine/Mem.lean ====
section
/-! DEFINITION. Memory, its homes and leases, and the accessors of the package's tables.

Memory is one canonical list of cells; what an unlisted cell reads as is `unlisted` (log entry 1). -/

namespace Sys2Proof.Machine

/-- The outcome of a meaning. -/
abbrev Out := Host.Outcome State Fault Refusal

/-! ## The canonical memory -/

/-- What a byte that nothing has written reads as: 0 (R133, R191; log entry 1). -/
def unlisted : Byte := 0

/-- The addresses rise strictly, and no entry equals what an unlisted address reads as. -/
def Memory.wf : Memory → Bool
  | [] => true
  | [(_, b)] => b != unlisted
  | (a, b) :: (a', b') :: m => b != unlisted && a < a' && Memory.wf ((a', b') :: m)

/-- The byte at an address. -/
def memRead : Memory → Nat → Byte
  | [], _ => unlisted
  | (a', b) :: m, a => if a = a' then b else if a < a' then unlisted else memRead m a

/-- A byte put in front of a memory whose addresses all lie above it. -/
def memCons (a : Nat) (b : Byte) (m : Memory) : Memory := if b = unlisted then m else (a, b) :: m

/-- One byte written, in canonical form. -/
def memWrite : Memory → Nat → Byte → Memory
  | [], a, b => memCons a b []
  | (a', b') :: m, a, b =>
    if a < a' then memCons a b ((a', b') :: m)
    else if a = a' then memCons a b m
    else (a', b') :: memWrite m a b

/-- `n` bytes from an address. -/
def memBytes (m : Memory) (a : Nat) : Nat → List Byte
  | 0 => []
  | n + 1 => memRead m a :: memBytes m (a + 1) n

/-- Bytes written from an address on. -/
def memPut (m : Memory) (a : Nat) : List Byte → Memory
  | [] => m
  | b :: bs => memPut (memWrite m a b) (a + 1) bs

/-- A range removed: its bytes read as unlisted. -/
def memClear (m : Memory) (a n : Nat) : Memory := m.filter fun c => c.1 < a || a + n ≤ c.1

/-- The little-endian number in `n` bytes. -/
def memNat (m : Memory) (a n : Nat) : Nat := natLE (memBytes m a n)

/-! ## Homes (R194) -/

/-- The die of a stack order in the PKG view. -/
def pkgStack (u : Nat) : Nat := [0, 2, 4, 6, 1, 3, 5, 7].getD (u % 8) 0

/-- The cell of a PKG-view address (R194). -/
def pkgCell (a : Nat) : Nat :=
  let u := a / 2048
  pkgStack u * Config.stackBytes + (u / 8) * 2048 + a % 2048

/-- The cell of a DIE(d)-view address (R194). -/
def dieCell (d a : Nat) : Nat :=
  let u := a / 2048
  (2 * d + u % 2) * Config.stackBytes + (u / 2) * 2048 + a % 2048

/-- The stack of a cell. -/
def stackOf (cell : Nat) : Nat := cell / Config.stackBytes

/-- The home die of a cell (R194). -/
def dieOf (cell : Nat) : DieId := Fin.ofNat 4 (stackOf cell / 2)

/-- The home slice of a cell: 128 x die + slice (R194). -/
def sliceOf (cell : Nat) : Fin 512 :=
  let stack := stackOf cell
  let off := cell % Config.stackBytes
  Fin.ofNat 512 (128 * (stack / 2) + 64 * (stack % 2) + (off / 128 % 64) ^^^ (off / 1048576 % 64))

/-- The 128-byte line of a cell. -/
def lineOf (cell : Nat) : Nat := cell / 128

/-! ## Tables of the package -/

/-- A core. -/
def coreAt (s : State) (k : CoreId) : Core := s.cores[k]
/-- A core replaced. -/
def setCore (s : State) (k : CoreId) (c : Core) : State := { s with cores := s.cores.set k c }
/-- A core changed. -/
def modCore (s : State) (k : CoreId) (g : Core → Core) : State := setCore s k (g (coreAt s k))

/-- A die. -/
def dieAt (s : State) (d : DieId) : Die := s.dies[d]
/-- A die changed. -/
def modDie (s : State) (d : DieId) (g : Die → Die) : State := { s with dies := s.dies.set d (g (dieAt s d)) }

/-- A port. -/
def portAt (s : State) (p : PortId) : Port := s.ports[p]
/-- A port changed. -/
def modPort (s : State) (p : PortId) (g : Port → Port) : State := { s with ports := s.ports.set p (g (portAt s p)) }

/-- A live context. -/
def ctxAt (s : State) (c : CtxId) : Option Ctx := s.ctxs[c]
/-- A context replaced. -/
def setCtx (s : State) (c : CtxId) (x : Option Ctx) : State := { s with ctxs := s.ctxs.set c x }
/-- A live context changed. -/
def modCtx (s : State) (c : CtxId) (g : Ctx → Ctx) : State :=
  match ctxAt s c with
  | some x => setCtx s c (some (g x))
  | none => s

/-- A registered queue. -/
def queueAt (s : State) (q : QueueId) : Option Queue := s.queues[q]
/-- A queue replaced. -/
def setQueue (s : State) (q : QueueId) (x : Option Queue) : State := { s with queues := s.queues.set q x }

/-- The die of a core (R103). -/
def coreDie (k : CoreId) : DieId := Fin.ofNat 4 (k.val / 64)

/-- A team record: of a live team, or of one that copy requests still name. -/
def teamAt (s : State) (t : Nat) : Option Team := (s.teams ++ s.past).find? fun x => x.id == t
/-- A team changed. -/
def modTeam (s : State) (t : Nat) (g : Team → Team) : State :=
  { s with teams := s.teams.map fun x => if x.id == t then g x else x }
/-- A grid: live, or of a team that copy requests still name. -/
def gridAt (s : State) (g : Nat) : Option Grid := (s.grids ++ s.pastGrids).find? fun x => x.id == g
/-- A grid changed. -/
def modGrid (s : State) (i : Nat) (g : Grid → Grid) : State :=
  { s with grids := s.grids.map fun x => if x.id == i then g x else x }
/-- A live join, by the cell of its object. -/
def joinAt (s : State) (j : Nat) : Option Join := s.joins.find? fun x => x.cell == j
/-- A join changed. -/
def modJoin (s : State) (j : Nat) (g : Join → Join) : State :=
  { s with joins := s.joins.map fun x => if x.cell == j then g x else x }
/-- A request. -/
def reqAt (s : State) (r : Nat) : Option Req := s.reqs.find? fun x => x.id == r
/-- A request changed. -/
def modReq (s : State) (r : Nat) (g : Req → Req) : State :=
  { s with reqs := s.reqs.map fun x => if x.id == r then g x else x }
/-- A request ended. -/
def dropReq (s : State) (r : Nat) : State := { s with reqs := s.reqs.filter fun x => x.id != r }

/-- A team's seat on a core, or what its copy requests still have of one. -/
def seatAt (c : Core) (t : Nat) : Option Seat := (c.seats ++ c.ended).find? fun x => x.team == t
/-- A seat changed. -/
def modSeat (c : Core) (t : Nat) (g : Seat → Seat) : Core :=
  let one := fun (x : Seat) => if x.team == t then g x else x
  { c with seats := c.seats.map one, ended := c.ended.map one }

/-- A fragment of a core. -/
def fragAt (c : Core) (f : FragId) : Option Frag := c.frags[f]
/-- A fragment entry replaced. -/
def setFrag (c : Core) (f : FragId) (x : Option Frag) : Core := { c with frags := c.frags.set f x }
/-- A live fragment changed. -/
def modFrag (c : Core) (f : FragId) (g : Frag → Frag) : Core :=
  match fragAt c f with
  | some x => setFrag c f (some (g x))
  | none => c
/-- A warp of a core. -/
def warpAt (c : Core) (w : WarpIx) : Option Warp := c.warps[w]
/-- A warp place replaced. -/
def setWarp (c : Core) (w : WarpIx) (x : Option Warp) : Core := { c with warps := c.warps.set w x }
/-- A warp changed. -/
def modWarp (c : Core) (w : WarpIx) (g : Warp → Warp) : Core :=
  match warpAt c w with
  | some x => setWarp c w (some (g x))
  | none => c
/-- A bound strand. -/
def strandAt (c : Core) (n : StrandId) : Option Strand := c.strands[n]
/-- A strand place replaced. -/
def setStrand (c : Core) (n : StrandId) (x : Option Strand) : Core := { c with strands := c.strands.set n x }
/-- A strand changed. -/
def modStrand (c : Core) (n : StrandId) (g : Strand → Strand) : Core :=
  match strandAt c n with
  | some x => setStrand c n (some (g x))
  | none => c

/-- A fragment changed in the package. -/
def onFrag (s : State) (k : CoreId) (f : FragId) (g : Frag → Frag) : State := modCore s k fun c => modFrag c f g
/-- A strand changed in the package. -/
def onStrand (s : State) (k : CoreId) (n : StrandId) (g : Strand → Strand) : State :=
  modCore s k fun c => modStrand c n g
/-- A warp changed in the package. -/
def onWarp (s : State) (k : CoreId) (w : WarpIx) (g : Warp → Warp) : State := modCore s k fun c => modWarp c w g

/-- All fragment identities, ascending. -/
def allFrags : List FragId := List.finRange 192
/-- All warp places, ascending. -/
def allWarps : List WarpIx := List.finRange 68
/-- All strands, ascending. -/
def allStrands : List StrandId := List.finRange 8
/-- All cores, ascending. -/
def allCores : List CoreId := List.finRange 256
/-- All lanes, ascending. -/
def allLanes : List Lane := List.finRange 32

/-! ## Leases and completion ticks (R195, R196) -/

/-- What the home slice knows of a line, if it holds it. -/
def homeLine (s : State) (line : Nat) : Option HomeLine := s.lines.find? fun x => x.line == line

/-- The latest expiry the home slice holds for a line: its own, or the slice's floor (R195). -/
def lineExpiry (s : State) (line : Nat) : Nat :=
  match homeLine s line with
  | some x => x.e
  | none => s.floors[sliceOf (128 * line)]

/-- A line leaves its slice: its expiry is folded into the slice's floor (R195). -/
def leaveSlice (s : State) (x : HomeLine) : State :=
  let sl := sliceOf (128 * x.line)
  { s with floors := s.floors.set sl (max s.floors[sl] x.e), lines := s.lines.filter fun y => y.line != x.line }

/-- A slice that would hold more lines than its 4 MiB loses one (R5, R190). Which one is not specified; the model takes the
one that it has held longest among those that carry no mark (DESIGN CHOICE, log entry 29). -/
def sliceFit (s : State) (line : Nat) : State :=
  if s.lines.length ≤ Config.sliceLines then s
  else
    let mine := s.lines.filter fun x => sliceOf (128 * x.line) == sliceOf (128 * line)
    if mine.length ≤ Config.sliceLines then s
    else match (mine.filter fun x => x.pend.isEmpty && !x.poison && x.line != line).getLast? with
      | some x => leaveSlice s x
      | none => s

/-- The home's record of a line, made when the slice does not hold it. -/
def modLine (s : State) (line : Nat) (g : HomeLine → HomeLine) : State :=
  match homeLine s line with
  | some _ => { s with lines := s.lines.map fun x => if x.line == line then g x else x }
  | none => sliceFit { s with lines := g { line := line, e := lineExpiry s line } :: s.lines } line

/-- The completion tick of a write performed now (R196). -/
def completion (s : State) (line : Nat) : Nat := max (lineExpiry s line) s.tick + 1

/-- A fill performed now with lease `lease`: the slice records its expiry (R195). -/
def grantLease (s : State) (line lease : Nat) : State × Nat :=
  let e := s.tick + lease
  (modLine s line fun x => { x with e := max x.e e }, e)

/-- Bytes of device memory. -/
def devBytes (s : State) (cell n : Nat) : List Byte := memBytes s.dev cell n
/-- A little-endian number in device memory. -/
def devNat (s : State) (cell n : Nat) : Nat := memNat s.dev cell n

/-- A write performed at home, with its completion tick (R196). Writing the whole line with good bytes clears its
poison (R304). -/
def homeStore (s : State) (cell : Nat) (bs : List Byte) : State × Nat :=
  let line := lineOf cell
  let w := completion s line
  let s := { s with dev := memPut s.dev cell bs }
  let s := if bs.length == 128 then modLine s line fun x => { x with poison := false } else s
  (s, w)

/-- A run of device bytes written at home line by line; the largest completion tick. -/
def homeStores (s : State) (cells : List (Nat × List Byte)) : State × Nat :=
  cells.foldl (fun (p : State × Nat) c => let (s', w) := homeStore p.1 c.1 c.2; (s', max p.2 w)) (s, 0)

/-- A line is engine-pending at its home (R202). -/
def linePending (s : State) (line : Nat) : Bool :=
  match homeLine s line with
  | some x => !x.pend.isEmpty
  | none => false

/-- A mark placed on a line, performed like a write (R243). -/
def markLine (s : State) (line owner : Nat) : State × Nat :=
  let w := completion s line
  (modLine s line fun x => { x with pend := x.pend ++ [owner] }, w)

/-- A mark taken off a line. -/
def unmarkLine (s : State) (line owner : Nat) : State :=
  { s with lines := s.lines.map fun x => if x.line == line then { x with pend := x.pend.erase owner } else x }

/-! ## Shared memory (R191) -/

/-- A team's shared memory on a core. -/
def sharedMem (s : State) (k : CoreId) (t : Nat) : Memory :=
  match seatAt (coreAt s k) t with
  | some x => x.shared
  | none => []

/-- Shared bytes. -/
def sharedBytes (s : State) (k : CoreId) (t off n : Nat) : List Byte := memBytes (sharedMem s k t) off n

/-- Shared bytes written; the poison of a wholly written line goes (R304). -/
def sharedPut (s : State) (k : CoreId) (t off : Nat) (bs : List Byte) : State :=
  modCore s k fun c => modSeat c t fun x =>
    { x with shared := memPut x.shared off bs,
             poisoned := if bs.length == 128 then x.poisoned.erase (off / 128) else x.poisoned }

/-- The lines that `n` bytes at an offset touch. -/
def linesOf (off n : Nat) : List Nat :=
  if n = 0 then [] else (List.range ((off + n - 1) / 128 - off / 128 + 1)).map (off / 128 + ·)

/-- Every line of a shared range is present (R246). -/
def present (s : State) (k : CoreId) (t off n : Nat) : Bool :=
  match seatAt (coreAt s k) t with
  | some x => (linesOf off n).all fun l => !x.absent.contains l
  | none => true

/-- Presence bits set or cleared (R243, R244, R247). -/
def setPresence (s : State) (k : CoreId) (t : Nat) (ls : List Nat) (on : Bool) : State :=
  modCore s k fun c => modSeat c t fun x =>
    { x with absent := if on then x.absent.filter fun l => !ls.contains l
                       else x.absent ++ ls.filter fun l => !x.absent.contains l }

end Sys2Proof.Machine
end

