-- ==== Sys2Proof/Machine/Flags.lean ====
section
/-! DEFINITION. Floating-point formats, exact values, rounding and the flags of FPSTAT (R34 to R37, R49 to R53).

A value is exact, (-1)^s x m x 2^e, until it is rounded once to a format. -/

namespace Sys2Proof.Machine

/-- A sign, exponent and mantissa format (R35). -/
structure Fmt where
  /-- Exponent and mantissa bits, and the bias. -/
  eb : Nat
  mb : Nat
  bias : Nat
  /-- The format has infinities. -/
  inf : Bool
  /-- The bits of the largest finite magnitude. -/
  top : Nat
  /-- The canonical NaN (R36); 0 for a format without one. -/
  nan : Nat
  deriving DecidableEq, Repr, Inhabited

/-- FP32 (R35). -/
def fp32 : Fmt := { eb := 8, mb := 23, bias := 127, inf := true, top := 0x7F7FFFFF, nan := 0x7FC00000 }
/-- BF16 (R35). -/
def bf16 : Fmt := { eb := 8, mb := 7, bias := 127, inf := true, top := 0x7F7F, nan := 0x7FC0 }
/-- FP16 (R35). -/
def fp16 : Fmt := { eb := 5, mb := 10, bias := 15, inf := true, top := 0x7BFF, nan := 0x7E00 }
/-- E4M3 (R35). -/
def e4m3 : Fmt := { eb := 4, mb := 3, bias := 7, inf := false, top := 0x7E, nan := 0x7F }
/-- E5M2 (R35). -/
def e5m2 : Fmt := { eb := 5, mb := 2, bias := 15, inf := true, top := 0x7B, nan := 0x7E }
/-- E2M1, the MXFP4 element (R35). -/
def e2m1 : Fmt := { eb := 2, mb := 1, bias := 1, inf := false, top := 0x7, nan := 0 }

/-- The sign bit of a format. -/
def Fmt.sign (f : Fmt) : Nat := 2 ^ (f.eb + f.mb)

/-- An exact value. -/
inductive Val where
  | nan (signalling : Bool)
  | inf (neg : Bool)
  | fin (neg : Bool) (m : Nat) (e : Int)
  deriving DecidableEq, Repr, Inhabited

/-- The exact value of a pattern (R35, R36). -/
def unpack (f : Fmt) (x : Nat) : Val :=
  let neg := x / f.sign % 2 == 1
  let ex := x / 2 ^ f.mb % 2 ^ f.eb
  let m := x % 2 ^ f.mb
  let mag := x % f.sign
  if mag > f.top then
    if f.inf && m == 0 then .inf neg
    else .nan (f.inf && f.mb > 2 && m < 2 ^ (f.mb - 1))
  else if ex = 0 then .fin neg m (1 - f.bias - f.mb)
  else .fin neg (2 ^ f.mb + m) ((ex : Int) - f.bias - f.mb)

/-- The value is a NaN. -/
def Val.isNan : Val → Bool
  | .nan _ => true
  | _ => false
/-- The value is a signalling NaN. -/
def Val.isSig : Val → Bool
  | .nan q => q
  | _ => false
/-- The value is a zero. -/
def Val.isZero : Val → Bool
  | .fin _ 0 _ => true
  | _ => false
/-- The sign. -/
def Val.neg : Val → Bool
  | .nan _ => false
  | .inf n => n
  | .fin n _ _ => n

/-- The value with its sign inverted. -/
def valNeg : Val → Val
  | .nan q => .nan q
  | .inf n => .inf !n
  | .fin n m e => .fin (!n) m e

/-! ## Flags (R52) -/

/-- NX. -/
def fNX : BitVec 5 := 1
/-- UF. -/
def fUF : BitVec 5 := 2
/-- OF. -/
def fOF : BitVec 5 := 4
/-- DZ. -/
def fDZ : BitVec 5 := 8
/-- NV. -/
def fNV : BitVec 5 := 16

/-- A flag when a condition holds. -/
def flagIf (b : Bool) (f : BitVec 5) : BitVec 5 := if b then f else 0

/-! ## Rounding (R49, R50) -/

/-- Rounding modes; `sr r` carries the 32 stochastic bits. -/
inductive Rnd where
  | rne | rz | ru | rd
  | sr (r : Nat)
  deriving DecidableEq, Repr, Inhabited

/-- The mode of FPCTL (R51). -/
def rndOf (fpctl : W32) : Rnd :=
  match (fpctl.extractLsb' 0 2).toNat with
  | 0 => .rne | 1 => .rz | 2 => .ru | _ => .rd

/-- The magnitude k + rem / 2^sh is rounded up (R49). -/
def roundsUp (r : Rnd) (neg : Bool) (k rem sh : Nat) : Bool :=
  if rem = 0 then false
  else
    match r with
    | .rne => 2 * rem > 2 ^ sh || (2 * rem == 2 ^ sh && k % 2 == 1)
    | .rz => false
    | .ru => !neg
    | .rd => neg
    | .sr b => rem * 2 ^ 32 / 2 ^ sh + b ≥ 2 ^ 32

/-- m x 2^e rounded to an integer number of 2^q: the integer, and whether it is inexact. -/
def roundAt (r : Rnd) (neg : Bool) (m : Nat) (e q : Int) : Nat × Bool :=
  if e ≥ q then (m * 2 ^ (e - q).toNat, false)
  else
    let sh := (q - e).toNat
    let k := m / 2 ^ sh
    let rem := m % 2 ^ sh
    (if roundsUp r neg k rem sh then k + 1 else k, rem != 0)

/-- The floor of log2 of a non-zero magnitude m x 2^e. -/
def magLog (m : Nat) (e : Int) : Int := (Nat.log2 m : Int) + e

/-- The magnitude pattern of m x 2^e rounded with unbounded exponent, and whether it is inexact. -/
def roundMag (f : Fmt) (r : Rnd) (neg : Bool) (m : Nat) (e : Int) : Nat × Bool :=
  let qmin : Int := 1 - f.bias - f.mb
  let q := max (magLog m e - f.mb) qmin
  let (k, nx) := roundAt r neg m e q
  if k < 2 ^ f.mb then (k, nx)
  else
    let (k, q) := if k ≥ 2 ^ (f.mb + 1) then (k / 2, q + 1) else (k, q)
    (((q + f.mb + f.bias).toNat) * 2 ^ f.mb + (k - 2 ^ f.mb), nx)

/-- A finite overflow goes to the infinity entry of R50, not to the largest finite value. -/
def overflowsUp (r : Rnd) (neg : Bool) : Bool :=
  match r with
  | .rne | .sr _ => true
  | .rz => false
  | .ru => !neg
  | .rd => neg

/-- The sign bit of a value in a format. -/
def signBits (f : Fmt) (neg : Bool) : Nat := if neg then f.sign else 0

/-- The pattern of an infinite result (R50). -/
def infBits (f : Fmt) (neg : Bool) : Nat := if f.inf then signBits f neg + f.top + 1 else f.nan

/-- An exact value rounded once to a format, with the flags of R50 and R52. NV of a signalling NaN is the op's own. -/
def roundTo (f : Fmt) (r : Rnd) (v : Val) : Nat × BitVec 5 :=
  match v with
  | .nan _ => (f.nan, 0)
  | .inf n => (infBits f n, flagIf (!f.inf) fNV)
  | .fin n m e =>
    if m = 0 then (signBits f n, 0)
    else
      let (mag, nx) := roundMag f r n m e
      if mag > f.top then
        if overflowsUp r n then (infBits f n, fOF ||| fNX ||| flagIf (!f.inf) fNV)
        else (signBits f n + f.top, fOF ||| fNX)
      else (signBits f n + mag, if nx then fNX ||| flagIf (magLog m e < 1 - (f.bias : Int)) fUF else 0)

/-! ## Exact arithmetic -/

/-- The exact product; 0 x infinity is NaN. -/
def valMul (a b : Val) : Val :=
  match a, b with
  | .nan _, _ | _, .nan _ => .nan false
  | .inf n, .inf m => .inf (n != m)
  | .inf n, .fin m k _ => if k = 0 then .nan false else .inf (n != m)
  | .fin m k _, .inf n => if k = 0 then .nan false else .inf (n != m)
  | .fin n a x, .fin m b y => .fin (n != m) (a * b) (x + y)

/-- The signed integer of a finite value in units of 2^q, for q no greater than its exponent. -/
def scaled (q : Int) (n : Bool) (m : Nat) (e : Int) : Int :=
  let k := m * 2 ^ (e - q).toNat
  if n then -(k : Int) else (k : Int)

/-- The exact sum. A zero sum is +0, or -0 under RD (whatever the signs of the addends) or when both addends are -0;
infinities of both signs give NaN (R167; log entry 26). -/
def valAdd (r : Rnd) (a b : Val) : Val :=
  match a, b with
  | .nan _, _ | _, .nan _ => .nan false
  | .inf n, .inf m => if n = m then .inf n else .nan false
  | .inf n, .fin .. => .inf n
  | .fin .., .inf n => .inf n
  | .fin n x e, .fin m y g =>
    let q := min e g
    let t := scaled q n x e + scaled q m y g
    if t = 0 then .fin (r == .rd || (n && m)) 0 q else .fin (t < 0) t.natAbs q

/-- The exact sum of many values with one rounding to follow: infinities of both signs or a NaN give NaN, and a zero
sum is +0 unless every term is -0 (R56, R123). -/
def valSum (vs : List Val) : Val :=
  if vs.any Val.isNan then .nan false
  else
    let pos := vs.any fun v => match v with | .inf n => !n | _ => false
    let neg := vs.any fun v => match v with | .inf n => n | _ => false
    if pos && neg then .nan false
    else if pos then .inf false
    else if neg then .inf true
    else
      let q := vs.foldl (fun (q : Int) v => match v with | .fin _ m e => if m = 0 then q else min q e | _ => q) 0
      let t := vs.foldl (fun (t : Int) v => match v with | .fin n m e => if m = 0 then t else t + scaled q n m e | _ => t) 0
      if t = 0 then .fin (!vs.isEmpty && vs.all fun v => v.isZero && v.neg) 0 q else .fin (t < 0) t.natAbs q

/-- a < b for values that are not NaN; zeros are equal. -/
def valLt (a b : Val) : Bool :=
  match a, b with
  | .nan _, _ | _, .nan _ => false
  | .inf n, .inf m => n && !m
  | .inf n, .fin .. => n
  | .fin .., .inf n => !n
  | .fin n x e, .fin m y g => let q := min e g; decide (scaled q n x e < scaled q m y g)

/-- a = b for values that are not NaN; zeros are equal. -/
def valEq (a b : Val) : Bool :=
  match a, b with
  | .nan _, _ | _, .nan _ => false
  | .inf n, .inf m => n == m
  | .inf _, .fin .. | .fin .., .inf _ => false
  | .fin n x e, .fin m y g => let q := min e g; decide (scaled q n x e = scaled q m y g)

/-- The smaller value of a MIN-type op: NaN when either is, and -0 below +0 (R117, R167). -/
def valMin (a b : Val) : Val :=
  if a.isNan || b.isNan then .nan false
  else if valLt a b then a else if valLt b a then b else if a.neg then a else b

/-- The larger value of a MAX-type op. -/
def valMax (a b : Val) : Val :=
  if a.isNan || b.isNan then .nan false
  else if valLt a b then b else if valLt b a then a else if a.neg then b else a

/-! ## Ops on patterns with their flags (R167, R168) -/

/-- NV of a signalling NaN among the inputs. -/
def sigFlag (vs : List Val) : BitVec 5 := flagIf (vs.any Val.isSig) fNV

/-- NV of an invalid operation: a NaN made of inputs that are not NaN. -/
def madeNan (vs : List Val) (v : Val) : BitVec 5 := flagIf (v.isNan && !vs.any Val.isNan) fNV

/-- A result rounded, with its own flags and those of its inputs. -/
def finish (f : Fmt) (r : Rnd) (ins : List Val) (v : Val) : Nat × BitVec 5 :=
  let (x, fl) := roundTo f r v
  (x, fl ||| sigFlag ins ||| madeNan ins v)

/-- A + B (R167). -/
def fAdd (f : Fmt) (r : Rnd) (a b : Nat) : Nat × BitVec 5 :=
  let x := unpack f a; let y := unpack f b
  finish f r [x, y] (valAdd r x y)
/-- A - B. -/
def fSub (f : Fmt) (r : Rnd) (a b : Nat) : Nat × BitVec 5 :=
  let x := unpack f a; let y := unpack f b
  finish f r [x, y] (valAdd r x (valNeg y))
/-- A x B. -/
def fMul (f : Fmt) (r : Rnd) (a b : Nat) : Nat × BitVec 5 :=
  let x := unpack f a; let y := unpack f b
  finish f r [x, y] (valMul x y)
/-- A x B + C with one rounding; 0 x infinity sets NV whatever C holds (R168). -/
def fFma (f : Fmt) (r : Rnd) (a b c : Nat) : Nat × BitVec 5 :=
  let x := unpack f a; let y := unpack f b; let z := unpack f c
  let p := valMul x y
  let (v, fl) := finish f r [x, y, z] (valAdd r p z)
  (v, fl ||| madeNan [x, y] p)
/-- The smaller; the pattern of the chosen operand, NaN canonical. -/
def fMin (f : Fmt) (a b : Nat) : Nat × BitVec 5 :=
  let x := unpack f a; let y := unpack f b
  ((roundTo f .rne (valMin x y)).1, sigFlag [x, y])
/-- The larger. -/
def fMax (f : Fmt) (a b : Nat) : Nat × BitVec 5 :=
  let x := unpack f a; let y := unpack f b
  ((roundTo f .rne (valMax x y)).1, sigFlag [x, y])

/-- A comparison under a condition code, with NV of the quiet or the signalling form (R169). -/
def fCmp (cc : Cond) (sig : Bool) (a b : Nat) : Bool × BitVec 5 :=
  let x := unpack fp32 a; let y := unpack fp32 b
  let un := x.isNan || y.isNan
  let res := match cc with
    | .eq => valEq x y
    | .ne => un || !valEq x y
    | .lt => valLt x y
    | .le => !un && !valLt y x
    | .gt => valLt y x
    | .ge => !un && !valLt x y
    | .ltn => un || valLt x y
    | .gen => un || !valLt x y
  let hi := match cc with | .eq | .ne => false | _ => true
  (res, sigFlag [x, y] ||| flagIf (sig && hi && un) fNV)

/-- FP32 to an integer of 32 bits, with saturation (R174). -/
def toInt (r : Rnd) (signed : Bool) (a : Nat) : Nat × BitVec 5 :=
  let lo : Int := if signed then -2147483648 else 0
  let hi : Int := if signed then 2147483647 else 4294967295
  match unpack fp32 a with
  | .nan _ => (0, fNV)
  | .inf n => (((if n then lo else hi) % 4294967296).toNat, fNV)
  | .fin n m e =>
    let (k, nx) := roundAt r n m e 0
    let v : Int := if n then -(k : Int) else k
    if v < lo then ((lo % 4294967296).toNat, fNV)
    else if v > hi then ((hi % 4294967296).toNat, fNV)
    else ((v % 4294967296).toNat, flagIf nx fNX)

/-- A 32-bit integer to FP32 (R174). -/
def ofInt (r : Rnd) (signed : Bool) (a : W32) : Nat × BitVec 5 :=
  let v : Int := if signed then a.toInt else a.toNat
  roundTo fp32 r (.fin (v < 0) v.natAbs 0)

/-- An FP32 pattern as a result of FP32 RNE addition, without flags (R206, R271). -/
def addRne (a b : W32) : W32 := BitVec.ofNat 32 (fAdd fp32 .rne a.toNat b.toNat).1

end Sys2Proof.Machine
end

