-- ==== Sys2Proof/Machine/Approx.lean ====
section
/-! DEFINITION. The function approximations of XFN and SF (R124, R171).

The manual fixes special and exact results and a bound on the others; within the bound the result is a fixed function
of the input that the manual does not give. Here the function is evaluated in fixed point to far more bits than the
bound needs, and `Config.approxPick` chooses among the patterns that the bound admits (log entry 6). -/

namespace Sys2Proof.Machine

/-- Fraction bits of the fixed-point evaluation. -/
def fixBits : Nat := 128
/-- 1 in fixed point. -/
def fixOne : Nat := 2 ^ fixBits
/-- ln 2 in fixed point. -/
def fixLn2 : Nat := 235865763225513294137944142764154484399
/-- log2 e in fixed point. -/
def fixLog2e : Nat := 490923683258796565746369346286093237521
/-- 2 pi in fixed point. -/
def fixTwoPi : Nat := 2138057168129933495719360746323741566601

/-- sum of (sign)^k t^k / k! for the terms k of a stride, in fixed point. -/
def taylor (t : Int) (step : Nat) (sgn : Int) : Nat → Nat → Int → Int → Int
  | 0, _, _, acc => acc
  | n + 1, k, term, acc =>
    let next := if step = 1 then term * t / fixOne / ((k + 1 : Nat) : Int)
      else sgn * (term * t / fixOne) * t / fixOne / (((k + 1) * (k + 2) : Nat) : Int)
    taylor t step sgn n (k + step) next (acc + term)

/-- m x 2^e in fixed point, rounded down. -/
def toFix (m : Nat) (e : Int) : Nat :=
  let sh := e + fixBits
  if sh ≥ 0 then m * 2 ^ sh.toNat else m / 2 ^ (-sh).toNat

/-- 2^t for a fixed-point t of any sign, as a magnitude (m, e). -/
def fixExp2 (t : Int) : Nat × Int :=
  let n := t / (fixOne : Int)
  let f := t % (fixOne : Int)
  ((taylor (f * (fixLn2 : Int) / fixOne) 1 1 48 0 fixOne 0).toNat, n - fixBits)

/-- The fraction bits of log2 of a fixed-point value in [1, 2), by repeated squaring. -/
def log2Bits : Nat → Nat → Nat → Nat
  | 0, _, acc => acc
  | n + 1, y, acc =>
    let y := y * y / fixOne
    if y ≥ 2 * fixOne then log2Bits n (y / 2) (2 * acc + 1) else log2Bits n y (2 * acc)

/-- log2 of m x 2^e in units of 2^-64. -/
def fixLog2 (m : Nat) (e : Int) : Int :=
  let l := Nat.log2 m
  let y := if l ≤ fixBits then m * 2 ^ (fixBits - l) else m / 2 ^ (l - fixBits)
  ((l : Int) + e) * 2 ^ 64 + log2Bits 64 y 0

/-- The integer square root, by bits. -/
def isqrtFrom (n : Nat) : Nat → Nat → Nat
  | 0, r => r
  | k + 1, r => if (r + 2 ^ k) * (r + 2 ^ k) ≤ n then isqrtFrom n k (r + 2 ^ k) else isqrtFrom n k r
/-- The integer square root. -/
def isqrt (n : Nat) : Nat := isqrtFrom n (Nat.log2 n / 2 + 1) 0

/-- tanh of a positive m x 2^e, as a magnitude: a series below 2^-12, otherwise 1 - 2 / (e^2x + 1), which stays below 1. -/
def fixTanh (m : Nat) (e : Int) : Nat × Int :=
  if magLog m e < -12 then
    -- x - x^3/3 + 2x^5/15, over 15 and in units of 2^(5e)
    if e < -160 then (m * 2 ^ 64 - 1, e - 64)
    else
      let u : Int := 5 * e
      let x := scaled u false m e
      let x3 := scaled u false (m * m * m) (3 * e)
      let x5 := scaled u false (m * m * m * m * m) u
      (((15 * x - 5 * x3 + 2 * x5) * 2 ^ 64 / 15).toNat, u - 64)
  else
    let x := toFix m (min e 8)
    let (p, q) := fixExp2 ((2 * min x (64 * fixOne) * fixLog2e / fixOne : Nat) : Int)
    let ex := toFix p q
    (min (fixOne - 2 * fixOne * fixOne / (ex + fixOne)) (fixOne - 1), -(fixBits : Int))

/-- sin or cos of a fixed-point angle below 2 pi, in fixed point. -/
def fixTrig (cosine : Bool) (r : Int) : Int :=
  if cosine then taylor r 2 (-1) 40 0 fixOne 0 else taylor r 2 (-1) 40 1 r 0

/-! ## Choosing an admitted pattern -/

/-- The exponent of the ulp of a magnitude: the step of FP32 numbers in its own binade, 2^-149 below 2^-126. The manual
does not define an ulp (log entry 6: DESIGN CHOICE). -/
def ulpExp (m : Nat) (e : Int) : Int := max (magLog m e - 23) (-149)

/-- m x 2^e in units of 2^q, rounded down. -/
def inUnits (q : Int) (m : Nat) (e : Int) : Nat :=
  if e ≥ q then m * 2 ^ (e - q).toNat else m / 2 ^ (q - e).toNat

/-- The magnitude pattern r, infinity taken as 2^128, lies within `ulps` of m x 2^e. An evaluation that is not exact is
held 2^-38 ulp inside the bound, which is more than its error (log entry 6). -/
def admits (ulps m : Nat) (e : Int) (exact : Bool) (r : Nat) : Bool :=
  let q := ulpExp m e - 64
  let ex := r / 2 ^ 23
  let v := inUnits q (if ex = 0 then r % 2 ^ 23 else 2 ^ 23 + r % 2 ^ 23) ((max ex 1 : Nat) - 150)
  ((v : Int) - inUnits q m e).natAbs + (if exact then 0 else 2 ^ 26) ≤ ulps * 2 ^ 64

/-- The patterns within `ulps` of a magnitude m x 2^e, the truncated one first. -/
def admitted (ulps m : Nat) (e : Int) (exact : Bool) : List Nat :=
  let lo := (roundMag fp32 .rz false m e).1
  ((lo :: (List.range (3 * ulps + 2)).map fun i => lo + ulps + 1 - i).eraseDups).filter (admits ulps m e exact)

/-- One of the FP32 patterns that a bound of `ulps` admits for the magnitude m x 2^e (R124, R171). -/
def pickUlp (op : Nat) (x : W32) (ulps : Nat) (m : Nat) (e : Int) (exact : Bool) : Nat :=
  let ps := admitted ulps m e exact
  min (ps.getD (Config.approxPick op x % ps.length) 0) (fp32.top + 1)

/-- A value in units of 2^-64 moved by less than 2^-bits, chosen by `Config.approxPick` (R124, R171). -/
def pickAbs (op : Nat) (x : W32) (bits : Nat) (v : Int) : Int :=
  let span : Nat := 2 ^ (64 - bits) - 2 ^ 40
  v + ((Config.approxPick op x % (2 * span + 1) : Nat) : Int) - (span : Int)

/-- The numbers of the functions. -/
inductive Fun where
  | exp2 | log2 | rcp | rsq | tanh | sin | cos
  deriving DecidableEq, Repr, Inhabited

/-- Number of a function, for `Config.approxPick`; the SF unit's own results are numbered apart (R171). -/
def funNum (f : Fun) (sf : Bool) : Nat :=
  (match f with | .exp2 => 0 | .log2 => 1 | .rcp => 2 | .rsq => 3 | .tanh => 4 | .sin => 5 | .cos => 6) +
    if sf then 8 else 0

/-- A power of two: its exponent. -/
def powerOfTwo (m : Nat) (e : Int) : Option Int := if m = 2 ^ Nat.log2 m then some (magLog m e) else none

/-- A result of 2^64 fractions as an FP32 pattern. -/
def ofFix64 (v : Int) : Nat := (roundTo fp32 .rne (.fin (v < 0) v.natAbs (-64))).1

/-- The FP32 result of a function for a finite non-zero argument, before its flags: a signed pattern, and whether it is
one of the exact results of R171. -/
def funFinite (f : Fun) (sf : Bool) (x : W32) (n : Bool) (m : Nat) (e : Int) : Nat × Bool :=
  let op := funNum f sf
  match f with
  | .exp2 =>
    let (k, frac) := roundAt .rz n m e 0
    let k' : Int := if n then -k else k
    if !frac && !sf && (-126 : Int) ≤ k' && k' ≤ 127 then ((roundTo fp32 .rne (.fin false 1 k')).1, true)
    else if !frac && k < 150 then (pickUlp op x 2 1 k' true, false)
    else
      let t : Int := if e ≥ 8 || magLog m e ≥ 8 then 256 * fixOne else toFix m e
      -- a negative argument is rounded down too, so 2^x of a tiny one stays below 1
      let (p, q) := fixExp2 (if n then -(t + 1) else t)
      (pickUlp op x 2 p q false, false)
  | .log2 =>
    match powerOfTwo m e with
    | some k =>
      if sf && k.natAbs = 1 then (ofFix64 (pickAbs op x 22 (k * 2 ^ 64)), false)
      else if sf && k ≠ 0 then (signBits fp32 (k < 0) + pickUlp op x 2 k.natAbs 0 true, false)
      else ((roundTo fp32 .rne (.fin (k < 0) k.natAbs 0)).1, true)
    | none =>
      let v := fixLog2 m e
      if magLog m e = -1 || magLog m e = 0 then (ofFix64 (pickAbs op x 22 v), false)
      else (signBits fp32 (v < 0) + pickUlp op x 2 v.natAbs (-64) false, false)
  | .rcp =>
    match powerOfTwo m e with
    | some k => if !sf && -k ≥ -126 && -k ≤ 127 then (signBits fp32 n + (roundTo fp32 .rne (.fin false 1 (-k))).1, true)
        else if !sf && -k ≥ 128 then (signBits fp32 n + 0x7F800000, false)
        else (signBits fp32 n + pickUlp op x 1 1 (-k) true, false)
    | none =>
      let l := Nat.log2 m
      (signBits fp32 n + pickUlp op x 1 (2 ^ (l + 64) / m) (-(l : Int) - 64 - e) false, false)
  | .rsq =>
    match powerOfTwo m e with
    | some k => if k % 2 = 0 then (if sf then pickUlp op x 1 1 (-k / 2) true else (roundTo fp32 .rne (.fin false 1 (-k / 2))).1, !sf)
        else (pickUlp op x 1 (isqrt (2 ^ 129)) (-64 + (-k - 1) / 2) false, false)
    | none =>
      let e' := if e % 2 = 0 then e else e - 1
      let m' := if e % 2 = 0 then m else 2 * m
      (pickUlp op x 1 (isqrt (2 ^ 200 / m')) (-100 - e' / 2) false, false)
  | .tanh =>
    let (p, q) := fixTanh m e
    (signBits fp32 n + pickUlp op x 2 p q false, false)
  | .sin | .cos =>
    let cosine := f == .cos
    if decide (scaled (min e 0) false m e > scaled (min e 0) false 65536 0) then
      -- some value in [-1, 1]
      let q := (Config.trigBeyond cosine x).toNat
      (q / fp32.sign * fp32.sign + min (q % fp32.sign) 0x3F800000, false)
    else
      let r := ((toFix m e % fixTwoPi : Nat) : Int)
      let v := fixTrig cosine (if n then (fixTwoPi : Int) - r else r) / 2 ^ 64
      let v := pickAbs op x 21 v
      (ofFix64 (max (-(2 ^ 64)) (min (2 ^ 64) v)), false)

/-- A function's FP32 result and flags (R171): NaN, special and exact results, and the admitted others. -/
def funResult (f : Fun) (sf : Bool) (x : W32) : Nat × BitVec 5 :=
  let inexact := fun (q : Nat × Bool) =>
    if q.2 then (q.1, 0)
    else
      let mag := q.1 % fp32.sign
      (q.1, fNX ||| flagIf (mag < 0x00800000) fUF ||| flagIf (mag > fp32.top) fOF)
  match unpack fp32 x.toNat with
  | .nan sg => (fp32.nan, flagIf sg fNV)
  | .inf n =>
    match f with
    | .exp2 => (if n then 0 else 0x7F800000, 0)
    | .log2 => if n then (fp32.nan, fNV) else (0x7F800000, 0)
    | .rcp => (signBits fp32 n, 0)
    | .rsq => if n then (fp32.nan, fNV) else (0, 0)
    | .tanh => (signBits fp32 n + 0x3F800000, 0)
    | .sin | .cos => (fp32.nan, fNV)
  | .fin n m e =>
    if m = 0 then
      match f with
      | .exp2 => (if sf then pickUlp (funNum f sf) x 2 1 0 true else 0x3F800000, 0)
      | .cos => (0x3F800000, 0)
      | .log2 => (0xFF800000, fDZ)
      | .rcp | .rsq => (signBits fp32 n + 0x7F800000, fDZ)
      | .tanh | .sin => (signBits fp32 n, 0)
    else
      match f with
      | .exp2 => if !n && magLog m e ≥ 7 then (0x7F800000, fOF ||| fNX) else inexact (funFinite f sf x n m e)
      | .log2 | .rsq => if n then (fp32.nan, fNV) else inexact (funFinite f sf x n m e)
      | _ => inexact (funFinite f sf x n m e)

/-- The square root, correctly rounded (R171). -/
def sqrtResult (r : Rnd) (x : Nat) : Nat × BitVec 5 :=
  match unpack fp32 x with
  | .nan sg => (fp32.nan, flagIf sg fNV)
  | .inf n => if n then (fp32.nan, fNV) else (0x7F800000, 0)
  | .fin n m e =>
    if m = 0 then (signBits fp32 n, 0)
    else if n then (fp32.nan, fNV)
    else
      let e' := if e % 2 = 0 then e else e - 1
      let k := (if e % 2 = 0 then m else 2 * m) * 2 ^ 120
      let q := isqrt k
      -- a sticky bit below the kept places stands for the inexact rest
      roundTo fp32 r (.fin false (2 * q + (if q * q = k then 0 else 1)) (e' / 2 - 61))

end Sys2Proof.Machine
end

