-- ==== Sys2Proof/WellFormed.lean ====
section
/-! DEFINITION. Which instructions are legal where: the acceptance column of the opcode map (R62) and the field
rules that depend on the stream (R59, R60, R64, R88 and the op's own descriptions). -/

namespace Sys2Proof

/-- Where an op word stands: in a warp's op stream, or in a slot of a strand's bundle (R12, R62). -/
inductive Stream where
  | warp
  | slot (n : Slot)
  deriving DecidableEq, Repr, Inhabited

/-- The place is a warp. -/
def Stream.isWarp : Stream → Bool
  | .warp => true
  | .slot _ => false

/-- The place is one of the given slots. -/
def Stream.inSlots (ns : List Nat) : Stream → Bool
  | .warp => false
  | .slot n => ns.contains n.val

/-- The classes of the acceptance column of R62. -/
inductive Accepted where
  /-- Everywhere. -/
  | all
  /-- Warps only. -/
  | warp
  /-- The listed strand slots only. -/
  | slots (ns : List Nat)
  /-- Warps and the listed strand slots. -/
  | both (ns : List Nat)
  /-- No op word names it. -/
  | step
  deriving DecidableEq, Repr, Inhabited

/-- A place belongs to a class of the acceptance column. -/
def Accepted.holds : Accepted → Stream → Bool
  | .all, _ => true
  | .warp, st => st.isWarp
  | .slots ns, st => st.inSlots ns
  | .both ns, st => st.isWarp || st.inSlots ns
  | .step, _ => false

/-- The acceptance column of the opcode map (R62). -/
def Instr.accepted : Instr → Accepted
  | .nop .. => .all
  | .yield .. | .endOp .. | .segb .. | .rdv .. | .nxt .. => .slots [1]
  | .exit .. | .conv .. => .warp
  | .brk .. | .irrev .. | .kpt .. | .rft .. | .rftNext .. | .trap .. => .both [0, 1]
  | .bra .. | .call .. | .brx .. | .callx .. | .ret .. => .both [0]
  | .loop .. => .slots [0]
  | .add .. | .sub .. | .mul .. | .mulh .. | .mulhn .. | .min .. | .max .. | .minn .. | .maxn .. | .and .. | .or ..
  | .xor .. | .andn .. | .shl .. | .shr .. | .sar .. | .mov .. | .sel .. | .mac .. | .popc .. | .clz .. | .brev ..
  | .bfe .. | .bfi .. | .rotl .. | .abs .. | .neg .. | .mulw .. | .lea .. | .addi .. | .andi .. | .ori .. | .xori ..
  | .shli .. | .shri .. | .sari .. | .movi .. | .movh .. | .cmp .. | .cmpi .. | .pand .. | .por .. | .pxor ..
  | .pandn .. | .srd .. | .swr .. => .both [0, 1]
  | .limm .. => .both [0]
  | .cmp64 .. => .slots [0, 1]
  | .fadd .. | .fsub .. | .fmul .. | .fmin .. | .fmax .. | .fabs .. | .fneg .. | .fcps .. | .ffma .. | .fcmp ..
  | .padd2 .. | .psub2 .. | .pmul2 .. | .pfma2 .. | .pmax2 .. | .pmin2 .. | .xexp2 .. | .xlog2 .. | .xrcp ..
  | .xrsq .. | .xsqrt .. | .xtanh .. | .xsin .. | .xcos .. | .cvtf .. | .cvti .. | .cvtn .. | .pack2 .. | .unpk2 ..
  | .voteAny .. | .voteAll .. | .voteBal .. | .shflIdx .. | .shflUp .. | .shflDn .. | .shflXor .. => .warp
  | .give .. | .take .. | .ttry .. | .town .. => .both [4]
  | .tsel .. => .warp
  | .ld .. | .st .. | .atom .. | .atcas .. | .red .. | .fence .. | .tfence .. | .pft .. | .pclr .. | .await ..
  | .cpk .. | .racq .. | .racqTry .. | .rcmt .. | .rpek .. | .rpekTry .. | .rrel .. => .both [6, 7]
  | .ldo .. | .sto .. => .both [6]
  | .launch .. | .jnew .. | .jarr .. | .jwait .. | .jqry .. | .bar .. => .both [1]
  | .migr .. | .mhome .. => .warp
  | .mma .. | .mmaz .. | .mmar .. | .mxc .. => .slots [2]
  | .tadd .. | .tsub .. | .tmul .. | .tfma .. | .tmax .. | .tmin .. | .tsclr .. | .tsclc .. | .tcpy .. | .tfill ..
  | .tmsk .. | .tcvt .. => .slots [3]
  | .trmax .. | .trsum .. | .tcmax .. | .tcsum .. | .ttrn .. | .tbcr .. | .tbcc .. => .slots [4]
  | .sexp2 .. | .slog2 .. | .srcp .. | .srsq .. | .stanh .. => .slots [5]
  | .tld .. | .tst .. => .slots [6, 7]
  | .nullifierSkip .. | .resultLanding .. | .loadReply .. | .fragxTimeout .. | .takeComplete .. | .rdvRelease ..
  | .homeFill .. | .homeWrite .. | .homeAtomic .. | .lineEviction .. | .releaseSend .. | .fenceComplete ..
  | .tokenRefill | .tokenSend .. | .pageWalk .. | .pagerFill .. | .pagerPoolTimeout .. | .presenceResume ..
  | .kick .. | .copyAccept .. | .arrivalWordUpdate .. | .presenceSet .. | .commitOnArrival .. | .awaitWake ..
  | .ringWake .. | .teamPlace .. | .eventPoll .. | .teamRetire .. | .gridRetireSignal .. | .spillTimeout ..
  | .joinDeadlineFlush .. | .joinRelease .. | .jwaitWake .. | .migrationLanding .. | .landingSlotTimeout ..
  | .preemptChoice .. | .drainTimeout .. | .teamSave .. | .stallSample .. | .samplerEnable .. | .samplerDisable ..
  | .stippleEnable .. | .stopall .. | .resumeall .. | .dbgHalt .. | .dbgResume .. | .dbgStep .. | .dbgStepb ..
  | .dbgUnknownCommand .. | .registerWrite .. | .doorbell .. | .windowWrite .. | .inboundDataSend .. | .windowRead ..
  | .ctxcreate .. | .ctxstop .. | .ctxresume .. | .ctxdestroy .. | .qreg .. | .qunreg .. | .spillclr ..
  | .dbggrant .. | .dbgrevoke .. | .flagclr .. | .resync .. | .attest .. | .stage .. | .restrike .. | .tlbinv ..
  | .imagePlaceReady .. | .imageAlive .. | .restrikeTimeout .. | .placementFallback .. | .powerOn
  | .selftestComplete .. | .fwloadComplete .. | .linkComplete .. | .frequencyChange .. | .illop ..
  | .savedTeamRestore .. | .unitStallEnd .. | .instructionFetchArrival .. | .peerInboundRequest .. | .peerRefusal ..
  | .unknownHostCommand .. => .step

/-- The place takes the op (R62). -/
def Instr.accepts (i : Instr) (st : Stream) : Bool := i.accepted.holds st

/-- The instruction is one that an op word names. -/
def Instr.isOp (i : Instr) : Bool := i.accepted != .step

/-- An even register field (R60). -/
def evenReg (r : Reg) : Bool := r.getLsbD 0 == false

/-- A field that names a pair in a warp is even there; in a strand every value is legal (R60, R88). -/
def pairOk (st : Stream) (r : Reg) : Bool := !st.isWarp || evenReg r

/-- The scope of an access: CORE unless the access is an acquire or a release (R219). -/
def scopeOk (sc : Scope) (ord : Order) : Bool := ord == .sync || sc == .core

/-- The data register of a load or store at a width (R220). -/
def widthOk (st : Stream) (d : Reg) : Width → Bool
  | .b8 | .b16 | .b32 => true
  | .b64 => pairOk st d
  | .b128 => if st.isWarp then d.extractLsb' 0 2 == 0#2 else evenReg d

/-- Sign extension is legal on 8 and 16 bits, and on 32 bits in a strand (R219). -/
def sxOk (st : Stream) (sx : Bool) : Width → Bool
  | .b8 | .b16 => true
  | .b32 => !sx || !st.isWarp
  | .b64 | .b128 => !sx

/-- The operand registers of an atomic at its width (R230). -/
def atomRegOk (st : Stream) (r : Reg) (op : AtomOp) : Bool := op != .add64 || pairOk st r

/-- B is unused in contiguous mode (R125). -/
def tileModeOk (b : Reg) (mode : TileMode) : Bool := mode != .cont || b == 0#6

/-- TRUNC is legal only on conversions to an integer (R172). -/
def CvtiKind.truncOk : CvtiKind → Bool → Bool
  | .s32F32, _ | .u32F32, _ => true
  | .f32S32, t | .f32U32, t => !t

/-- The fields of an instruction are legal in its place (R60, R64, R88 and the ops' descriptions). The table's
steps that no op word names have no fields of a word. -/
def Instr.fieldsOk (st : Stream) : Instr → Bool
  | .loop _ _ len => len != 0#10
  | .brx _ a | .callx _ a => pairOk st a
  | .mulw _ d _ _ => pairOk st d
  | .lea _ d a _ _ => pairOk st d && pairOk st a
  | .limm _ _ imm _ => !st.isWarp || imm == 0#16
  | .cvti _ _ _ k trunc => k.truncOk trunc
  | .cvtn _ _ _ b => pairOk st b
  | .unpk2 _ d _ _ => pairOk st d
  | .ld _ d a sc ord w sx | .ldo _ d a sc ord w sx _ =>
    pairOk st a && scopeOk sc ord && widthOk st d w && sxOk st sx w
  | .st _ d a sc ord w | .sto _ d a sc ord w _ => pairOk st a && scopeOk sc ord && widthOk st d w
  | .atom _ d a b op => pairOk st a && atomRegOk st b op && atomRegOk st d op
  | .red _ a b op => pairOk st a && atomRegOk st b op && op != .exch
  | .atcas _ d a b w64 => pairOk st a && (!w64 || (pairOk st d && pairOk st b))
  | .pft _ a | .pclr _ a _ | .await _ a | .cpk _ a | .rrel _ a | .launch _ _ a | .mhome _ _ a | .migr _ _ a =>
    pairOk st a
  | .racq _ d a | .rpek _ d a | .jwait _ d a => pairOk st d && pairOk st a
  | .racqTry _ d a p | .rpekTry _ d a p => pairOk st d && pairOk st a && p != 0#3
  | .rcmt _ a b | .jnew _ _ a b => pairOk st a && pairOk st b
  | .jqry _ d a sl => pairOk st d && pairOk st a && sl.ule 5#6
  | .tld _ _ _ b _ mode | .tst _ _ _ b _ mode => tileModeOk b mode
  | _ => true

/-- An instruction is well formed in a place when the place takes it and its fields are legal there (R64). -/
def Instr.wf (st : Stream) (i : Instr) : Bool := i.accepts st && i.fieldsOk st

/-- The instruction is a long form, with an extension word (R13, R61). -/
def Instr.isLong : Instr → Bool
  | .limm .. | .ldo .. | .sto .. => true
  | _ => false

end Sys2Proof
end

