-- ==== Sys2Proof/Decode.lean ====
section
/-! DEFINITION. Decoding of op words, total and rejecting by name, and the encoder (R58 to R64).

`decodeRaw` reads the fields of a word; `decode` then applies the rules of the place the word stands in. -/

namespace Sys2Proof

/-- Why a word is not an instruction; each is a case of R64 and raises precise ILLOP. -/
inductive Reject where
  /-- A major that the opcode map reserves. -/
  | reservedMajor
  /-- A minor that the opcode map reserves within its major. -/
  | reservedMinor
  /-- A reserved value of a sub-field. -/
  | reservedField
  /-- A field that the op does not use is not zero. -/
  | unusedField
  /-- A predicate operand of 8 to 63. -/
  | badPredicate
  /-- A legal op in a stream or slot that does not take it, or a misplaced long form. -/
  | wrongPlace
  /-- A register field outside its kind in this stream, or a field rule of the op broken. -/
  | badField
  deriving DecidableEq, Repr, Inhabited

/-! ## Codes of the sub-fields -/

/-- The code of a condition (R60). -/
def Cond.code : Cond → BitVec 3
  | .eq => 0 | .ne => 1 | .lt => 2 | .le => 3 | .gt => 4 | .ge => 5 | .ltn => 6 | .gen => 7

/-- The condition of a code (R60). -/
def Cond.ofCode (c : BitVec 3) : Cond :=
  match c.toNat with
  | 0 => .eq | 1 => .ne | 2 => .lt | 3 => .le | 4 => .gt | 5 => .ge | 6 => .ltn | _ => .gen

/-- The code of a scope (R60). -/
def Scope.code : Scope → BitVec 2
  | .core => 0 | .clu => 1 | .dev => 2 | .sys => 3

/-- The scope of a code (R60). -/
def Scope.ofCode (c : BitVec 2) : Scope :=
  match c.toNat with
  | 0 => .core | 1 => .clu | 2 => .dev | _ => .sys

/-- The code of an order (R60). -/
def Order.code : Order → BitVec 2
  | .weak => 0 | .sync => 1 | .strong => 2

/-- The order of a code; 11 is reserved (R60). -/
def Order.ofCode (c : BitVec 2) : Option Order :=
  match c.toNat with
  | 0 => some .weak | 1 => some .sync | 2 => some .strong | _ => none

/-- The code of a width (R60). -/
def Width.code : Width → BitVec 3
  | .b8 => 0 | .b16 => 1 | .b32 => 2 | .b64 => 3 | .b128 => 4

/-- The width of a code; 101 to 111 are reserved (R60). -/
def Width.ofCode (c : BitVec 3) : Option Width :=
  match c.toNat with
  | 0 => some .b8 | 1 => some .b16 | 2 => some .b32 | 3 => some .b64 | 4 => some .b128 | _ => none

/-- The code of an atomic operation (R63). -/
def AtomOp.code : AtomOp → BitVec 4
  | .add => 0 | .fadd => 1 | .bfadd2 => 2 | .hfadd2 => 3 | .min => 4 | .max => 5 | .minn => 6 | .maxn => 7
  | .and => 8 | .or => 9 | .xor => 10 | .exch => 11 | .add64 => 12

/-- The atomic operation of a code; 13 to 15 are reserved (R63). -/
def AtomOp.ofCode (c : BitVec 4) : Option AtomOp :=
  match c.toNat with
  | 0 => some .add | 1 => some .fadd | 2 => some .bfadd2 | 3 => some .hfadd2 | 4 => some .min | 5 => some .max
  | 6 => some .minn | 7 => some .maxn | 8 => some .and | 9 => some .or | 10 => some .xor | 11 => some .exch
  | 12 => some .add64 | _ => none

/-- The code of FFMA's rounding (R168). -/
def FmaRound.code : FmaRound → BitVec 4
  | .fpctl => 0 | .rne => 4 | .rz => 5 | .ru => 6 | .rd => 7

/-- FFMA's rounding of a code; other values are ILLOP (R168). -/
def FmaRound.ofCode (c : BitVec 4) : Option FmaRound :=
  match c.toNat with
  | 0 => some .fpctl | 4 => some .rne | 5 => some .rz | 6 => some .ru | 7 => some .rd | _ => none

/-- The selector code of CVTF (R172). -/
def CvtfKind.code : CvtfKind → BitVec 2
  | .bfF32 => 0 | .hfF32 => 1 | .f32Bf => 2 | .f32Hf => 3

/-- The CVTF selector of a code (R172). -/
def CvtfKind.ofCode (c : BitVec 2) : CvtfKind :=
  match c.toNat with
  | 0 => .bfF32 | 1 => .hfF32 | 2 => .f32Bf | _ => .f32Hf

/-- The selector code of CVTI (R172). -/
def CvtiKind.code : CvtiKind → BitVec 2
  | .s32F32 => 0 | .u32F32 => 1 | .f32S32 => 2 | .f32U32 => 3

/-- The CVTI selector of a code (R172). -/
def CvtiKind.ofCode (c : BitVec 2) : CvtiKind :=
  match c.toNat with
  | 0 => .s32F32 | 1 => .u32F32 | 2 => .f32S32 | _ => .f32U32

/-- The mode code of UNPK2 (R172). -/
def UnpkMode.code : UnpkMode → BitVec 2
  | .z => 0 | .s => 1 | .bf => 2

/-- The UNPK2 mode of a code (R172). -/
def UnpkMode.ofCode (c : BitVec 2) : Option UnpkMode :=
  match c.toNat with
  | 0 => some .z | 1 => some .s | 2 => some .bf | _ => none

/-- The mode code of TLD and TST (R125). -/
def TileMode.code : TileMode → BitVec 3
  | .rows => 0 | .cont => 1 | .cols => 2

/-- The TLD and TST mode of a code; 3 to 7 are ILLOP (R125). -/
def TileMode.ofCode (c : BitVec 3) : Option TileMode :=
  match c.toNat with
  | 0 => some .rows | 1 => some .cont | 2 => some .cols | _ => none

/-! ## The encoder -/

/-- OP, GN, GP and the 22 bits of the format (R58). -/
def encWord (op : BitVec 6) (g : Guard) (body : BitVec 22) : W32 :=
  op ++ BitVec.ofBool g.neg ++ g.pr ++ body

/-- Formats F3 and FA (R58). -/
def encF3 (op : BitVec 6) (g : Guard) (d a b : Reg) (fn : BitVec 4) : W32 :=
  encWord op g (d ++ a ++ b ++ fn)

/-- Format F2I (R58). -/
def encF2I (op : BitVec 6) (g : Guard) (d a : Reg) (imm : BitVec 10) : W32 :=
  encWord op g (d ++ a ++ imm)

/-- Format F1I (R58). -/
def encF1I (op : BitVec 6) (g : Guard) (d : Reg) (imm : BitVec 16) : W32 :=
  encWord op g (d ++ imm)

/-- Format FC (R58). -/
def encFC (op : BitVec 6) (g : Guard) (pd : Pred) (cc : BitVec 3) (a b : Reg) (fn : BitVec 4) : W32 :=
  encWord op g (pd ++ cc ++ a ++ b ++ fn)

/-- Format FM (R58). -/
def encFM (op : BitVec 6) (g : Guard) (d a : Reg) (sc : Scope) (ord : Order) (w : Width) (fn : BitVec 3) : W32 :=
  encWord op g (d ++ a ++ sc.code ++ ord.code ++ w.code ++ fn)

/-- The op word of an instruction (R62); the table's steps that no op word names have none, and answer 0. -/
def Instr.encode : Instr → W32
  | .nop g => encF3 0x00#6 g 0#6 0#6 0#6 0x0#4
  | .yield g => encF3 0x00#6 g 0#6 0#6 0#6 0x1#4
  | .endOp g => encF3 0x00#6 g 0#6 0#6 0#6 0x2#4
  | .exit g => encF3 0x00#6 g 0#6 0#6 0#6 0x3#4
  | .segb g => encF3 0x00#6 g 0#6 0#6 0#6 0x4#4
  | .conv g => encF3 0x00#6 g 0#6 0#6 0#6 0x6#4
  | .irrev g => encF3 0x00#6 g 0#6 0#6 0#6 0x7#4
  | .kpt g => encF3 0x00#6 g 0#6 0#6 0#6 0x8#4
  | .rft g => encF3 0x00#6 g 0#6 0#6 0#6 0x9#4
  | .rftNext g => encF3 0x00#6 g 0#6 0#6 1#6 0x9#4
  | .brk g n => encF3 0x00#6 g 0#6 0#6 n 0x5#4
  | .bra g off => encWord 0x01#6 g off
  | .call g off => encWord 0x02#6 g off
  | .loop g d len => encF2I 0x03#6 g d 0#6 len
  | .brx g a => encF3 0x04#6 g 0#6 a 0#6 0x0#4
  | .callx g a => encF3 0x04#6 g 0#6 a 0#6 0x1#4
  | .ret g => encF3 0x04#6 g 0#6 0#6 0#6 0x2#4
  | .trap g code => encF1I 0x05#6 g 0#6 code
  | .rdv g n => encF1I 0x06#6 g 0#6 n
  | .nxt g sl => encF1I 0x07#6 g 0#6 sl
  | .add g d a b => encF3 0x08#6 g d a b 0x0#4
  | .sub g d a b => encF3 0x08#6 g d a b 0x1#4
  | .mul g d a b => encF3 0x08#6 g d a b 0x2#4
  | .mulh g d a b => encF3 0x08#6 g d a b 0x3#4
  | .mulhn g d a b => encF3 0x08#6 g d a b 0x4#4
  | .min g d a b => encF3 0x08#6 g d a b 0x5#4
  | .max g d a b => encF3 0x08#6 g d a b 0x6#4
  | .minn g d a b => encF3 0x08#6 g d a b 0x7#4
  | .maxn g d a b => encF3 0x08#6 g d a b 0x8#4
  | .and g d a b => encF3 0x08#6 g d a b 0x9#4
  | .or g d a b => encF3 0x08#6 g d a b 0xA#4
  | .xor g d a b => encF3 0x08#6 g d a b 0xB#4
  | .andn g d a b => encF3 0x08#6 g d a b 0xC#4
  | .shl g d a b => encF3 0x08#6 g d a b 0xD#4
  | .shr g d a b => encF3 0x08#6 g d a b 0xE#4
  | .sar g d a b => encF3 0x08#6 g d a b 0xF#4
  | .mov g d a => encF3 0x09#6 g d a 0#6 0x0#4
  | .sel g d a b => encF3 0x09#6 g d a b 0x1#4
  | .mac g d a b => encF3 0x09#6 g d a b 0x2#4
  | .popc g d a => encF3 0x09#6 g d a 0#6 0x3#4
  | .clz g d a => encF3 0x09#6 g d a 0#6 0x4#4
  | .brev g d a => encF3 0x09#6 g d a 0#6 0x5#4
  | .bfe g d a b => encF3 0x09#6 g d a b 0x6#4
  | .bfi g d a b => encF3 0x09#6 g d a b 0x7#4
  | .rotl g d a b => encF3 0x09#6 g d a b 0x8#4
  | .abs g d a => encF3 0x09#6 g d a 0#6 0x9#4
  | .neg g d a => encF3 0x09#6 g d a 0#6 0xA#4
  | .mulw g d a b => encF3 0x09#6 g d a b 0xB#4
  | .lea g d a b sh => encF3 0x09#6 g d a b (0b11#2 ++ sh)
  | .addi g d a imm => encF2I 0x0A#6 g d a imm
  | .andi g d a imm => encF2I 0x0B#6 g d a imm
  | .ori g d a imm => encF2I 0x0C#6 g d a imm
  | .xori g d a imm => encF2I 0x0D#6 g d a imm
  | .shli g d a n => encF2I 0x0E#6 g d a (0#4 ++ n)
  | .shri g d a n => encF2I 0x0F#6 g d a (0#4 ++ n)
  | .sari g d a n => encF2I 0x10#6 g d a (0#4 ++ n)
  | .movi g d imm => encF1I 0x11#6 g d imm
  | .movh g d imm => encF1I 0x12#6 g d imm
  | .limm g d imm _ => encF1I 0x13#6 g d imm
  | .cmp g pd cc a b => encFC 0x14#6 g pd cc.code a b 0x0#4
  | .cmp64 g pd cc a b => encFC 0x14#6 g pd cc.code a b 0x1#4
  | .cmpi g pd cc a imm => encWord 0x15#6 g (pd ++ cc.code ++ a ++ imm)
  | .pand g pd pa pb => encF3 0x16#6 g (0#3 ++ pd) (0#3 ++ pa) (0#3 ++ pb) 0x0#4
  | .por g pd pa pb => encF3 0x16#6 g (0#3 ++ pd) (0#3 ++ pa) (0#3 ++ pb) 0x1#4
  | .pxor g pd pa pb => encF3 0x16#6 g (0#3 ++ pd) (0#3 ++ pa) (0#3 ++ pb) 0x2#4
  | .pandn g pd pa pb => encF3 0x16#6 g (0#3 ++ pd) (0#3 ++ pa) (0#3 ++ pb) 0x3#4
  | .fadd g d a b => encF3 0x17#6 g d a b 0x0#4
  | .fsub g d a b => encF3 0x17#6 g d a b 0x1#4
  | .fmul g d a b => encF3 0x17#6 g d a b 0x2#4
  | .fmin g d a b => encF3 0x17#6 g d a b 0x3#4
  | .fmax g d a b => encF3 0x17#6 g d a b 0x4#4
  | .fabs g d a => encF3 0x17#6 g d a 0#6 0x5#4
  | .fneg g d a => encF3 0x17#6 g d a 0#6 0x6#4
  | .fcps g d a b => encF3 0x17#6 g d a b 0x7#4
  | .ffma g d a b rm => encF3 0x18#6 g d a b rm.code
  | .fcmp g pd cc a b sig => encFC 0x19#6 g pd cc.code a b (0#3 ++ BitVec.ofBool sig)
  | .padd2 g d a b hf => encF3 0x1A#6 g d a b (BitVec.ofBool hf ++ 0#3)
  | .psub2 g d a b hf => encF3 0x1A#6 g d a b (BitVec.ofBool hf ++ 1#3)
  | .pmul2 g d a b hf => encF3 0x1A#6 g d a b (BitVec.ofBool hf ++ 2#3)
  | .pfma2 g d a b hf => encF3 0x1A#6 g d a b (BitVec.ofBool hf ++ 3#3)
  | .pmax2 g d a b hf => encF3 0x1A#6 g d a b (BitVec.ofBool hf ++ 4#3)
  | .pmin2 g d a b hf => encF3 0x1A#6 g d a b (BitVec.ofBool hf ++ 5#3)
  | .xexp2 g d a => encF3 0x1B#6 g d a 0#6 0x0#4
  | .xlog2 g d a => encF3 0x1B#6 g d a 0#6 0x1#4
  | .xrcp g d a => encF3 0x1B#6 g d a 0#6 0x2#4
  | .xrsq g d a => encF3 0x1B#6 g d a 0#6 0x3#4
  | .xsqrt g d a => encF3 0x1B#6 g d a 0#6 0x4#4
  | .xtanh g d a => encF3 0x1B#6 g d a 0#6 0x5#4
  | .xsin g d a => encF3 0x1B#6 g d a 0#6 0x6#4
  | .xcos g d a => encF3 0x1B#6 g d a 0#6 0x7#4
  | .cvtf g d a k hi => encF3 0x1C#6 g d a (0#3 ++ BitVec.ofBool hi ++ k.code) 0x0#4
  | .cvti g d a k trunc => encF3 0x1C#6 g d a (0#3 ++ BitVec.ofBool trunc ++ k.code) 0x1#4
  | .cvtn g d a b => encF3 0x1C#6 g d a b 0x2#4
  | .pack2 g d a b => encF3 0x1C#6 g d a b 0x3#4
  | .unpk2 g d a m => encF3 0x1C#6 g d a (0#4 ++ m.code) 0x4#4
  | .voteAny g pd pa => encF3 0x1D#6 g (0#3 ++ pd) (0#3 ++ pa) 0#6 0x0#4
  | .voteAll g pd pa => encF3 0x1D#6 g (0#3 ++ pd) (0#3 ++ pa) 0#6 0x1#4
  | .voteBal g d pa => encF3 0x1D#6 g d (0#3 ++ pa) 0#6 0x2#4
  | .shflIdx g d a b => encF3 0x1D#6 g d a b 0x3#4
  | .shflUp g d a b => encF3 0x1D#6 g d a b 0x4#4
  | .shflDn g d a b => encF3 0x1D#6 g d a b 0x5#4
  | .shflXor g d a b => encF3 0x1D#6 g d a b 0x6#4
  | .srd g d n => encF1I 0x1E#6 g d (0b0000#4 ++ n)
  | .swr g d n => encF1I 0x1E#6 g d (0b1000#4 ++ n)
  | .give g a b => encF3 0x1F#6 g 0#6 a b 0x0#4
  | .take g a => encF3 0x1F#6 g 0#6 a 0#6 0x1#4
  | .ttry g pd a => encF3 0x1F#6 g (0#3 ++ pd) a 0#6 0x2#4
  | .tsel g a => encF3 0x1F#6 g 0#6 a 0#6 0x3#4
  | .town g d a => encF3 0x1F#6 g d a 0#6 0x4#4
  | .ld g d a sc ord w sx => encFM 0x20#6 g d a sc ord w (0#2 ++ BitVec.ofBool sx)
  | .st g d a sc ord w => encFM 0x21#6 g d a sc ord w 0#3
  | .ldo g d a sc ord w sx _ => encFM 0x22#6 g d a sc ord w (0#2 ++ BitVec.ofBool sx)
  | .sto g d a sc ord w _ => encFM 0x23#6 g d a sc ord w 0#3
  | .atom g d a b op => encF3 0x24#6 g d a b op.code
  | .atcas g d a b w64 => encF3 0x25#6 g d a b (0#3 ++ BitVec.ofBool w64)
  | .red g a b op => encF3 0x26#6 g 0#6 a b op.code
  | .fence g sc => encF1I 0x27#6 g 0#6 (0#14 ++ sc.code)
  | .tfence g sc => encF1I 0x27#6 g 0#6 (0#13 ++ 1#1 ++ sc.code)
  | .pft g a => encF3 0x28#6 g 0#6 a 0#6 0x0#4
  | .pclr g a b => encF3 0x28#6 g 0#6 a b 0x1#4
  | .await g a => encF3 0x28#6 g 0#6 a 0#6 0x2#4
  | .cpk g a => encF3 0x29#6 g 0#6 a 0#6 0x0#4
  | .racq g d a => encF3 0x2A#6 g d a 0#6 0x0#4
  | .racqTry g d a p => encF3 0x2A#6 g d a (0b001#3 ++ p) 0x0#4
  | .rcmt g a b => encF3 0x2A#6 g 0#6 a b 0x1#4
  | .rpek g d a => encF3 0x2A#6 g d a 0#6 0x2#4
  | .rpekTry g d a p => encF3 0x2A#6 g d a (0b001#3 ++ p) 0x2#4
  | .rrel g a => encF3 0x2A#6 g 0#6 a 0#6 0x3#4
  | .launch g d a => encF3 0x2B#6 g d a 0#6 0x0#4
  | .jnew g d a b => encF3 0x2B#6 g d a b 0x1#4
  | .jarr g d => encF3 0x2B#6 g d 0#6 0#6 0x2#4
  | .jwait g d a => encF3 0x2B#6 g d a 0#6 0x3#4
  | .jqry g d a sl => encF3 0x2B#6 g d a sl 0x4#4
  | .migr g pd a => encF3 0x2B#6 g (0#3 ++ pd) a 0#6 0x5#4
  | .mhome g d a => encF3 0x2B#6 g d a 0#6 0x6#4
  | .bar g n id => encF1I 0x2C#6 g 0#6 (0#4 ++ n ++ id)
  | .mma g d a b fn => encF3 0x30#6 g d a b fn
  | .mmaz g d a b fn => encF3 0x31#6 g d a b fn
  | .mmar g d a b fn => encF3 0x32#6 g d a b fn
  | .mxc g a => encF3 0x33#6 g 0#6 a 0#6 0x0#4
  | .tadd g d a b => encF3 0x34#6 g d a b 0x0#4
  | .tsub g d a b => encF3 0x34#6 g d a b 0x1#4
  | .tmul g d a b => encF3 0x34#6 g d a b 0x2#4
  | .tfma g d a b => encF3 0x34#6 g d a b 0x3#4
  | .tmax g d a b => encF3 0x34#6 g d a b 0x4#4
  | .tmin g d a b => encF3 0x34#6 g d a b 0x5#4
  | .tsclr g d a b => encF3 0x34#6 g d a b 0x6#4
  | .tsclc g d a b => encF3 0x34#6 g d a b 0x7#4
  | .tcpy g d a => encF3 0x34#6 g d a 0#6 0x8#4
  | .tfill g d a => encF3 0x34#6 g d a 0#6 0x9#4
  | .tmsk g d a b => encF3 0x34#6 g d a b 0xA#4
  | .tcvt g d a b => encF3 0x34#6 g d a b 0xB#4
  | .trmax g d a => encF3 0x35#6 g d a 0#6 0x0#4
  | .trsum g d a => encF3 0x35#6 g d a 0#6 0x1#4
  | .tcmax g d a => encF3 0x35#6 g d a 0#6 0x2#4
  | .tcsum g d a => encF3 0x35#6 g d a 0#6 0x3#4
  | .ttrn g d a => encF3 0x35#6 g d a 0#6 0x4#4
  | .tbcr g d a => encF3 0x35#6 g d a 0#6 0x5#4
  | .tbcc g d a => encF3 0x35#6 g d a 0#6 0x6#4
  | .sexp2 g d a => encF3 0x36#6 g d a 0#6 0x0#4
  | .slog2 g d a => encF3 0x36#6 g d a 0#6 0x1#4
  | .srcp g d a => encF3 0x36#6 g d a 0#6 0x2#4
  | .srsq g d a => encF3 0x36#6 g d a 0#6 0x3#4
  | .stanh g d a => encF3 0x36#6 g d a 0#6 0x4#4
  | .tld g d a b strong mode => encF3 0x37#6 g d a b (BitVec.ofBool strong ++ mode.code)
  | .tst g d a b strong mode => encF3 0x38#6 g d a b (BitVec.ofBool strong ++ mode.code)
  | _ => 0#32

/-- The extension word of a long form; 0 for every other instruction (R61). -/
def Instr.extWord : Instr → W32
  | .limm _ _ _ x | .ldo _ _ _ _ _ _ _ x | .sto _ _ _ _ _ _ x => x
  | _ => 0#32

/-! ## Fields of a word -/

/-- OP (R58). -/
def fOp (w : W32) : BitVec 6 := w.extractLsb' 26 6
/-- GN and GP (R58). -/
def fGuard (w : W32) : Guard := ⟨w.getLsbD 25, w.extractLsb' 22 3⟩
/-- D (R58). -/
def fD (w : W32) : Reg := w.extractLsb' 16 6
/-- A (R58). -/
def fA (w : W32) : Reg := w.extractLsb' 10 6
/-- B (R58). -/
def fB (w : W32) : Reg := w.extractLsb' 4 6
/-- FN or AOP (R58). -/
def fFn (w : W32) : BitVec 4 := w.extractLsb' 0 4
/-- PD (R58). -/
def fPd (w : W32) : Pred := w.extractLsb' 19 3
/-- CC (R58). -/
def fCc (w : W32) : Cond := Cond.ofCode (w.extractLsb' 16 3)
/-- I10 (R58). -/
def fI10 (w : W32) : BitVec 10 := w.extractLsb' 0 10
/-- I16 (R58). -/
def fI16 (w : W32) : BitVec 16 := w.extractLsb' 0 16
/-- O22 (R58). -/
def fO22 (w : W32) : BitVec 22 := w.extractLsb' 0 22
/-- SC (R58). -/
def fSc (w : W32) : Scope := Scope.ofCode (w.extractLsb' 8 2)

/-- A predicate operand in a 6-bit register field: 8 to 63 are illegal (R59). -/
def predOf (r : Reg) : Option Pred :=
  if r.extractLsb' 3 3 = 0#3 then some (r.extractLsb' 0 3) else none

/-! ## Decoding, one function per group of majors -/

/-- The word when its unused fields are zero. -/
def needZero (z : Bool) (i : Instr) : Except Reject Instr := if z then .ok i else .error .unusedField

/-- Major 0x00 (R62, R302, R303). -/
def decSys (g : Guard) (d a b : Reg) (fn : BitVec 4) : Except Reject Instr :=
  let z := d == 0#6 && a == 0#6 && b == 0#6
  match fn.toNat with
  | 0 => needZero z (.nop g)
  | 1 => needZero z (.yield g)
  | 2 => needZero z (.endOp g)
  | 3 => needZero z (.exit g)
  | 4 => needZero z (.segb g)
  | 5 => needZero (d == 0#6 && a == 0#6) (.brk g b)
  | 6 => needZero z (.conv g)
  | 7 => needZero z (.irrev g)
  | 8 => needZero z (.kpt g)
  | 9 =>
    if d == 0#6 && a == 0#6 then
      match b.toNat with
      | 0 => .ok (.rft g)
      | 1 => .ok (.rftNext g)
      | _ => .error .reservedField
    else .error .unusedField
  | _ => .error .reservedMinor

/-- Major 0x04 (R96). -/
def decJmpx (g : Guard) (d a b : Reg) (fn : BitVec 4) : Except Reject Instr :=
  let z := d == 0#6 && b == 0#6
  match fn.toNat with
  | 0 => needZero z (.brx g a)
  | 1 => needZero z (.callx g a)
  | 2 => needZero (z && a == 0#6) (.ret g)
  | _ => .error .reservedMinor

/-- Major 0x08 (R81). -/
def decAlu (g : Guard) (d a b : Reg) (fn : BitVec 4) : Except Reject Instr :=
  match fn.toNat with
  | 0 => .ok (.add g d a b)
  | 1 => .ok (.sub g d a b)
  | 2 => .ok (.mul g d a b)
  | 3 => .ok (.mulh g d a b)
  | 4 => .ok (.mulhn g d a b)
  | 5 => .ok (.min g d a b)
  | 6 => .ok (.max g d a b)
  | 7 => .ok (.minn g d a b)
  | 8 => .ok (.maxn g d a b)
  | 9 => .ok (.and g d a b)
  | 10 => .ok (.or g d a b)
  | 11 => .ok (.xor g d a b)
  | 12 => .ok (.andn g d a b)
  | 13 => .ok (.shl g d a b)
  | 14 => .ok (.shr g d a b)
  | _ => .ok (.sar g d a b)

/-- Major 0x09 (R83). -/
def decAlu2 (g : Guard) (d a b : Reg) (fn : BitVec 4) : Except Reject Instr :=
  let z := b == 0#6
  match fn.toNat with
  | 0 => needZero z (.mov g d a)
  | 1 => .ok (.sel g d a b)
  | 2 => .ok (.mac g d a b)
  | 3 => needZero z (.popc g d a)
  | 4 => needZero z (.clz g d a)
  | 5 => needZero z (.brev g d a)
  | 6 => .ok (.bfe g d a b)
  | 7 => .ok (.bfi g d a b)
  | 8 => .ok (.rotl g d a b)
  | 9 => needZero z (.abs g d a)
  | 10 => needZero z (.neg g d a)
  | 11 => .ok (.mulw g d a b)
  | _ => .ok (.lea g d a b (fn.extractLsb' 0 2))

/-- A shift by an immediate: I10[9:6] must be zero (R89). -/
def decShiftImm (imm : BitVec 10) (mk : BitVec 6 → Instr) : Except Reject Instr :=
  needZero (imm.extractLsb' 6 4 == 0#4) (mk (imm.extractLsb' 0 6))

/-- A predicate destination or source in a register field. -/
def withPred (r : Reg) (k : Pred → Except Reject Instr) : Except Reject Instr :=
  match predOf r with
  | some p => k p
  | none => .error .badPredicate

/-- Major 0x16 (R93). -/
def decPlog (g : Guard) (d a b : Reg) (fn : BitVec 4) : Except Reject Instr :=
  match fn.toNat with
  | 0 => withPred d fun pd => withPred a fun pa => withPred b fun pb => .ok (.pand g pd pa pb)
  | 1 => withPred d fun pd => withPred a fun pa => withPred b fun pb => .ok (.por g pd pa pb)
  | 2 => withPred d fun pd => withPred a fun pa => withPred b fun pb => .ok (.pxor g pd pa pb)
  | 3 => withPred d fun pd => withPred a fun pa => withPred b fun pb => .ok (.pandn g pd pa pb)
  | _ => .error .reservedMinor

/-- Major 0x17 (R167). -/
def decFpu (g : Guard) (d a b : Reg) (fn : BitVec 4) : Except Reject Instr :=
  match fn.toNat with
  | 0 => .ok (.fadd g d a b)
  | 1 => .ok (.fsub g d a b)
  | 2 => .ok (.fmul g d a b)
  | 3 => .ok (.fmin g d a b)
  | 4 => .ok (.fmax g d a b)
  | 5 => needZero (b == 0#6) (.fabs g d a)
  | 6 => needZero (b == 0#6) (.fneg g d a)
  | 7 => .ok (.fcps g d a b)
  | _ => .error .reservedMinor

/-- Major 0x1A (R170). -/
def decPkf (g : Guard) (d a b : Reg) (fn : BitVec 4) : Except Reject Instr :=
  let hf := fn.getLsbD 3
  match (fn.extractLsb' 0 3).toNat with
  | 0 => .ok (.padd2 g d a b hf)
  | 1 => .ok (.psub2 g d a b hf)
  | 2 => .ok (.pmul2 g d a b hf)
  | 3 => .ok (.pfma2 g d a b hf)
  | 4 => .ok (.pmax2 g d a b hf)
  | 5 => .ok (.pmin2 g d a b hf)
  | _ => .error .reservedMinor

/-- Major 0x1B (R171). -/
def decXfn (g : Guard) (d a b : Reg) (fn : BitVec 4) : Except Reject Instr :=
  let z := b == 0#6
  match fn.toNat with
  | 0 => needZero z (.xexp2 g d a)
  | 1 => needZero z (.xlog2 g d a)
  | 2 => needZero z (.xrcp g d a)
  | 3 => needZero z (.xrsq g d a)
  | 4 => needZero z (.xsqrt g d a)
  | 5 => needZero z (.xtanh g d a)
  | 6 => needZero z (.xsin g d a)
  | 7 => needZero z (.xcos g d a)
  | _ => .error .reservedMinor

/-- Major 0x1C (R172). -/
def decCvt (g : Guard) (d a b : Reg) (fn : BitVec 4) : Except Reject Instr :=
  match fn.toNat with
  | 0 =>
    if b.extractLsb' 3 3 = 0#3 then .ok (.cvtf g d a (CvtfKind.ofCode (b.extractLsb' 0 2)) (b.getLsbD 2))
    else .error .reservedField
  | 1 =>
    let k := CvtiKind.ofCode (b.extractLsb' 0 2)
    if b.extractLsb' 3 3 = 0#3 ∧ k.truncOk (b.getLsbD 2) = true then .ok (.cvti g d a k (b.getLsbD 2))
    else .error .reservedField
  | 2 => .ok (.cvtn g d a b)
  | 3 => .ok (.pack2 g d a b)
  | 4 =>
    match UnpkMode.ofCode (b.extractLsb' 0 2) with
    | some m => if b.extractLsb' 2 4 = 0#4 then .ok (.unpk2 g d a m) else .error .reservedField
    | none => .error .reservedField
  | _ => .error .reservedMinor

/-- Major 0x1D (R177, R178). -/
def decLane (g : Guard) (d a b : Reg) (fn : BitVec 4) : Except Reject Instr :=
  let z := b == 0#6
  match fn.toNat with
  | 0 => withPred d fun pd => withPred a fun pa => needZero z (.voteAny g pd pa)
  | 1 => withPred d fun pd => withPred a fun pa => needZero z (.voteAll g pd pa)
  | 2 => withPred a fun pa => needZero z (.voteBal g d pa)
  | 3 => .ok (.shflIdx g d a b)
  | 4 => .ok (.shflUp g d a b)
  | 5 => .ok (.shflDn g d a b)
  | 6 => .ok (.shflXor g d a b)
  | _ => .error .reservedMinor

/-- Major 0x1E (R101). -/
def decSreg (g : Guard) (d : Reg) (imm : BitVec 16) : Except Reject Instr :=
  if imm.extractLsb' 12 3 = 0#3 then
    .ok (if imm.getLsbD 15 then .swr g d (imm.extractLsb' 0 12) else .srd g d (imm.extractLsb' 0 12))
  else .error .reservedField

/-- Major 0x1F (R179). -/
def decOwn (g : Guard) (d a b : Reg) (fn : BitVec 4) : Except Reject Instr :=
  let zd := d == 0#6
  let zb := b == 0#6
  match fn.toNat with
  | 0 => needZero zd (.give g a b)
  | 1 => needZero (zd && zb) (.take g a)
  | 2 => withPred d fun pd => needZero zb (.ttry g pd a)
  | 3 => needZero (zd && zb) (.tsel g a)
  | 4 => needZero zb (.town g d a)
  | _ => .error .reservedMinor

/-- The order and width of an FM word (R60). -/
def withMem (w : W32) (k : Order → Width → Except Reject Instr) : Except Reject Instr :=
  match Order.ofCode (w.extractLsb' 6 2), Width.ofCode (w.extractLsb' 3 3) with
  | some o, some wd => k o wd
  | _, _ => .error .reservedField

/-- A load word: FN[0] is SX and the rest of FN is zero (R219). -/
def decLoad (w : W32) (mk : Order → Width → Bool → Instr) : Except Reject Instr :=
  withMem w fun o wd => if w.extractLsb' 1 2 = 0#2 then .ok (mk o wd (w.getLsbD 0)) else .error .reservedField

/-- A store word: FN is zero (R219). -/
def decStore (w : W32) (mk : Order → Width → Instr) : Except Reject Instr :=
  withMem w fun o wd => if w.extractLsb' 0 3 = 0#3 then .ok (mk o wd) else .error .reservedField

/-- An atomic's operation (R63). -/
def withAop (fn : BitVec 4) (k : AtomOp → Except Reject Instr) : Except Reject Instr :=
  match AtomOp.ofCode fn with
  | some op => k op
  | none => .error .reservedField

/-- Major 0x27 (R235). -/
def decFence (g : Guard) (d : Reg) (imm : BitVec 16) : Except Reject Instr :=
  let sc := Scope.ofCode (imm.extractLsb' 0 2)
  needZero (d == 0#6 && imm.extractLsb' 3 13 == 0#13) (if imm.getLsbD 2 then .tfence g sc else .fence g sc)

/-- Major 0x28 (R236, R247). -/
def decMsync (g : Guard) (d a b : Reg) (fn : BitVec 4) : Except Reject Instr :=
  let zd := d == 0#6
  match fn.toNat with
  | 0 => needZero (zd && b == 0#6) (.pft g a)
  | 1 => needZero zd (.pclr g a b)
  | 2 => needZero (zd && b == 0#6) (.await g a)
  | _ => .error .reservedMinor

/-- The B field of RACQ and RPEK: 0, or 0b001ppp for .TRY (R251). -/
def decTry (b : Reg) (plain : Instr) (try_ : Pred → Instr) : Except Reject Instr :=
  if b = 0#6 then .ok plain
  else if b.extractLsb' 3 3 = 1#3 then .ok (try_ (b.extractLsb' 0 3))
  else .error .reservedField

/-- Major 0x2A (R251). -/
def decRing (g : Guard) (d a b : Reg) (fn : BitVec 4) : Except Reject Instr :=
  match fn.toNat with
  | 0 => decTry b (.racq g d a) (.racqTry g d a)
  | 1 => needZero (d == 0#6) (.rcmt g a b)
  | 2 => decTry b (.rpek g d a) (.rpekTry g d a)
  | 3 => needZero (d == 0#6 && b == 0#6) (.rrel g a)
  | _ => .error .reservedMinor

/-- Major 0x2B (R262, R271, R281, R289, R370, R371). -/
def decTask (g : Guard) (d a b : Reg) (fn : BitVec 4) : Except Reject Instr :=
  let zb := b == 0#6
  match fn.toNat with
  | 0 => needZero zb (.launch g d a)
  | 1 => .ok (.jnew g d a b)
  | 2 => needZero (a == 0#6 && zb) (.jarr g d)
  | 3 => needZero zb (.jwait g d a)
  | 4 => .ok (.jqry g d a b)
  | 5 => withPred d fun pd => needZero zb (.migr g pd a)
  | 6 => needZero zb (.mhome g d a)
  | _ => .error .reservedMinor

/-- Major 0x34 (R119). -/
def decTv (g : Guard) (d a b : Reg) (fn : BitVec 4) : Except Reject Instr :=
  match fn.toNat with
  | 0 => .ok (.tadd g d a b)
  | 1 => .ok (.tsub g d a b)
  | 2 => .ok (.tmul g d a b)
  | 3 => .ok (.tfma g d a b)
  | 4 => .ok (.tmax g d a b)
  | 5 => .ok (.tmin g d a b)
  | 6 => .ok (.tsclr g d a b)
  | 7 => .ok (.tsclc g d a b)
  | 8 => needZero (b == 0#6) (.tcpy g d a)
  | 9 => needZero (b == 0#6) (.tfill g d a)
  | 10 => .ok (.tmsk g d a b)
  | 11 => .ok (.tcvt g d a b)
  | _ => .error .reservedMinor

/-- Major 0x35 (R122). -/
def decTr (g : Guard) (d a b : Reg) (fn : BitVec 4) : Except Reject Instr :=
  let z := b == 0#6
  match fn.toNat with
  | 0 => needZero z (.trmax g d a)
  | 1 => needZero z (.trsum g d a)
  | 2 => needZero z (.tcmax g d a)
  | 3 => needZero z (.tcsum g d a)
  | 4 => needZero z (.ttrn g d a)
  | 5 => needZero z (.tbcr g d a)
  | 6 => needZero z (.tbcc g d a)
  | _ => .error .reservedMinor

/-- Major 0x36 (R124). -/
def decSf (g : Guard) (d a b : Reg) (fn : BitVec 4) : Except Reject Instr :=
  let z := b == 0#6
  match fn.toNat with
  | 0 => needZero z (.sexp2 g d a)
  | 1 => needZero z (.slog2 g d a)
  | 2 => needZero z (.srcp g d a)
  | 3 => needZero z (.srsq g d a)
  | 4 => needZero z (.stanh g d a)
  | _ => .error .reservedMinor

/-- Majors 0x37 and 0x38: the mode (R125). -/
def decTileMem (fn : BitVec 4) (mk : Bool → TileMode → Instr) : Except Reject Instr :=
  match TileMode.ofCode (fn.extractLsb' 0 3) with
  | some m => .ok (mk (fn.getLsbD 3) m)
  | none => .error .reservedField

/-- The instruction whose fields a word and its extension hold, whatever its place (R58 to R63). -/
def decodeRaw (w ext : W32) : Except Reject Instr :=
  let g := fGuard w
  let d := fD w
  let a := fA w
  let b := fB w
  let fn := fFn w
  match (fOp w).toNat with
  | 0x00 => decSys g d a b fn
  | 0x01 => .ok (.bra g (fO22 w))
  | 0x02 => .ok (.call g (fO22 w))
  | 0x03 => needZero (a == 0#6) (.loop g d (fI10 w))
  | 0x04 => decJmpx g d a b fn
  | 0x05 => needZero (d == 0#6) (.trap g (fI16 w))
  | 0x06 => needZero (d == 0#6) (.rdv g (fI16 w))
  | 0x07 => needZero (d == 0#6) (.nxt g (fI16 w))
  | 0x08 => decAlu g d a b fn
  | 0x09 => decAlu2 g d a b fn
  | 0x0A => .ok (.addi g d a (fI10 w))
  | 0x0B => .ok (.andi g d a (fI10 w))
  | 0x0C => .ok (.ori g d a (fI10 w))
  | 0x0D => .ok (.xori g d a (fI10 w))
  | 0x0E => decShiftImm (fI10 w) (.shli g d a)
  | 0x0F => decShiftImm (fI10 w) (.shri g d a)
  | 0x10 => decShiftImm (fI10 w) (.sari g d a)
  | 0x11 => .ok (.movi g d (fI16 w))
  | 0x12 => .ok (.movh g d (fI16 w))
  | 0x13 => .ok (.limm g d (fI16 w) ext)
  | 0x14 =>
    match fn.toNat with
    | 0 => .ok (.cmp g (fPd w) (fCc w) a b)
    | 1 => .ok (.cmp64 g (fPd w) (fCc w) a b)
    | _ => .error .reservedMinor
  | 0x15 => .ok (.cmpi g (fPd w) (fCc w) a (fI10 w))
  | 0x16 => decPlog g d a b fn
  | 0x17 => decFpu g d a b fn
  | 0x18 =>
    match FmaRound.ofCode fn with
    | some rm => .ok (.ffma g d a b rm)
    | none => .error .reservedField
  | 0x19 => if fn.extractLsb' 1 3 = 0#3 then .ok (.fcmp g (fPd w) (fCc w) a b (fn.getLsbD 0)) else .error .reservedMinor
  | 0x1A => decPkf g d a b fn
  | 0x1B => decXfn g d a b fn
  | 0x1C => decCvt g d a b fn
  | 0x1D => decLane g d a b fn
  | 0x1E => decSreg g d (fI16 w)
  | 0x1F => decOwn g d a b fn
  | 0x20 => decLoad w fun o wd sx => .ld g d a (fSc w) o wd sx
  | 0x21 => decStore w fun o wd => .st g d a (fSc w) o wd
  | 0x22 => decLoad w fun o wd sx => .ldo g d a (fSc w) o wd sx ext
  | 0x23 => decStore w fun o wd => .sto g d a (fSc w) o wd ext
  | 0x24 => withAop fn fun op => .ok (.atom g d a b op)
  | 0x25 => if fn.extractLsb' 1 3 = 0#3 then .ok (.atcas g d a b (fn.getLsbD 0)) else .error .reservedMinor
  | 0x26 => withAop fn fun op => needZero (d == 0#6) (.red g a b op)
  | 0x27 => decFence g d (fI16 w)
  | 0x28 => decMsync g d a b fn
  | 0x29 => needZero (d == 0#6 && b == 0#6 && fn == 0#4) (.cpk g a)
  | 0x2A => decRing g d a b fn
  | 0x2B => decTask g d a b fn
  | 0x2C =>
    needZero (d == 0#6 && (fI16 w).extractLsb' 12 4 == 0#4) (.bar g ((fI16 w).extractLsb' 4 8) ((fI16 w).extractLsb' 0 4))
  | 0x30 => .ok (.mma g d a b fn)
  | 0x31 => .ok (.mmaz g d a b fn)
  | 0x32 => .ok (.mmar g d a b fn)
  | 0x33 => needZero (d == 0#6 && b == 0#6 && fn == 0#4) (.mxc g a)
  | 0x34 => decTv g d a b fn
  | 0x35 => decTr g d a b fn
  | 0x36 => decSf g d a b fn
  | 0x37 => decTileMem fn fun s m => .tld g d a b s m
  | 0x38 => decTileMem fn fun s m => .tst g d a b s m
  | _ => .error .reservedMajor

/-- The instruction of a word in its place, or why it is none (R64). -/
def decode (st : Stream) (w ext : W32) : Except Reject Instr :=
  match decodeRaw w ext with
  | .error r => .error r
  | .ok i =>
    if i.accepts st = false then .error .wrongPlace
    else if i.fieldsOk st = false then .error .badField
    else .ok i

/-- The little-endian 32-bit word at the front of a byte list (R12). -/
def wordAt (bs : List Byte) : W32 := BitVec.ofNat 32 (natLE (bs.take 4))

/-- The instruction whose bytes stand at the front of a byte list, its extension in the next word (R12, R61). -/
def decodeBytes (st : Stream) (bs : List Byte) : Except Reject Instr :=
  decode st (wordAt bs) (wordAt (bs.drop 4))

/-- The bytes of an instruction as memory holds them: the op word, and the extension word of a long form. -/
def Instr.bytes (i : Instr) : List Byte :=
  bytesLE 4 i.encode.toNat ++ if i.isLong then bytesLE 4 i.extWord.toNat else []

/-- The places a table word is tried in: a warp's op stream first, then the slots of a bundle. -/
def tableStreams : List Stream := .warp :: (List.finRange 8).map Stream.slot

/-- The first place whose decoder reads an instruction from the bytes. -/
def decodeFirst (bs : List Byte) : List Stream → Option (Stream × Instr)
  | [] => none
  | st :: sts =>
    match decodeBytes st bs with
    | .ok i => some (st, i)
    | .error _ => decodeFirst bs sts

/-- The bytes of a table word: its words as memory holds them, an operand word of zeros above `nbits`. -/
def tableBytes (nbits w : Nat) : List Byte := bytesLE 8 (w % 2 ^ nbits)

/-- The instruction the decoder reads from a word numbered as the opcode table numbers it. -/
def decodeTableWord (nbits w : Nat) : Option Instr :=
  (decodeFirst (tableBytes nbits w) tableStreams).map (·.2)

end Sys2Proof
end

