-- ==== Sys2Proof/Machine/Translate.lean ====
section
/-! DEFINITION. Address windows, page tables, TLBs and translation (R188, R189, R209 to R213, R369). -/

namespace Sys2Proof.Machine

/-! ## Entries (R210) -/

/-- V. -/
def pteV (e : W64) : Bool := e.getLsbD 0
/-- W. -/
def pteW (e : W64) : Bool := e.getLsbD 1
/-- X. -/
def pteX (e : W64) : Bool := e.getLsbD 2
/-- LEAF. -/
def pteLeaf (e : W64) : Bool := e.getLsbD 3
/-- LEASE. -/
def pteLease (e : W64) : Nat := (e.extractLsb' 5 2).toNat
/-- IL: 0 PKG, 1 DIE, 2 SYS, 3 reserved. -/
def pteIL (e : W64) : Nat := (e.extractLsb' 7 2).toNat
/-- D. -/
def pteD (e : W64) : Nat := (e.extractLsb' 9 2).toNat
/-- PG. -/
def ptePG (e : W64) : Bool := e.getLsbD 11
/-- FRAME, or BDX. -/
def pteFrame (e : W64) : Nat := (e.extractLsb' 12 40).toNat
/-- The reserved bits [63:52]. -/
def pteRes (e : W64) : Nat := (e.extractLsb' 52 12).toNat

/-- What an access needs of its page (R211). -/
inductive Access where
  | read | write | fetch
  /-- MHOME: no permission, and a pager-managed entry answers without a fill (R370). -/
  | home
  deriving DecidableEq, Repr, Inhabited

/-- Where a walk ends (R211). -/
inductive Walk where
  /-- A leaf: its entry, and the page size. -/
  | leaf (pte : W64) (size : Nat)
  /-- A pager fault at a level-3 entry. -/
  | pager (pte : W64) (cell : Nat)
  | bad
  /-- An entry lies on an engine-pending line: its read waits there (R193, R202). -/
  | wait
  deriving DecidableEq, Repr, Inhabited

/-- Every die is READY and reachable: the PKG view is usable (R385). -/
def pkgUp (s : State) : Bool := s.dies.toList.all fun d => d.state == .ready && d.pair && d.cross

/-- A frame of a view: usable, aligned, and wholly inside the view (R194, R211, R385). -/
def frameOk (s : State) (pte : W64) (size : Nat) : Bool :=
  let a := 4096 * pteFrame pte
  a % size == 0 &&
    match pteIL pte with
    | 0 => pkgUp s && a + size ≤ Config.pkgBytes
    | 1 => a + size ≤ Config.dieBytes
    | 2 => a / 281474976710656 % 16 ≤ 8
    | _ => false

/-- The cell of a byte of a PKG or DIE frame. -/
def frameCell (pte : W64) (off : Nat) : Nat :=
  let a := 4096 * pteFrame pte + off
  if pteIL pte = 1 then dieCell (pteD pte) a else pkgCell a

/-- A leaf entry is legal at its page size (R210, R211). -/
def leafOk (s : State) (pte : W64) (size : Nat) : Bool := pteRes pte == 0 && pteLease pte != 3 && frameOk s pte size

/-- One level of the walk: the entry's cell, the page size at this level, and the levels below (R209, R211). -/
def walkFrom (s : State) (va : Nat) : List Nat → Nat → Nat → Walk
  | [], _, _ => .bad
  | size :: below, cell, level =>
    let pte := BitVec.ofNat 64 (devNat s cell 8)
    if linePending s (lineOf cell) then .wait
    else if !pteV pte then
      if ptePG pte && below.isEmpty && pteRes pte == 0 then .pager pte cell else .bad
    else if pteLeaf pte || below.isEmpty then
      if level == 0 || !pteLeaf pte || !leafOk s pte size then .bad else .leaf pte size
    else if pteIL pte ≥ 2 || !frameOk s pte 4096 then .bad
    else
      match below with
      | [] => .bad
      | next :: _ => walkFrom s va below (frameCell pte (8 * (va / next % 512))) (level + 1)

/-- The page size that an entry of each level maps. -/
def levelSizes : List Nat := [549755813888, 1073741824, 2097152, 4096]

/-- A cell that a unit names by its PKG-view address can be reached: its die is READY. R385 rules out PKG frames while a die
is missing, and R1 lets one die run alone: an address that no entry gives is no frame (DESIGN CHOICE, log entry 77). -/
def cellUp (s : State) (cell : Nat) : Bool := (dieAt s (dieOf cell)).state == .ready

/-- A walk of a context's table from its root (R209). -/
def walk (s : State) (x : Ctx) (va : Nat) : Walk :=
  let cell := pkgCell (x.root + 8 * (va / 549755813888 % 8192))
  if cellUp s cell then walkFrom s va levelSizes cell 0 else .bad

/-! ## TLBs (R212) -/

/-- A translation that a TLB holds. -/
def tlbFind (t : List TlbEntry) (c : CtxId) (va : Nat) : Option TlbEntry :=
  t.find? fun e => e.ctx == c && e.base ≤ va && va < e.base + e.size

/-- A translation that a core's TLB or its die's TLB holds. -/
def tlbLookup (s : State) (k : CoreId) (c : CtxId) (va : Nat) : Option TlbEntry :=
  match tlbFind (coreAt s k).tlb c va with
  | some e => some e
  | none => tlbFind (dieAt s (coreDie k)).tlb c va

/-- A leaf enters a core's TLB and its die's TLB; the oldest entry leaves a full one (R212). -/
def tlbInstall (s : State) (k : CoreId) (e : TlbEntry) : State :=
  let s := modCore s k fun c => { c with tlb := (e :: c.tlb.erase e).take Config.coreTlbEntries }
  modDie s (coreDie k) fun d => { d with tlb := (e :: d.tlb.erase e).take Config.dieTlbEntries }

/-- A TLB without a context's translations that overlap [base, base + len); every one of them when `len` is 0. -/
def tlbClear (t : List TlbEntry) (c : CtxId) (base len : Nat) : List TlbEntry :=
  t.filter fun e => !(e.ctx == c && (len == 0 || (e.base < base + len && base < e.base + e.size)))

/-! ## Translation -/

/-- What translation of a global address gives. -/
inductive Trans where
  /-- A place, its lease length, and the entry. -/
  | ok (l : Loc) (lease : Nat) (pte : W64)
  /-- A fault that the pager takes. -/
  | pager (pte : W64)
  /-- MEMV with this reason. -/
  | bad (reason : Nat)
  /-- The walk waits at an engine-pending line (R193, R202). -/
  | wait
  deriving DecidableEq, Repr, Inhabited

/-- The place of a byte of a leaf's page (R194, R369). -/
def leafLoc (pte : W64) (off : Nat) : Loc :=
  if pteIL pte = 2 then
    let a := 4096 * pteFrame pte + off
    let t := a / 281474976710656 % 16
    let low := a % 281474976710656
    if t = 0 then .host low else .peer (Fin.ofNat 8 (t - 1)) low
  else .dev (frameCell pte off)

/-- A leaf used for an access (R211). -/
def useLeaf (acc : Access) (pte : W64) (off : Nat) : Trans :=
  match acc with
  | .write => if pteW pte then .ok (leafLoc pte off) (Config.leaseTicks.getD (pteLease pte) 512) pte else .bad 3
  | .fetch => if pteX pte then .ok (leafLoc pte off) (Config.leaseTicks.getD (pteLease pte) 512) pte else .bad 3
  | _ => .ok (leafLoc pte off) (Config.leaseTicks.getD (pteLease pte) 512) pte

/-- A walk's end used for an access. -/
def useWalk (acc : Access) (va : Nat) : Walk → Trans
  | .leaf pte size => useLeaf acc pte (va % size)
  | .pager pte _ => .pager pte
  | .bad => .bad 4
  | .wait => .wait

/-- Translation by a walk alone, as engines and units make it. -/
def translateWalk (s : State) (c : CtxId) (acc : Access) (va : Nat) : Trans :=
  match ctxAt s c with
  | some x => useWalk acc va (walk s x va)
  | none => .bad 4

/-- Translation of a core's access: a held translation, or a walk (R212). -/
def translate (s : State) (k : CoreId) (c : CtxId) (acc : Access) (va : Nat) : Trans :=
  match tlbLookup s k c va with
  | some e => useLeaf acc e.pte (va % e.size)
  | none => translateWalk s c acc va

/-- The translation of a core's access enters its TLBs. -/
def noteWalk (s : State) (k : CoreId) (c : CtxId) (va : Nat) : State :=
  match tlbLookup s k c va with
  | some _ => s
  | none =>
    match ctxAt s c with
    | none => s
    | some x =>
      match walk s x va with
      | .leaf pte size => tlbInstall s k { ctx := c, base := alignDown va size, size := size, pte := pte }
      | _ => s

/-! ## Windows (R188, R189) -/

/-- The window an address falls in. -/
inductive Window where
  | global (va : Nat)
  | shared (k : CoreId) (off : Nat)
  | control (off : Nat)
  /-- MEMV with this reason. -/
  | bad (reason : Nat)
  deriving DecidableEq, Repr, Inhabited

/-- The launch record's field at byte `off`, bits [hi:lo]. -/
def recBits (raw : LineData) (off lo n : Nat) : Nat := (raw.extractLsb' (8 * off + lo) n).toNat

/-- The team's shared size in bytes (R258). -/
def sharedSize (g : Grid) : Nat := (recBits g.raw 0x28 17 3 + 1) * 131072
/-- The team's tile quota on a core (R258). -/
def tileQuota (g : Grid) : Nat := recBits g.raw 0x28 8 9
/-- The team's span (R258). -/
def teamSpan (g : Grid) : Nat := 2 ^ recBits g.raw 0x28 20 2
/-- Warps per core: 0 when the record gives no warp entry (R131, R259). -/
def teamWarps (g : Grid) : Nat := if recBits g.raw 0 0 64 = 0 then 0 else recBits g.raw 0x28 0 8
/-- A protected team (R258, R314). -/
def teamProt (g : Grid) : Bool := recBits g.raw 0x28 25 1 == 1
/-- IDEM (R258). -/
def teamIdem (g : Grid) : Bool := recBits g.raw 0x28 24 1 == 1

/-- The grid of a team. -/
def teamGrid (s : State) (t : Nat) : Option Grid :=
  match teamAt s t with
  | some x => gridAt s x.grid
  | none => none

/-- The window of an address named by an agent of team `t` on core `k`; `away` for a migrated warp (R375). -/
def window (s : State) (k : CoreId) (t : Nat) (away : Bool) (a : W64) : Window :=
  let n := a.toNat
  match teamAt s t, teamGrid s t with
  | some tm, some g =>
    let off := n % 281474976710656
    match n / 281474976710656 with
    | 0x8000 =>
      if away then .bad 0 else if off < sharedSize g then .shared k off else .bad 1
    | 0x8100 =>
      if away then .bad 0
      else if off ≥ 8 * 16777216 then .bad 0
      else
        let c := off / 16777216
        let o := off % 16777216
        if c < tm.pos || c ≥ tm.pos + teamSpan g then .bad 2
        else if o ≥ sharedSize g then .bad 1
        else .shared (tm.cores.getD (c - tm.pos) k) o
    | 0x8200 => if away then .bad 0 else .control off
    | hi => if hi < 0x10 then .global n else .bad 0
  | _, _ => .bad 0

end Sys2Proof.Machine
end

