-- ==== Sys2Proof/Machine/Ops.lean ====
section
/-! DEFINITION. The shared operations: registers, error records, stops of a context, taking a precise trap and
returning from it, and the life of fragments, warps, strands and teams. -/

namespace Sys2Proof.Machine

/-! ## Bits and addresses -/

/-- The TPC layout of a warp op at a byte address (R297). -/
def tpcOf (a : W64) : W64 := (a &&& ~~~(31#64)) ||| ((a >>> 2) &&& 7#64)

/-- The TPC layout of a slot of a bundle. -/
def tpcSlot (pc : W64) (n : Slot) : W64 := (pc &&& ~~~(31#64)) ||| BitVec.ofNat 64 n.val

/-- The byte address that a TPC names. -/
def tpcAddr (t : W64) : W64 := (t &&& ~~~(31#64)) + ((t &&& 7#64) <<< 2)

/-- A predicate read: P0 reads true (R6, R93). -/
def predGet (p : BitVec 8) (i : Pred) : Bool := i == 0#3 || p.getLsbD i.toNat

/-- A predicate write: a write to P0 is discarded (R6). -/
def predSet (p : BitVec 8) (i : Pred) (v : Bool) : BitVec 8 :=
  if i = 0#3 then p
  else if v then p ||| (1#8 <<< i.toNat) else p &&& ~~~(1#8 <<< i.toNat)

/-- A guard's value: P[GP] XOR GN, so GN with P0 is "never" (R24). -/
def guardOn (g : Guard) (p : BitVec 8) : Bool := predGet p g.pr != g.neg

/-- A mask's bit. -/
def laneIn (m : LaneMask) (l : Lane) : Bool := m.getLsbD l.val
/-- The mask of the lanes that satisfy a test. -/
def maskOf (t : Lane → Bool) : LaneMask :=
  allLanes.foldl (fun m l => if t l then m ||| (1#32 <<< l.val) else m) 0#32
/-- The lowest lane of a mask (R160). -/
def leadLane (m : LaneMask) : Lane := (allLanes.find? fun l => laneIn m l).getD 0

/-! ## The result registers of a trap (R297) -/

/-- The class code of R296. -/
def classCode : TrapClass → Nat
  | .illop => 0 | .fetch => 1 | .align => 2 | .memv => 3 | .pres => 4 | .prov => 5 | .own => 6 | .absy => 7
  | .sched => 8 | .fragx => 9 | .segovf => 10 | .seh => 11 | .trap => 12 | .brk => 13 | .migx => 14

/-- The trap registers that report a trap at a place in TPC layout. -/
def trapRegsOf (t : TrapInfo) (pc : W64) : TrapRegs :=
  { cause := (0#8 ++ t.code ++ BitVec.ofNat 8 (classCode t.cls)), pc := pc, addr := t.addr, synd := t.synd,
    unit := BitVec.ofNat 32 (t.unit % 16), coord := t.coord, townf := 0#23 ++ t.townf }

/-- ILLOP with the op word (R298). -/
def trapIllop (w : W32) (unit : Nat) : TrapInfo := { cls := .illop, synd := 0#32 ++ w, unit := unit }
/-- FETCH at an address (R297). -/
def trapFetch (a : W64) (unit : Nat) : TrapInfo := { cls := .fetch, addr := a, unit := unit }
/-- ALIGN at an address with log2 of the alignment (R298). -/
def trapAlign (a : W64) (log : Nat) (unit : Nat) : TrapInfo :=
  { cls := .align, addr := a, synd := BitVec.ofNat 64 log, unit := unit }
/-- MEMV at an address with its reason and lanes (R298). -/
def trapMemv (a : W64) (reason : Nat) (lanes : LaneMask) (unit : Nat) : TrapInfo :=
  { cls := .memv, addr := a, synd := BitVec.ofNat 32 (reason % 16) ++ lanes, unit := unit }
/-- OWN on a team tile with the owner field as it stood (R297). -/
def trapOwn (tile : Nat) (field : BitVec 9) (unit : Nat) : TrapInfo :=
  { cls := .own, townf := field, coord := BitVec.ofNat 64 (tile % 512 * 2 ^ 48), unit := unit }

/-! ## Unit accesses through a context's page table -/

/-- Bytes at a translated place of device or host memory. -/
def locBytes (s : State) (l : Loc) (n : Nat) : Option (List Byte) :=
  match l with
  | .dev c => some (devBytes s c n)
  | .host a => some (memBytes s.host a n)
  | .shared k t off => some (sharedBytes s k t off n)
  | .peer _ _ => none

/-- Bytes stored at a translated place, with the completion tick (0 outside device memory). -/
def locPut (s : State) (l : Loc) (bs : List Byte) : Option (State × Nat) :=
  match l with
  | .dev c => some (homeStore s c bs)
  | .host a => some ({ s with host := memPut s.host a bs }, 0)
  | .shared k t off => some (sharedPut s k t off bs, 0)
  | .peer _ _ => none

/-- Bytes that a unit reads at a virtual address; none when they are out of reach, or engine-pending (R193). -/
def unitRead (s : State) (c : CtxId) (va : W64) (n : Nat) : Option (List Byte) :=
  match translateWalk s c .read va.toNat with
  | .ok (.dev cell) _ _ => if (linesOf cell n).any (linePending s) then none else locBytes s (.dev cell) n
  | .ok l _ _ => locBytes s l n
  | _ => none

/-- Bytes that a unit writes at a virtual address (a weak store performed at home). -/
def unitWrite (s : State) (c : CtxId) (va : W64) (bs : List Byte) : Option (State × Nat) :=
  if va.toNat / 4503599627370496 ≠ 0 then none
  else
    match translateWalk s c .write va.toNat with
    | .ok l _ _ => locPut s l bs
    | _ => none

/-! ## The error queue (R317 to R320) -/

/-- The 64 bytes of a record (R318). -/
def recordBytes (s : State) (c : CtxId) (r : ErrRec) (seq : W32) : List Byte :=
  let w0 := r.cls + 2 ^ 8 * r.detail + 2 ^ 17 * r.stopd.toNat + 2 ^ 18 * r.precise.toNat + 2 ^ 19 * r.iret.toNat +
    2 ^ 24 * r.frag + 2 ^ 32 * r.agent + 2 ^ 39 * r.akind + 2 ^ 42 * r.core.val + 2 ^ 50 * r.rdie.val +
    2 ^ 52 * c.val
  bytesLE 8 w0 ++ bytesLE 8 s.tick ++ bytesLE 8 r.wisn.toNat ++ bytesLE 8 r.pc.toNat ++ bytesLE 8 r.addr.toNat ++
    bytesLE 8 r.synd.toNat ++ bytesLE 8 r.team.toNat ++ bytesLE 4 seq.toNat ++ bytesLE 4 r.grid.toNat

/-- A team's coordinates as the TEAM register gives them (R103). -/
def teamReg (t : Team) : W64 := 0#16 ++ t.z ++ t.y ++ t.x

/-- The management controller of a die is being exchanged: host commands of the die wait, and so do the pager's escalations (R392). -/
def commandsHeld (s : State) (d : DieId) : Bool := match (dieAt s d).striking with | some x => x.ctl == 0 | none => false

/-- A vector raised at a port; an error-queue vector is held while the management controller is exchanged (R380,
R392). -/
def raiseVector (s : State) (p : PortId) (v : Nat) : State :=
  let quiet := commandsHeld s p && v < 64
  modPort s p fun q => if quiet then { q with later := q.later ++ [v] } else { q with vectors := q.vectors ++ [v] }

/-- A vector raised at every cabled port (R380). -/
def raiseAll (s : State) (v : Nat) : State :=
  (List.finRange 4).foldl (fun s p => if Config.cabled p then raiseVector s p v else s) s

/-- The error-queue control block as its 64-bit words 1 to 3, when it can be read. -/
def errqBlock (s : State) (c : CtxId) (x : Ctx) : Option (Nat × Nat × Nat × Nat) :=
  match unitRead s c x.errq 8, unitRead s c (x.errq + 8) 8, unitRead s c (x.errq + 16) 8, unitRead s c (x.errq + 24) 8 with
  | some a, some b, some d, some e => some (natLE a, natLE b, natLE d, natLE e)
  | _, _, _, _ => none

/-- A bit of a number. -/
def natBit (n i : Nat) : Bool := n / 2 ^ i % 2 == 1
/-- A number with a bit set. -/
def natSetBit (n i : Nat) : Nat := if natBit n i then n else n + 2 ^ i

/-- A read of some bytes by a unit waits at an engine-pending line, of the walk or of the bytes (R193, R202). -/
def unitWaits (s : State) (c : CtxId) (va : W64) (n : Nat) : Bool :=
  match translateWalk s c .read va.toNat with
  | .wait => true
  | .ok (.dev cell) _ _ => (linesOf cell n).any (linePending s)
  | _ => false

/-- The error-queue block waits to be read. -/
def errqWaits (s : State) (c : CtxId) (x : Ctx) : Bool := [0, 8, 16, 24].any fun i => unitWaits s c (x.errq + i) 8

/-- DROPS counts a dropped record, and OVF is set, when the block can be written (R320). -/
def dropRecord (s : State) (c : CtxId) (x : Ctx) : State :=
  match errqBlock s c x with
  | none => s
  | some (_, _, flags, _) =>
    let flags := natSetBit ((flags + 2 ^ 32) % 2 ^ 64) 0
    match unitWrite s c (x.errq + 16) (bytesLE 8 flags) with
    | some (s, _) => s
    | none => s

/-- A bit of a number set or cleared. -/
def natPutBit (n : Nat) (b : Nat × Bool) : Nat := if b.2 then natSetBit n b.1 else if natBit n b.1 then n - 2 ^ b.1 else n

/-- The bits of the error-queue block's flags that the device has to set or clear, once the block can be read (R317). -/
def putFlags (s : State) (c : CtxId) : State :=
  match ctxAt s c with
  | none => s
  | some x =>
    if x.flagJobs.isEmpty || errqWaits s c x then s
    else
      let s := setCtx s c (some { x with flagJobs := [] })
      match errqBlock s c x with
      | none => s
      | some (_, _, flags, _) => ((unitWrite s c (x.errq + 16) (bytesLE 8 (x.flagJobs.foldl natPutBit flags))).map (·.1)).getD s

/-- The device sets or clears a bit of the flags: 1 STOPPED, 2 DBGEDIT (R317). -/
def errqFlag (s : State) (c : CtxId) (i : Nat) (on : Bool) : State :=
  putFlags (modCtx s c fun x => { x with flagJobs := x.flagJobs ++ [(i, on)] }) c

/-- A team begins to be saved (R308, R323). -/
def beginSave (s : State) (t : Nat) : State :=
  modTeam s t fun x => if x.status == .placed then { x with status := .saving } else x

/-- A context stops: no team of it is placed, every team is saved, STOPPED is set (R308, R317). -/
def stopContext (s : State) (c : CtxId) : State :=
  match ctxAt s c with
  | none => s
  | some x =>
    let s := setCtx s c (some { x with stopped := true })
    let killed := fun (m : Member) => if m.state = .running then { m with state := .killing, stop := true } else m
    let s := { s with
      teams := s.teams.map fun t => if t.ctx == c && t.status == .placed then { t with status := .saving } else t,
      joins := s.joins.map fun j => if j.ctx == c then { j with members := j.members.map killed } else j }
    errqFlag s c 1 true

/-- The stop that a record's policy asks for: of the context, or of the agent with a save of its team (R301, R308, R320). -/
def recordStops (s : State) (c : CtxId) (r : PendingRec) : State :=
  match r.stop with
  | .never => s
  | .context => stopContext s c
  | .agent team =>
    let s := match r.who, r.place with
      | some (.frag ..), some (k, w) => onWarp s k w fun x => { x with stopReq := true }
      | some (.strand k n), _ => onStrand s k n fun x => { x with stopReq := true }
      | _, _ => s
    beginSave s team

/-- The next record of a context is written, or dropped and counted, once the block can be read; its policy is that of the block as it
is read then, or as last read when the block is out of reach (R317, R318, R320). -/
def putRecord (s : State) (c : CtxId) : State :=
  match ctxAt s c with
  | none => s
  | some x =>
    match x.recs with
    | [] => s
    | p :: rest =>
      if p.tail.isSome || errqWaits s c x then s
      else
        let blk := errqBlock s c x
        let x := match blk with
          | some (_, _, _, pol) => { x with stop := natBit pol 0, stopimp := natBit pol 1 }
          | none => x
        let on := match p.stop with | .never => false | .context => x.stop | .agent _ => x.stopimp
        let r := { p.info with stopd := on }
        let stops := fun (s : State) => if on then recordStops s c p else s
        let s := setCtx s c (some { x with recs := rest })
        let drop := stops (dropRecord s c x)
        match blk with
        | none => drop
        | some (base, w1, _, _) =>
          let log := w1 % 32
          let head := w1 / 2 ^ 16 % 2 ^ 16
          let tail := w1 / 2 ^ 32 % 2 ^ 16
          let at_ := BitVec.ofNat 64 (base + 64 * (tail % 2 ^ log))
          if log < 6 || log > 16 || base % 4096 != 0 || (tail + 2 ^ 16 - head) % 2 ^ 16 == 2 ^ log then drop
          else if translateWalk s c .write at_.toNat = .wait then setCtx s c (some x)
          else
            match unitWrite s c at_ (recordBytes s c r p.seq) with
            | none => drop
            | some (s, w) => stops (modCtx s c fun y => { y with recs := { p with tail := some (w, tail + 1) } :: rest })

/-- TAIL advances over a written record by a DEV release: once TICK has passed it; the vector is raised (R198, R320, R380). -/
def putTail (s : State) (c : CtxId) : State :=
  match ctxAt s c with
  | none => s
  | some x =>
    match x.recs with
    | [] => s
    | p :: rest =>
      match p.tail with
      | none => s
      | some (w, tail) =>
        if w ≠ 0 && s.tick ≤ w then s
        else
          let s := setCtx s c (some { x with recs := rest })
          match unitWrite s c (x.errq + 12) (bytesLE 2 tail) with
          | none => s
          | some (s, _) => raiseVector s x.port c.val

/-- What is to be written to a context's error queue, as far as it can be. -/
def errqTurn (s : State) (c : CtxId) : State := putTail (putRecord (putTail (putFlags s c) c) c) c

/-- An error record of a context: it is numbered now, and written after those before it; `stop`: what its policy may stop, of which
agent (R318, R320). -/
def fileRecord (s : State) (c : CtxId) (r : ErrRec) (stop : RecStop) (who : Option AgentRef) (place : Option (CoreId × WarpIx)) : State :=
  match ctxAt s c with
  | none => s
  | some x =>
    errqTurn (setCtx s c (some { x with seq := x.seq + 1, recs := x.recs ++
      [{ info := r, seq := x.seq, stop := stop, who := who, place := place }] })) c

/-- An error record that stops nothing. -/
def writeRecord (s : State) (c : CtxId) (r : ErrRec) : State := fileRecord s c r .never none none

/-! ## Requests and horizons -/

/-- A fresh number. -/
def freshId (s : State) : State × Nat := ({ s with nextId := s.nextId + 1 }, s.nextId)

/-- The next free value of the run (log entry 3). -/
def freshValue (s : State) : State × W64 := ({ s with free := s.free + 1 }, Config.freeValue s.free)

/-- An agent's horizon (R198). -/
def horizonOf (s : State) : AgentRef → Nat
  | .frag k f => match fragAt (coreAt s k) f with | some x => x.hz | none => 0
  | .strand k n => match strandAt (coreAt s k) n with | some x => x.hz | none => 0

/-- A completion tick joins an agent's horizon (R198). -/
def raiseHorizon (s : State) (w : Nat) : AgentRef → State
  | .frag k f => onFrag s k f fun x => { x with hz := max x.hz w }
  | .strand k n => onStrand s k n fun x => { x with hz := max x.hz w }

/-- A completion tick joins the horizons of several agents. -/
def raiseHorizons (s : State) (w : Nat) (as : List AgentRef) : State := as.foldl (fun s a => raiseHorizon s w a) s

/-- The core of an agent. -/
def agentCore : AgentRef → CoreId
  | .frag k _ => k
  | .strand k _ => k

/-- The owners of every unperformed access changed. -/
def mapOwners (s : State) (g : List AgentRef → List AgentRef) : State :=
  { s with reqs := s.reqs.map fun r => { r with owners := g r.owners } }

/-- Owners and issuers changed: what a split, a merge or an end of an agent does. -/
def mapAgents (s : State) (g : List AgentRef → List AgentRef) : State :=
  { s with reqs := s.reqs.map fun r => { r with owners := g r.owners, issuers := g r.issuers } }

/-- Agents join the owners of what one agent owns. -/
def coOwn (src : AgentRef) (dst : List AgentRef) (os : List AgentRef) : List AgentRef :=
  if os.contains src then os ++ dst.filter fun a => !os.contains a else os

/-! ## Releases and acquires (R202, R203) -/

/-- A place as a space and an address in it. -/
def locKey : Loc → Nat × Nat
  | .dev c => (0, c)
  | .host a => (1, a)
  | .peer p a => (2 + p.val, a)
  | .shared k t o => (10 + 256 * t + k.val, o)

/-- Two byte ranges meet. -/
def locMeets (a : Loc) (n : Nat) (b : Loc) (m : Nat) : Bool :=
  (locKey a).1 == (locKey b).1 && decide ((locKey a).2 < (locKey b).2 + m) && decide ((locKey b).2 < (locKey a).2 + n)

/-- A byte range covers another. -/
def locCovers (a : Loc) (n : Nat) (b : Loc) (m : Nat) : Bool :=
  (locKey a).1 == (locKey b).1 && decide ((locKey a).2 ≤ (locKey b).2) && decide ((locKey b).2 + m ≤ (locKey a).2 + n)

/-- The horizon that a mark holds; a mark that is no longer kept holds nothing to wait for. -/
def markHz (s : State) (m : Nat) : Nat := ((s.marks.find? fun x => x.id == m).map (·.hz)).getD 0

/-- A release of an agent: a mark of its horizon and its unperformed accesses, when there is something to inherit. -/
def makeMark (s : State) (who : AgentRef) (but : Nat) : State × List Nat :=
  let mine := fun (r : Req) => r.owners.contains who && r.id != but
  if horizonOf s who < s.tick && !s.reqs.any mine then (s, [])
  else
    let (s', m) := freshId s
    ({ s' with marks := { id := m, hz := horizonOf s who } :: s.marks,
               reqs := s.reqs.map fun r => if mine r then { r with marks := m :: r.marks } else r }, [m])

/-- Everything that some marks stand for is performed, and TICK has passed its horizons: the wait of a DEV release that was
marked when its op issued (R198). -/
def marksQuiet (s : State) (ms : List Nat) : Bool :=
  !s.reqs.any (fun r => r.marks.any ms.contains) && ms.all fun m => markHz s m = 0 || decide (markHz s m < s.tick)

/-- An acquire inherits from marks: their horizons, and the accesses that carry them. -/
def acquireMarks (s : State) (who : AgentRef) (ms : List Nat) : State :=
  if ms.isEmpty then s
  else
    let hz := ms.foldl (fun h m => max h (markHz s m)) 0
    raiseHorizon
      { s with reqs := s.reqs.map fun r =>
          if r.marks.any ms.contains && !r.owners.contains who then { r with owners := who :: r.owners } else r } hz who

/-- The marks that a read of some bytes returns. -/
def marksAt (s : State) (l : Loc) (n : Nat) : List Nat :=
  (s.syncs.filter fun x => locMeets x.loc x.len l n).map (·.mark)

/-- An acquire that reads some bytes inherits from the releases that it reads. -/
def acquireAt (s : State) (who : AgentRef) (l : Loc) (n : Nat) : State := acquireMarks s who (marksAt s l n)

/-- A write publishes its marks at its bytes, and takes the place of those that it covers. -/
def publishAt (s : State) (l : Loc) (n : Nat) (ms : List Nat) : State :=
  { s with syncs := (ms.map fun m => { loc := l, len := n, mark := m : Sync }) ++
      s.syncs.filter fun x => !locCovers l n x.loc x.len }

/-- A completion that adds to what its bytes publish: an arrival word's count, a presence bit, a ring's commit (R202). -/
def publishMore (s : State) (l : Loc) (n : Nat) (ms : List Nat) : State :=
  { s with syncs := (ms.map fun m => { loc := l, len := n, mark := m : Sync }) ++ s.syncs }

/-- A release of an agent that bytes publish: a commit or a release of a ring (R202, R252). -/
def releaseAt (s : State) (who : AgentRef) (l : Loc) (n : Nat) : State :=
  let (s, m) := makeMark s who s.nextId
  publishMore s l n m

/-- Marks that an agent has read and not yet acquired. -/
def seenOf (s : State) : AgentRef → List Nat
  | .frag k f => match fragAt (coreAt s k) f with | some x => x.seen | none => []
  | .strand k n => match strandAt (coreAt s k) n with | some x => x.seen | none => []

/-- The marks of an agent's last fence. -/
def pubOf (s : State) : AgentRef → List Nat
  | .frag k f => match fragAt (coreAt s k) f with | some x => x.pub | none => []
  | .strand k n => match strandAt (coreAt s k) n with | some x => x.pub | none => []

/-- An agent's marks changed. -/
def setSeen (s : State) (who : AgentRef) (g p : List Nat → List Nat) : State :=
  match who with
  | .frag k f => onFrag s k f fun x => { x with seen := g x.seen, pub := p x.pub }
  | .strand k n => onStrand s k n fun x => { x with seen := g x.seen, pub := p x.pub }

/-- A returned read's marks are remembered for a later fence. -/
def noteSeen (s : State) (who : AgentRef) (ms : List Nat) : State :=
  if ms.isEmpty then s else setSeen s who (fun xs => ms ++ xs.filter fun m => !ms.contains m) id

/-- A fence's end: it acquires what the agent's loads have read, and the agent's later writes publish its state (R202,
R203). -/
def acquireCore (s : State) (who : AgentRef) : State :=
  let s := acquireMarks s who (seenOf s who)
  let (s, m) := makeMark s who s.nextId
  setSeen s who (fun _ => []) (fun _ => m)

/-- Marks with nothing left to inherit are forgotten. -/
def sweepMarks (s : State) : State :=
  if s.marks.isEmpty && s.syncs.isEmpty then s
  else
    let live := s.marks.filter fun m => s.tick ≤ m.hz || s.reqs.any fun r => r.marks.contains m.id
    { s with marks := live, syncs := s.syncs.filter fun x => live.any fun m => m.id == x.mark }

/-! ## The wait of R198 -/

/-- A request that returns a value. -/
def returnsValue (r : Req) : Bool :=
  match r.op with
  | .load .. | .cas .. => true
  | .atomic _ _ _ rets => !rets.isEmpty
  | .fill | .store _ | .engine .. | .fence .. | .kick => false

/-- The unfinished requests that an agent's waits cover. -/
def owned (s : State) (who : AgentRef) : List Req := s.reqs.filter fun r => r.owners.contains who

/-- The wait of R198 of an agent at a scope, over some of its requests. -/
def waitDone (s : State) (who : AgentRef) (sc : Scope) (rs : List Req) : Bool :=
  match sc with
  | .core => rs.all fun r => !r.held && !returnsValue r
  | .clu | .dev | .sys => rs.isEmpty && horizonOf s who < s.tick

/-! ## Fragments: splits, merges, exits (R136 to R140) -/

/-- The live fragments of a warp place of a core. -/
def liveFrags (c : Core) (w : WarpIx) : List FragId :=
  ((c.frags.toList.zip allFrags).filter fun p => match p.1 with | some x => x.warp == w | none => false).map (·.2)

/-- Free entries a split of a warp may take, in order: its home entry, then the pool (R136). -/
def freeEntries (c : Core) (w : WarpIx) : List FragId :=
  let home := if w.val < 64 then [Fin.ofNat 192 w.val] else []
  (home ++ (allFrags.filter fun f => 64 ≤ f.val)).filter fun f => (fragAt c f).isNone

/-- Lane groups of equal target, ordered by lowest lane (R136). -/
def groupLanes {α : Type} [DecidableEq α] (m : LaneMask) (tgt : Lane → α) : List (LaneMask × α) :=
  (allLanes.filter (laneIn m)).foldl (fun gs l =>
    if gs.any (fun g => g.2 = tgt l) then gs.map fun g => if g.2 = tgt l then (g.1 ||| (1#32 <<< l.val), g.2) else g
    else gs ++ [(1#32 <<< l.val, tgt l)]) []

/-- The split of a fragment into groups: the first keeps the entry, the others take free entries with a copy of it
(R136, R297). None when entries or the limit of 8 fragments do not allow it (R137). -/
def splitFrag (c : Core) (f : FragId) (gs : List (LaneMask × (Frag → Frag))) : Option (Core × List FragId) :=
  match fragAt c f with
  | none => none
  | some x =>
    let free := freeEntries c x.warp
    if gs.length = 0 || free.length + 1 < gs.length || (liveFrags c x.warp).length + gs.length - 1 > 8 then none
    else
      let ids := f :: free
      some ((ids.zip gs).foldl (fun c p => setFrag c p.1 (some (p.2.2 { x with mask := p.2.1, lastSel := if p.1 == f then x.lastSel else c.cycle }))) c,
        (ids.zip gs).map (·.1))

/-- Requests and horizons follow a split: the new fragments own what the old one owned (R200). -/
def shareOwners (s : State) (k : CoreId) (f : FragId) (gs : List FragId) : State :=
  mapAgents s (coOwn (.frag k f) (gs.map fun g => .frag k g))

/-- A debugger's command that is under way follows its target where the target goes (R341). -/
def followTarget (s : State) (who : AgentRef → AgentRef) : State :=
  { s with ctxs := s.ctxs.map fun c => c.map fun x => { x with dbg := { x.dbg with job := x.dbg.job.map who } } }

/-- Two fragments merge into the lower identity (R138); the merge is a release by each and an acquire by the result. A
halt or a step that was asked of one of them stays asked of the result, and an op that one of them resumes at matches no breakpoint
(R344, R346). -/
def mergePair (s : State) (k : CoreId) (f g : FragId) : State :=
  let lo := if f.val ≤ g.val then f else g
  let hi := if f.val ≤ g.val then g else f
  let c := coreAt s k
  match fragAt c lo, fragAt c hi with
  | some x, some y =>
    let c := setFrag c lo (some
      { x with mask := x.mask ||| y.mask, hz := max x.hz y.hz, score := x.score ++ y.score, seen := x.seen ++ y.seen,
               pub := x.pub ++ y.pub, step := x.step || y.step, resume := x.resume || y.resume, watch := x.watch || y.watch })
    let c := modWarp (setFrag c hi none) x.warp fun w =>
      { w with haltReq := (w.haltReq.map fun p => if p.1 == hi then (lo, p.2) else p).eraseDups }
    followTarget (mapAgents (setCore s k c) fun os => (coOwn (.frag k hi) [.frag k lo] os).erase (.frag k hi))
      fun a => if a = .frag k hi then .frag k lo else a
  | _, _ => s

/-- A fragment may merge: the CORE-scope release that a merge is has nothing to wait for (R198, R200). -/
def mergeFree (s : State) (k : CoreId) (f : FragId) : Bool := waitDone s (.frag k f) .core (owned s (.frag k f))

/-- Two fragments lie at one address and may merge there, whatever their states (R138). -/
def mergeSame (x y : Frag) : Bool := x.warp == y.warp && x.pc == y.pc && !x.flag && !y.flag

/-- The fragments of a list that lie at one address merge, but for flagged ones (R138, R139, R145). -/
def mergeAll (s : State) (k : CoreId) (fs : List FragId) : State :=
  fs.foldl (fun s f =>
    match fragAt (coreAt s k) f with
    | none => s
    | some x =>
      match fs.find? fun g => g.val < f.val && (fragAt (coreAt s k) g).any fun y => mergeSame x y && x.state == y.state with
      | some g => mergePair s k g f
      | none => s) s

/-- The fragments of a list that merge with another one of it have made the wait that the merge is (R200). -/
def mergesFree (s : State) (k : CoreId) (fs : List FragId) : Bool :=
  fs.all fun f => mergeFree s k f || !fs.any fun g => g != f &&
    (match fragAt (coreAt s k) f, fragAt (coreAt s k) g with | some x, some y => mergeSame x y | _, _ => false)

/-- The quadrant has selected a READY fragment: the others of its warp at its address that are READY, by `ready`, or in
FRAGW merge with it, and the result is READY. A merged FRAGW fragment's count starts anew (R137, R138; log entry 74). The
identity that is left. -/
def mergeSelected (s : State) (k : CoreId) (f : FragId) (ready : FragId → Bool) : State × FragId :=
  match fragAt (coreAt s k) f with
  | none => (s, f)
  | some x =>
    let with_ := (liveFrags (coreAt s k) x.warp).filter fun g => g != f && mergeFree s k g &&
      (fragAt (coreAt s k) g).any fun y => mergeSame x y && (match y.state with | .ready => ready g | .fragw .. => true | _ => false)
    if with_.isEmpty || !mergeFree s k f then (s, f)
    else with_.foldl (fun (p : State × FragId) g =>
      (mergePair (onFrag p.1 k g fun y => { y with state := .ready }) k p.2 g, if p.2.val ≤ g.val then p.2 else g)) (s, f)

/-! ## Barriers and CONV (R139, R143 to R145) -/

/-- CONV's release: every live fragment of the warp is in CONVW (R139), and those that merge have made the wait of their
merge (R200). -/
def convCheck (s : State) (k : CoreId) (w : WarpIx) : State :=
  let c := coreAt s k
  let fs := liveFrags c w
  let at_ := fun f => match fragAt c f with | some x => x.state == .convw | none => false
  if !fs.isEmpty && fs.all at_ && mergesFree s k fs then
    let s := fs.foldl (fun s f => onFrag s k f fun x => { x with state := .ready, pc := x.pc + 4 }) s
    mergeAll s k fs
  else s

/-- A warp place of a core belongs to a team and is present there. -/
def warpOf (c : Core) (t : Nat) (w : WarpIx) : Bool :=
  match warpAt c w with
  | some x => x.team == t && !x.gone
  | none => false

/-- The warps of a team where they run: core and place. -/
def teamWarpsAt (s : State) (tm : Team) : List (CoreId × WarpIx) :=
  allCores.flatMap fun k => (allWarps.filter (warpOf (coreAt s k) tm.id)).map fun w => (k, w)

/-- The strands of a team. -/
def teamStrandsAt (s : State) (tm : Team) : List (CoreId × StrandId) :=
  tm.cores.flatMap fun k => (allStrands.filter fun n =>
    match strandAt (coreAt s k) n with | some x => x.team == tm.id | none => false).map fun n => (k, n)

/-- A warp has arrived at a barrier: every live fragment is in BARW on it (R143); its count is that of the first
fragment to enter. -/
def warpArrival (c : Core) (w : WarpIx) (id : BitVec 4) : Option Byte :=
  let fs := (liveFrags c w).filterMap (fragAt c)
  let cs := fs.filterMap fun x => match x.state with | .barw i n t => if i = id then some (t, n) else none | _ => none
  if fs.isEmpty || cs.length ≠ fs.length then none
  else (cs.foldl (fun (b : Option (Nat × Byte)) p =>
      match b with | none => some p | some q => if p.1 < q.1 then some p else b) none).map (·.2)

/-- A warp is detached by migration, or has come back since the phase of a barrier opened (R144, R375). -/
def detached (s : State) (k : CoreId) (w : WarpIx) (id : BitVec 4) : Bool :=
  match warpAt (coreAt s k) w with
  | some x => x.away.isSome || x.uncounted.getLsbD id.toNat
  | none => false

/-- A strand's wait at a BAR or RDV changed, where it stands: the wait itself, a halt in it, or the rest of its bundle. -/
def mapWait (g : StrandState → StrandState) (x : Strand) : Strand :=
  { x with back := g x.back, state := match x.state with | .halted c st => .halted c (g st) | st => g st }

/-- A strand has arrived at a barrier: it waits there, or will when the rest of its bundle has issued (R143, R166, R348). -/
def atBar (x : Strand) (id : BitVec 4) : Bool :=
  (match x.state with | .halted _ st => st | st => st) == .bar id || x.back == .bar id

/-- A strand's wait at a BAR is over. -/
def leaveBar (id : BitVec 4) (x : Strand) : Strand := mapWait (fun st => if st = .bar id then .ready else st) x

/-- The unperformed accesses of some agents become those of all of them (R203). -/
def shareAll (s : State) (as : List AgentRef) : State :=
  let own := fun (os : List AgentRef) => if os.any as.contains then os ++ as.filter fun a => !os.contains a else os
  mapOwners s own

/-- A phase of a barrier ends: the warps that did not count in it count from now on (R144). -/
def countAgain (s : State) (tm : Team) (id : BitVec 4) : State :=
  (teamWarpsAt s tm).foldl (fun s p => onWarp s p.1 p.2 fun w => { w with uncounted := w.uncounted &&& ~~~(1#16 <<< id.toNat) }) s

/-- One barrier of a team: a first arrival opens its phase, and the phase releases when the arrivals reach the
expected count (R144, R145). `sn` is the count that an arriving strand carries. The release has CORE scope for a team of
one core and CLU scope otherwise, so the wait of R198 over every arriving member's accesses comes before it (R202). -/
def barrierCheck (s : State) (t : Nat) (id : BitVec 4) (sn : Byte) : State :=
  match teamAt s t with
  | none => s
  | some tm =>
    let ws := teamWarpsAt s tm
    let ss := teamStrandsAt s tm
    let wa := ws.filter fun p => !detached s p.1 p.2 id && (warpArrival (coreAt s p.1) p.2 id).isSome
    let sa := ss.filter fun p => (strandAt (coreAt s p.1) p.2).any fun x => atBar x id
    let b := tm.bars[id.toFin]
    if wa.isEmpty && sa.isEmpty then s
    else
      let n := if b.phase then b.n
        else match wa with
          | p :: _ => if sa.isEmpty then (warpArrival (coreAt s p.1) p.2 id).getD 0 else sn
          | [] => sn
      let det := ws.filter fun p => detached s p.1 p.2 id
      let e := if n = 0 then ws.length + ss.length - det.length else n.toNat - det.length
      let as := wa.flatMap (fun p => (liveFrags (coreAt s p.1) p.2).map fun f => AgentRef.frag p.1 f) ++
        sa.map fun p => AgentRef.strand p.1 p.2
      let sc := if tm.cores.length = 1 then Scope.core else .clu
      let sent := as.all fun a => waitDone s a sc (owned s a)
      if wa.length + sa.length ≥ e && sent then
        let s := countAgain (modTeam s t fun x => { x with bars := x.bars.set id.toFin { n := 0, phase := false } }) tm id
        -- the release is a release by every arriving member and an acquire by every released one (R145, R203)
        let hz := as.foldl (fun h a => max h (horizonOf s a)) 0
        let s := raiseHorizons s hz as
        let s := shareAll s as
        let s := wa.foldl (fun s p =>
          let fs := liveFrags (coreAt s p.1) p.2
          let s := fs.foldl (fun s f => onFrag s p.1 f fun x => { x with state := .ready, pc := x.pc + 4 }) s
          mergeAll s p.1 fs) s
        sa.foldl (fun s p => onStrand s p.1 p.2 (leaveBar id)) s
      else modTeam s t fun x => { x with bars := x.bars.set id.toFin { n := n, phase := true } }

/-- Every barrier of a team looked at again, after a member finished or left. -/
def barriersCheck (s : State) (t : Nat) : State :=
  (List.range 16).foldl (fun s i => barrierCheck s t (BitVec.ofNat 4 i) 0) s

/-! ## The end of agents (R140, R151, R155, R157) -/

/-- The holder code of an agent (R150). -/
def holderWarp (w : WarpIx) : BitVec 7 := BitVec.ofNat 7 (w.val % 64)
/-- The holder code of a strand (R146). -/
def holderStrand (n : StrandId) : BitVec 7 := BitVec.ofNat 7 (64 + n.val)

/-- HELD by h. -/
def ownHeld (h : BitVec 7) : BitVec 9 := 0b01#2 ++ h
/-- OFFERED to h. -/
def ownOffered (h : BitVec 7) : BitVec 9 := 0b10#2 ++ h
/-- FREE. -/
def ownFree : BitVec 9 := 0#9

/-- Tiles held by, or offered to, a finished holder become FREE (R151, R155). -/
def freeTiles (c : Core) (t : Nat) (h : BitVec 7) : Core :=
  let free := fun (y : Tile) => if y.owner = ownHeld h ∨ y.owner = ownOffered h then { y with owner := ownFree } else y
  modSeat c t fun x => { x with tiles := x.tiles.map free }

/-- Any warp or strand of a team still lives. -/
def teamAlive (s : State) (tm : Team) : Bool :=
  (allCores.any fun k => allWarps.any fun w =>
    match warpAt (coreAt s k) w with | some x => x.team == tm.id | none => false) || !(teamStrandsAt s tm).isEmpty

/-- Copy requests of a team are queued, or accepted and not complete. -/
def copiesLeft (s : State) (tm : Team) : Bool :=
  tm.cores.any fun k => (coreAt s k).copyQ.any (fun q => q.team == tm.id) || (coreAt s k).copies.any fun c => c.req.team == tm.id

/-- A copy request of a team has left its engine: after the last one, nothing is kept of a team that has ended (R157, R244; log
entry 12). -/
def copyOver (s : State) (t : Nat) : State :=
  match teamAt s t with
  | none => s
  | some tm =>
    if copiesLeft s tm then s
    else
      let s := tm.cores.foldl (fun s k =>
        if (coreAt s k).ended.isEmpty then s else modCore s k fun c => { c with ended := c.ended.filter fun x => x.team != t }) s
      let past := s.past.filter fun x => x.id != t
      { s with past := past, pastGrids := s.pastGrids.filter fun g => past.any fun x => x.grid == g.id }

/-- A team with no live agent releases its cores, and keeps its record (R157). Its copy requests complete; what they read and write
of its shared memory is kept for them alone (R244; log entry 12). -/
def teamRelease (s : State) (t : Nat) : State :=
  match teamAt s t with
  | none => s
  | some tm =>
    if tm.status == .placed && !teamAlive s tm then
      let left := copiesLeft s tm
      let s := tm.cores.foldl (fun s k => modCore s k fun c =>
        { c with seats := c.seats.filter fun x => x.team != t,
                 ended := if left then (c.seats.filter fun x => x.team == t) ++ c.ended else c.ended,
                 abandoned := c.abandoned.filter fun x => x.1 != t }) s
      modTeam s t fun x => { x with status := .record }
    else s

/-- The issuer of some requests has exited or retired: their records say so (R318). -/
def issuerGone (s : State) (k : CoreId) (mine : AgentRef → Option (CoreId × WarpIx) → Bool) : State :=
  let s := { s with reqs := s.reqs.map fun r => if mine r.who r.place then { r with gone := true } else r }
  let mark := fun (q : CopyReq) => if mine q.who q.place then { q with gone := true } else q
  if (coreAt s k).copyQ.isEmpty && (coreAt s k).copies.isEmpty then s
  else modCore s k fun c => { c with copyQ := c.copyQ.map mark, copies := c.copies.map fun x => { x with req := mark x.req } }

/-- A result's place without the lanes of a mask. -/
def voidDest (m : LaneMask) : Dest → Dest
  | .lane l r w sx => if laneIn m l then .none else .lane l r w sx
  | .row t y l w sx => if laneIn m l then .none else .row t y l w sx
  | d => d

/-- Results still in flight to lanes that exit write nothing visible (R164). -/
def dropResults (s : State) (k : CoreId) (w : WarpIx) (m : LaneMask) : State :=
  { s with reqs := s.reqs.map fun r =>
      if r.place == some (k, w) && !r.gone then
        match r.op with
        | .load keep acq d => { r with op := .load keep acq (voidDest m d) }
        | .cas w64 cmp new d => { r with op := .cas w64 cmp new (voidDest m d) }
        | .atomic op v parts rets => { r with op := .atomic op v parts (rets.map fun p => (voidDest m p.1, p.2)) }
        | _ => r
      else r }

/-- A fragment's entry is freed; what it has sent is still performed (R140, R164). -/
def freeFrag (s : State) (k : CoreId) (f : FragId) : State :=
  mapAgents (modCore s k fun c => setFrag c f none) fun os => os.erase (.frag k f)

/-- A warp with no live lane finishes (R140, R155, R375). A warp that has migrated holds no tile, but one may have been offered to it at
its origin while its MIGR waited (R151). -/
def finishWarp (s : State) (k : CoreId) (w : WarpIx) : State :=
  match warpAt (coreAt s k) w with
  | none => s
  | some x =>
    let s := issuerGone s k fun _ p => p == some (k, w)
    let s := modCore s k fun c => setWarp (if x.away.isSome then c else freeTiles c x.team (holderWarp w)) w none
    let s := match x.away with
      | some o => modCore s o.core fun c => setWarp (freeTiles c x.team (holderWarp o.ix)) o.ix none
      | none => s
    barriersCheck (teamRelease s x.team) x.team

/-- Lanes leave their fragment for good (R140, R164). -/
def exitLanes (s : State) (k : CoreId) (f : FragId) (m : LaneMask) : State :=
  match fragAt (coreAt s k) f with
  | none => s
  | some x =>
    let left := x.mask &&& ~~~m
    let t := match warpAt (coreAt s k) x.warp with | some y => y.team | none => 0
    let s := dropResults s k x.warp m
    let s := if left = 0#32 then freeFrag s k f else onFrag s k f fun y => { y with mask := left }
    if (liveFrags (coreAt s k) x.warp).isEmpty then finishWarp s k x.warp
    else barriersCheck (convCheck s k x.warp) t

/-- The front end passes on: the next ready strand after one bubble cycle (R147). -/
def switchStrand (c : Core) (n : StrandId) : Core :=
  let ok := fun m => match strandAt c m with | some x => x.state == .ready | none => false
  match ((List.range 8).map fun i => (Fin.ofNat 8 (n.val + 1 + i) : StrandId)).find? ok with
  | some m => { c with front := some m, bubble := c.cycle + 2 }
  | none => { c with front := none, lastFront := n }

/-- A strand has passed an RDV numbered n, or has ended: its waiters wait for it no more (R313). -/
def passRdv (s : State) (team : Nat) (k : CoreId) (n : StrandId) (num : Option (BitVec 16)) : State :=
  match teamAt s team with
  | none => s
  | some tm => (teamStrandsAt s tm).foldl (fun s p => onStrand s p.1 p.2 (mapWait fun st =>
      match st with
      | .rdv m bs => if num.all (· == m) then .rdv m (bs.erase (k, n)) else st
      | _ => st)) s

/-- A strand retires or is killed: its tiles become FREE and its place is free (R28, R155). -/
def finishStrand (s : State) (k : CoreId) (n : StrandId) : State :=
  match strandAt (coreAt s k) n with
  | none => s
  | some x =>
    let s := passRdv s x.team k n none
    let s := modCore s k fun c => setStrand (freeTiles c x.team (holderStrand n)) n none
    let s := modCore s k fun c => if c.front == some n then switchStrand c n else c
    let s := mapAgents (issuerGone s k fun a _ => a == .strand k n) fun os => os.erase (.strand k n)
    barriersCheck (teamRelease s x.team) x.team

/-! ## Taking a precise trap, and returning from it (R300 to R303) -/

/-- The error record of a precise trap of a fragment (R301, R318). -/
def warpRecord (s : State) (k : CoreId) (f : FragId) (x : Frag) (w : Warp) (t : TrapInfo) (esc : Bool) : State :=
  match teamAt s w.team with
  | none => s
  | some tm =>
    let slot := match w.away with | some o => o.ix.val | none => x.warp.val
    fileRecord s tm.ctx
      { cls := if esc then 0x1A else classCode t.cls, detail := if esc then classCode t.cls else 0,
        rdie := coreDie k, core := k, akind := 0, agent := slot, frag := f.val, precise := true,
        wisn := x.num, pc := tpcOf x.pc, addr := t.addr, synd := t.synd, team := teamReg tm,
        grid := match gridAt s tm.grid with | some g => g.number | none => 0 } .context (some (.frag k f)) (some (k, x.warp))

/-- The lanes of a mask changed. -/
def mapLanes (m : LaneMask) (g : Lane → LaneRegs → LaneRegs) (w : Warp) : Warp :=
  { w with lanes := w.lanes.mapFinIdx fun i r h => if laneIn m ⟨i, h⟩ then g ⟨i, h⟩ r else r }

/-- V44 to V47 and P1 to P7 of the lanes are banked (R300). -/
def bankLanes (m : LaneMask) : Warp → Warp :=
  mapLanes m fun _ r => { r with bankV := Vector.ofFn fun j : Fin 4 => r.v[44 + j.val], bankP := r.p }

/-- V44 to V47 and P1 to P7 of the lanes are restored from the bank (R302). -/
def unbankLanes (m : LaneMask) : Warp → Warp :=
  mapLanes m fun _ r =>
    { r with v := (((r.v.set 44 r.bankV[0]).set 45 r.bankV[1]).set 46 r.bankV[2]).set 47 r.bankV[3],
             p := (r.bankP &&& 0xFE#8) ||| (r.p &&& 1#8), poison := r.poison &&& 0x0FFFFFFFFFFF#48 }

/-- A warp's registers as the ops of the current cycle find them: a write of another fragment takes effect in a later cycle
(R52, R101, R183). -/
def atCycle (w : Warp) : Warp :=
  match w.now with
  | some c => { w with fpctl := c.fpctl, fpstat := c.fpstat, tbase := c.tbase, sel := c.sel }
  | none => w

/-- A precise trap in a warp fragment: the handler is entered, or the lanes exit with a record (R300, R301). -/
def warpTrap (s : State) (k : CoreId) (f : FragId) (t : TrapInfo) : State :=
  match fragAt (coreAt s k) f with
  | none => s
  | some x =>
    match warpAt (coreAt s k) x.warp with
    | none => s
    | some w =>
      let base := (atCycle w).tbase
      if x.flag || base = 0#64 then
        exitLanes (warpRecord s k f x w t x.flag) k f x.mask
      else
        let s := onWarp s k x.warp (bankLanes x.mask)
        onFrag s k f fun y =>
          { y with trap := trapRegsOf t (tpcOf x.pc), flag := true, state := .ready, resume := false,
                   pc := base + BitVec.ofNat 64 (64 * classCode t.cls) }

/-- RFT's return: the banked registers are restored, the flag is cleared, and the fragment goes to the op that TPC
names, or past it (R302). -/
def trapReturn (s : State) (k : CoreId) (f : FragId) (x : Frag) (skip : Nat) : State :=
  let s := onWarp s k x.warp (unbankLanes x.mask)
  onFrag s k f fun y => { y with flag := false, pc := tpcAddr x.trap.pc + BitVec.ofNat 64 skip }

/-! ## Stops of a strand (R306, R308) -/

/-- A slot's precise trap is noted; the bundle's end applies it (R33, R306). -/
def slotFault (s : State) (k : CoreId) (n : StrandId) (slot : Slot) (t : TrapInfo) : State :=
  onStrand s k n fun x => { x with fx := { x.fx with faults := x.fx.faults ++ [(slot, t)] } }

/-- The bundle at PC waits; nothing of it is done (R22). -/
def slotStall (s : State) (k : CoreId) (n : StrandId) (r : Stall) : State :=
  onStrand s k n fun x => { x with fx := { x.fx with stall := some (x.fx.stall.getD r) } }

/-- The record of a strand's stop, and the save of its team (R308). -/
def strandRecord (s : State) (k : CoreId) (n : StrandId) (cls : Nat) (precise : Bool) (tr : TrapRegs) (b : Nat) : State :=
  match strandAt (coreAt s k) n with
  | none => s
  | some x =>
    match teamAt s x.team with
    | none => s
    | some tm =>
      beginSave (fileRecord s tm.ctx
        { cls := cls, rdie := coreDie k, core := k, akind := 1, agent := 64 + n.val, precise := precise,
          wisn := BitVec.ofNat 64 b, pc := tr.pc, addr := tr.addr, synd := tr.synd,
          team := teamReg tm, grid := match gridAt s tm.grid with | some g => g.number | none => 0 }
        (if precise then .context else .never) (some (.strand k n)) none) x.team

end Sys2Proof.Machine
end

