-- ==== Sys2Proof/Machine/Uses.lean ====
section
/-! DEFINITION. The registers that an op reads and writes, in each stream: what the interlocks of R22, R141 and R162
wait for. -/

namespace Sys2Proof.Machine

/-- The registers of an op: V or Y registers in a warp, S registers in a strand. -/
structure Uses where
  srcs : List Reg := []
  dsts : List Reg := []
  psrc : List Pred := []
  pdst : List Pred := []
  deriving DecidableEq, Repr, Inhabited

/-- A register pair of a warp, one register of a strand (R60). -/
def pairOf (warp : Bool) (r : Reg) : List Reg := if warp then [r, r + 1] else [r]

/-- The registers that hold a value of a width (R220). -/
def widthRegs (warp : Bool) (r : Reg) (w : Width) : List Reg :=
  match w with
  | .b8 | .b16 | .b32 => [r]
  | .b64 => pairOf warp r
  | .b128 => if warp then [r, r + 1, r + 2, r + 3] else [r, r + 1]

/-- The registers of an atomic's operand or result (R230). -/
def atomRegs (warp : Bool) (r : Reg) (op : AtomOp) : List Reg :=
  match op with
  | .add64 => pairOf warp r
  | _ => [r]

/-- The link registers: V46:V47, or S62 (R95). -/
def linkRegs (warp : Bool) : List Reg := if warp then [46, 47] else [62]

/-- A register that only a strand reads there: a warp names it in another way. -/
def strandReg (warp : Bool) (r : Reg) : List Reg := if warp then [] else [r]
/-- A register that only a warp reads there. -/
def warpReg (warp : Bool) (r : Reg) : List Reg := if warp then [r] else []

/-- The registers an op reads and writes. Steps that no op word names have none. -/
def usesOf (warp : Bool) : Instr → Uses
  | .nop _ | .yield _ | .endOp _ | .exit _ | .segb _ | .brk _ _ | .conv _ | .irrev _ | .kpt _ | .rft _ | .rftNext _
  | .bra _ _ | .trap _ _ | .rdv _ _ | .bar _ _ _ | .fence _ _ | .tfence _ _ => {}
  | .nxt _ _ => {}
  | .call _ _ => { dsts := linkRegs warp }
  | .loop _ d _ => { srcs := [d] }
  | .brx _ a => { srcs := pairOf warp a }
  | .callx _ a => { srcs := pairOf warp a, dsts := linkRegs warp }
  | .ret _ => { srcs := linkRegs warp }
  | .add _ d a b | .sub _ d a b | .mul _ d a b | .mulh _ d a b | .mulhn _ d a b | .min _ d a b | .max _ d a b
  | .minn _ d a b | .maxn _ d a b | .and _ d a b | .or _ d a b | .xor _ d a b | .andn _ d a b | .shl _ d a b
  | .shr _ d a b | .sar _ d a b | .rotl _ d a b | .bfe _ d a b => { srcs := [a, b], dsts := [d] }
  | .sel g d a b => { srcs := [a, b], dsts := [d], psrc := [g.pr] }
  | .mac _ d a b | .bfi _ d a b => { srcs := [a, b, d], dsts := [d] }
  | .mov _ d a | .popc _ d a | .clz _ d a | .brev _ d a | .abs _ d a | .neg _ d a => { srcs := [a], dsts := [d] }
  | .mulw _ d a b => { srcs := [a, b], dsts := pairOf warp d }
  | .lea _ d a b _ => { srcs := pairOf warp a ++ [b], dsts := pairOf warp d }
  | .addi _ d a _ | .andi _ d a _ | .ori _ d a _ | .xori _ d a _ | .shli _ d a _ | .shri _ d a _ | .sari _ d a _ =>
    { srcs := [a], dsts := [d] }
  | .movi _ d _ | .limm _ d _ _ => { dsts := [d] }
  | .movh _ d _ => { srcs := [d], dsts := [d] }
  | .cmp _ pd _ a b | .cmp64 _ pd _ a b => { srcs := [a, b], pdst := [pd] }
  | .cmpi _ pd _ a _ => { srcs := [a], pdst := [pd] }
  | .pand _ pd pa pb | .por _ pd pa pb | .pxor _ pd pa pb | .pandn _ pd pa pb => { psrc := [pa, pb], pdst := [pd] }
  | .fadd _ d a b | .fsub _ d a b | .fmul _ d a b | .fmin _ d a b | .fmax _ d a b | .fcps _ d a b =>
    { srcs := [a, b], dsts := [d] }
  | .fabs _ d a | .fneg _ d a => { srcs := [a], dsts := [d] }
  | .ffma _ d a b _ => { srcs := [a, b, d], dsts := [d] }
  | .fcmp _ pd _ a b _ => { srcs := [a, b], pdst := [pd] }
  | .padd2 _ d a b _ | .psub2 _ d a b _ | .pmul2 _ d a b _ | .pmax2 _ d a b _ | .pmin2 _ d a b _ =>
    { srcs := [a, b], dsts := [d] }
  | .pfma2 _ d a b _ => { srcs := [a, b, d], dsts := [d] }
  | .xexp2 _ d a | .xlog2 _ d a | .xrcp _ d a | .xrsq _ d a | .xsqrt _ d a | .xtanh _ d a | .xsin _ d a | .xcos _ d a =>
    { srcs := [a], dsts := [d] }
  | .cvtf _ d a k _ => { srcs := match k with | .bfF32 | .hfF32 => [a, d] | .f32Bf | .f32Hf => [a], dsts := [d] }
  | .cvti _ d a _ _ => { srcs := [a], dsts := [d] }
  | .cvtn _ d a b => { srcs := (if a.getLsbD 0 then [a] else [a, a + 1]) ++ [b, b + 1], dsts := [d] }
  | .pack2 _ d a b => { srcs := [a, b], dsts := [d] }
  | .unpk2 _ d a _ => { srcs := [a], dsts := [d, d + 1] }
  | .voteAny _ pd pa | .voteAll _ pd pa => { psrc := [pa], pdst := [pd] }
  | .voteBal _ d pa => { psrc := [pa], dsts := [d] }
  | .shflIdx _ d a b | .shflUp _ d a b | .shflDn _ d a b | .shflXor _ d a b => { srcs := [a, b], dsts := [d] }
  | .srd _ d _ => { dsts := [d] }
  | .swr _ d _ => { srcs := [d] }
  | .give _ a b => { srcs := warpReg warp a ++ [b] }
  | .take _ a => { srcs := warpReg warp a }
  | .ttry _ pd a => { srcs := warpReg warp a, pdst := [pd] }
  | .tsel _ a => { srcs := warpReg warp a }
  | .town _ d a => { srcs := warpReg warp a, dsts := [d] }
  | .ld _ d a _ _ w _ | .ldo _ d a _ _ w _ _ => { srcs := pairOf warp a, dsts := widthRegs warp d w }
  | .st _ d a _ _ w | .sto _ d a _ _ w _ => { srcs := pairOf warp a ++ widthRegs warp d w }
  | .atom _ d a b op => { srcs := pairOf warp a ++ atomRegs warp b op, dsts := atomRegs warp d op }
  | .atcas _ d a b w64 =>
    let v := fun r => if w64 then pairOf warp r else [r]
    { srcs := pairOf warp a ++ v b ++ v d, dsts := v d }
  | .red _ a b op => { srcs := pairOf warp a ++ atomRegs warp b op }
  | .pft _ a | .await _ a | .cpk _ a | .rrel _ a => { srcs := pairOf warp a }
  | .pclr _ a b => { srcs := pairOf warp a ++ [b] }
  | .racq _ d a | .rpek _ d a => { srcs := pairOf warp a, dsts := pairOf warp d }
  | .racqTry _ d a p | .rpekTry _ d a p => { srcs := pairOf warp a, dsts := pairOf warp d, pdst := [p] }
  | .rcmt _ a b => { srcs := pairOf warp a ++ pairOf warp b }
  | .launch _ d a => { srcs := pairOf warp a, dsts := [d] }
  | .jnew _ d a b => { srcs := pairOf warp a ++ pairOf warp b, dsts := [d] }
  | .jarr _ d => { dsts := [d] }
  | .jwait _ d a | .jqry _ d a _ => { srcs := pairOf warp a, dsts := pairOf warp d }
  | .migr _ pd a => { srcs := pairOf warp a, pdst := [pd] }
  | .mhome _ d a => { srcs := pairOf warp a, dsts := [d] }
  | .mma _ _ _ _ _ | .mmaz _ _ _ _ _ => {}
  | .mmar _ _ a _ _ => { srcs := [a] }
  | .mxc _ a => { srcs := [a] }
  | .tadd _ _ _ _ | .tsub _ _ _ _ | .tmul _ _ _ _ | .tfma _ _ _ _ | .tmax _ _ _ _ | .tmin _ _ _ _ | .tsclr _ _ _ _
  | .tsclc _ _ _ _ | .tcpy _ _ _ => {}
  | .tfill _ _ a => { srcs := [a] }
  | .tmsk _ _ _ b | .tcvt _ _ _ b => { srcs := [b] }
  | .trmax _ _ _ | .trsum _ _ _ | .tcmax _ _ _ | .tcsum _ _ _ | .ttrn _ _ _ | .tbcr _ _ _ | .tbcc _ _ _
  | .sexp2 _ _ _ | .slog2 _ _ _ | .srcp _ _ _ | .srsq _ _ _ | .stanh _ _ _ => {}
  | .tld _ _ a b _ m | .tst _ _ a b _ m => { srcs := match m with | .cont => [a] | .rows | .cols => [a, b] }
  | .nullifierSkip .. | .resultLanding .. | .loadReply .. | .fragxTimeout .. | .takeComplete .. | .rdvRelease ..
  | .homeFill .. | .homeWrite .. | .homeAtomic .. | .lineEviction .. | .releaseSend .. | .fenceComplete ..
  | .tokenRefill | .tokenSend .. | .pageWalk .. | .pagerFill .. | .pagerPoolTimeout .. | .presenceResume ..
  | .kick .. | .copyAccept .. | .arrivalWordUpdate .. | .presenceSet .. | .commitOnArrival .. | .awaitWake ..
  | .ringWake .. | .teamPlace .. | .eventPoll .. | .teamRetire .. | .gridRetireSignal .. | .spillTimeout ..
  | .joinDeadlineFlush .. | .joinRelease .. | .jwaitWake .. | .migrationLanding .. | .landingSlotTimeout ..
  | .preemptChoice .. | .drainTimeout .. | .teamSave .. | .stallSample .. | .samplerEnable .. | .samplerDisable ..
  | .stippleEnable .. | .stopall .. | .resumeall .. | .dbgHalt .. | .dbgResume .. | .dbgStep .. | .dbgStepb ..
  | .dbgUnknownCommand .. | .registerWrite .. | .doorbell .. | .windowWrite .. | .inboundDataSend .. | .windowRead ..
  | .ctxcreate .. | .ctxstop .. | .ctxresume .. | .ctxdestroy .. | .qreg .. | .qunreg .. | .spillclr ..
  | .dbggrant .. | .dbgrevoke .. | .flagclr .. | .resync .. | .attest .. | .stage .. | .restrike .. | .tlbinv ..
  | .imagePlaceReady .. | .imageAlive .. | .restrikeTimeout .. | .placementFallback .. | .powerOn
  | .selftestComplete .. | .fwloadComplete .. | .linkComplete .. | .frequencyChange .. | .illop ..
  | .savedTeamRestore .. | .unitStallEnd .. | .instructionFetchArrival .. | .peerInboundRequest .. | .peerRefusal ..
  | .unknownHostCommand .. => {}

/-- The op issues memory accesses that later accesses of its agent are ordered with (R226, R227). -/
def isMemory : Instr → Bool
  | .ld .. | .st .. | .ldo .. | .sto .. | .atom .. | .atcas .. | .red .. | .fence .. | .tfence .. | .pft .. | .pclr ..
  | .await .. | .cpk .. | .racq .. | .racqTry .. | .rcmt .. | .rpek .. | .rpekTry .. | .rrel .. | .launch .. | .jnew ..
  | .jarr .. | .jwait .. | .jqry .. | .tld .. | .tst .. | .cvtn .. | .tcvt .. | .mmar .. => true
  | _ => false

end Sys2Proof.Machine
end

