-- ==== Sys2Proof/Machine/Operands.lean ====
section
/-! DEFINITION. How an op is issued and how its operands are read and written: the participating lanes of a warp op
(R159 to R162), the bundle-start view of a strand (R15, R19), and the combinators that the meanings are written in. -/

namespace Sys2Proof.Machine

/-! ## Tiles as bytes and elements (R8, R43) -/

/-- `n` bits of a tile from bit `lo`. -/
def tileBits (d : TileData) (lo n : Nat) : Nat := d.toNat / 2 ^ lo % 2 ^ n

/-- The tile with `n` bits from bit `lo` replaced. -/
def tileSetBits (d : TileData) (lo n v : Nat) : TileData :=
  BitVec.ofNat 16384 (d.toNat - tileBits d lo n * 2 ^ lo + v % 2 ^ n * 2 ^ lo)

/-- A lane's word of a row (R161). -/
def tileWord (d : TileData) (row : Nat) (l : Lane) : W32 := BitVec.ofNat 32 (tileBits d (1024 * row + 32 * l.val) 32)

/-- A lane's word of a row replaced. -/
def tileSetWord (d : TileData) (row : Nat) (l : Lane) (v : W32) : TileData :=
  tileSetBits d (1024 * row + 32 * l.val) 32 v.toNat

/-- Bytes of a tile. -/
def tileBytes (d : TileData) (off n : Nat) : List Byte := bytesLE n (tileBits d (8 * off) (8 * n))

/-- Bytes put into a tile. -/
def tilePut (d : TileData) (off : Nat) (bs : List Byte) : TileData :=
  tileSetBits d (8 * off) (8 * bs.length) (natLE bs)

/-- A tile of consecutive elements of `w` bits. -/
def tileOfElems (w : Nat) (es : List Nat) : TileData :=
  BitVec.ofNat 16384 (es.foldr (fun e acc => acc * 2 ^ w + e % 2 ^ w) 0)

/-- A team tile on a core. -/
def tileAt (c : Core) (team t : Nat) : Option Tile :=
  match seatAt c team with
  | some x => x.tiles[t]?
  | none => none

/-- A team tile changed. -/
def modTile (c : Core) (team t : Nat) (g : Tile → Tile) : Core :=
  modSeat c team fun x => { x with tiles := x.tiles.modify t g }

/-! ## Warps -/

/-- What the issue of a warp op has at hand; `w` and `x` are as they stood before the issue. -/
structure WarpEnv where
  i : Instr
  k : CoreId
  f : FragId
  x : Frag
  w : Warp
  parts : LaneMask
  /-- The tile its window selects, if the team has it (R161). -/
  tile : Option (Nat × Tile)

/-- The length in bytes of a warp op. -/
def opLen (i : Instr) : W64 := if i.isLong then 8 else 4

/-- The lanes whose guard reads true (R159). -/
def partsOf (w : Warp) (m : LaneMask) (g : Guard) : LaneMask :=
  maskOf fun l => laneIn m l && guardOn g w.lanes[l].p

/-- The tile a warp's window selects. -/
def selTile (c : Core) (w : Warp) : Option (Nat × Tile) :=
  match (atCycle w).sel with
  | some t => (tileAt c w.team t).map fun x => (t, x)
  | none => none

/-- The next op of the fragment follows this one. -/
def warpAdvance (s : State) (e : WarpEnv) : State := onFrag s e.k e.f fun x => { x with pc := x.pc + opLen e.i }

/-- The op traps. -/
def warpFault (s : State) (e : WarpEnv) (t : TrapInfo) : Out := .next (warpTrap s e.k e.f t)

/-- A warp op issues (R25, R159, R299): it is counted, decoded for its stream, and runs when a lane participates. -/
def issueWarp (i : Instr) (g : Guard) (k : CoreId) (f : FragId) (s : State) (body : WarpEnv → State → Out) : Out :=
  match fragAt (coreAt s k) f with
  | none => .refused .noIssuer
  | some x =>
    match warpAt (coreAt s k) x.warp with
    | none => .refused .noIssuer
    | some w =>
      let parts := partsOf w x.mask g
      let e : WarpEnv := { i := i, k := k, f := f, x := x, w := atCycle w, parts := parts, tile := selTile (coreAt s k) w }
      let s := onFrag (onWarp s k x.warp fun w => { w with wisn := w.wisn + 1 }) k f fun x => { x with num := w.wisn }
      if i.wf .warp = false then warpFault s e (trapIllop i.encode 8)
      else if parts = 0#32 then .next (warpAdvance s e)
      else body e s

/-- A register field names a row of the tile window (R59). -/
def isY (r : Reg) : Bool := 48 ≤ r.toNat

/-- A lane's register (R59, R161). -/
def readReg (e : WarpEnv) (l : Lane) (r : Reg) : W32 :=
  if h : r.toNat < 48 then e.w.lanes[l].v[r.toNat]
  else match e.tile with
    | some (_, t) => tileWord t.data (r.toNat - 48) l
    | none => 0

/-- A lane's register pair (R60). -/
def readPair (e : WarpEnv) (l : Lane) (r : Reg) : W64 := readReg e l (r + 1) ++ readReg e l r

/-- The owner field that an OWN trap of the window reports (R161, R185). -/
def windowField (e : WarpEnv) : BitVec 9 :=
  if e.w.away.isSome then 0 else match e.tile with | some (_, t) => t.owner | none => 0

/-- The window's tile is held by the warp (R161). -/
def windowHeld (e : WarpEnv) : Bool :=
  e.w.away.isNone && (match e.tile with | some (_, t) => t.owner == ownHeld (holderWarp e.x.warp) | none => false)

/-- OWN of the window, when one of the registers is a Y register that the warp may not use (R161). -/
def windowTrap (e : WarpEnv) (rs : List Reg) : Option TrapInfo :=
  if rs.any isY && !windowHeld e then some (trapOwn (e.tile.elim 0 (·.1)) (windowField e) 8) else none

/-- A lane's source register is poisoned (R304). -/
def poisoned (e : WarpEnv) (l : Lane) (r : Reg) : Bool :=
  if r.toNat < 48 then e.w.lanes[l].poison.getLsbD r.toNat
  else match e.tile with | some (_, t) => t.poison | none => false

/-- The unit that detected the error of a lane's poisoned register (R297, R304). -/
def poisonUnit (e : WarpEnv) (l : Lane) (r : Reg) : Nat :=
  if r.toNat < 48 then (e.w.lanes[l].punit.extractLsb' (4 * r.toNat) 4).toNat
  else e.tile.elim 13 (·.2.unit)

/-- TCOORD of a marked tile: its number, and the marked columns and rows (R297). -/
def tileCoord (t : Nat) (x : Tile) : W64 := 0#7 ++ BitVec.ofNat 9 t ++ x.spot

/-- SEH of consumed poison: the consuming lanes, the unit that detected the error, and the tile when it is the
window's (R297, R298, R304). -/
def sehPoison (e : WarpEnv) (m : LaneMask) (rs : List Reg) : TrapInfo :=
  let l := leadLane m
  let r := rs.find? (poisoned e l)
  let coord := match r, e.tile with
    | some r, some (t, y) => if isY r then tileCoord t y else 0
    | _, _ => 0
  { cls := .seh, code := 1, synd := (1#1 ++ 0#31 : W32) ++ m, unit := (r.map (poisonUnit e l)).getD 13, coord := coord }

/-- SEH of the lanes that read a poisoned register, or reach a poisoned tile through Y registers (R298, R304). -/
def poisonTrap (e : WarpEnv) (srcs dsts : List Reg) : Option TrapInfo :=
  let rs := srcs ++ dsts.filter isY
  let m := maskOf fun l => laneIn e.parts l && rs.any (poisoned e l)
  if m = 0#32 then none else some (sehPoison e m rs)

/-- What one lane of an op writes. -/
structure LaneRes where
  regs : List (Reg × W32) := []
  preds : List (Pred × Bool) := []
  flags : BitVec 5 := 0

/-- A lane's V registers and predicates after its writes; a written register is no longer poisoned (R304). -/
def laneWrite (r : LaneRegs) (q : LaneRes) : LaneRegs :=
  let r := q.regs.foldl (fun (r : LaneRegs) p =>
    if h : p.1.toNat < 48 then
      { r with v := r.v.set p.1.toNat p.2, poison := r.poison &&& ~~~(1#48 <<< p.1.toNat) } else r) r
  { r with p := q.preds.foldl (fun b p => predSet b p.1 p.2) r.p }

/-- The tile's bytes after the lanes' writes to Y registers. -/
def tileWrites (m : LaneMask) (res : Lane → LaneRes) (d : TileData) : TileData :=
  (allLanes.filter (laneIn m)).foldl (fun d l => (res l).regs.foldl (fun d p =>
    if isY p.1 then tileSetWord d (p.1.toNat - 48) l p.2 else d) d) d

/-- The flags of the participating lanes, ORed (R53). -/
def laneFlags (m : LaneMask) (res : Lane → LaneRes) : BitVec 5 :=
  (allLanes.filter (laneIn m)).foldl (fun fl l => fl ||| (res l).flags) 0

/-- Flags are ORed into FPSTAT, and are remembered for an SWR of the same cycle (R52, R101). -/
def raiseFlags (fl : BitVec 5) (w : Warp) : Warp :=
  { w with fpstat := w.fpstat ||| (0#27 ++ fl), now := w.now.map fun c => { c with flags := c.flags ||| fl } }

/-- The lanes of a mask receive their results; FPSTAT takes the flags (R52, R159, R161). -/
def writeLanes (s : State) (k : CoreId) (w : WarpIx) (m : LaneMask) (lat : Nat) (res : Lane → LaneRes) : State :=
  let c := coreAt s k
  match warpAt c w with
  | none => s
  | some x =>
    let c := modWarp c w fun y => mapLanes m (fun l r => laneWrite r (res l)) (raiseFlags (laneFlags m res) y)
    let usesY := (allLanes.filter (laneIn m)).any fun l => (res l).regs.any fun p => isY p.1
    let c := match (atCycle x).sel with
      | some t => if usesY then modTile c x.team t fun y =>
          { y with data := tileWrites m res y.data, arrive := max y.arrive (c.cycle + lat) } else c
      | none => c
    setCore s k c

/-- The scoreboard entries of written registers and predicates (R162). -/
def scoreKeys (rs : List Reg) (ps : List Pred) (at_ : Nat) : List (Nat × Nat) :=
  (rs.map fun r => (r.toNat, at_)) ++ ps.map fun p => (64 + p.toNat, at_)

/-- Results become usable by the fragment's later ops at a cycle (R162). -/
def setScore (s : State) (k : CoreId) (f : FragId) (rs : List Reg) (ps : List Pred) (lat : Nat) : State :=
  let now := (coreAt s k).cycle
  onFrag s k f fun x =>
    { x with score := scoreKeys rs ps (now + lat) ++ x.score.filter fun q => now < q.2 }

/-- A per-lane op: ownership of the window, poison, then every participating lane's result (R159, R161, R304). -/
def perLane (e : WarpEnv) (s : State) (srcs dsts : List Reg) (pds : List Pred) (lat : Nat) (res : Lane → LaneRes) : Out :=
  match windowTrap e (srcs ++ dsts) with
  | some t => warpFault s e t
  | none =>
    match poisonTrap e srcs dsts with
    | some t => warpFault s e t
    | none =>
      let s := writeLanes s e.k e.x.warp e.parts lat res
      .next (warpAdvance (setScore s e.k e.f dsts pds lat) e)

/-! ## Strands -/

/-- What the issue of a strand's slot has at hand; `st` is the strand at bundle start (R15). -/
structure StrandEnv where
  i : Instr
  k : CoreId
  n : StrandId
  slot : Slot
  st : Strand
  c : Core
  rep : Option Replay

/-- The core as it stood at bundle start. -/
def startCore (s : State) (k : CoreId) : Core := s.start.getD (coreAt s k)

/-- The last pending write of a destination that is visible at a bundle clock (R19). -/
def pendLast {α : Type} (ps : List Pend) (clock : Nat) (pick : PendDst → Option α) : Option α :=
  ps.foldl (fun acc p => if p.due ≤ clock then (match pick p.dst with | some v => some v | none => acc) else acc) none

/-- An S register as a bundle reads it (R19). -/
def viewS (st : Strand) (r : Reg) : W64 :=
  (pendLast st.pend st.clock fun d => match d with | .sreg q v => if q = r then some v else none | _ => none).getD
    st.s[r.toFin]

/-- A predicate as a bundle reads it. -/
def viewP (st : Strand) (i : Pred) : Bool :=
  i == 0#3 || (pendLast st.pend st.clock fun d => match d with | .pred q v => if q = i then some v else none | _ => none).getD
    (st.p.getLsbD i.toNat)

/-- TWB as a bundle reads it (R10). -/
def viewTwb (st : Strand) : BitVec 9 :=
  (pendLast st.pend st.clock fun d => match d with | .twb v => some v | _ => none).getD st.twb

/-- MXCFG as a bundle reads it (R108). -/
def viewMxcfg (st : Strand) : W64 :=
  (pendLast st.pend st.clock fun d => match d with | .mxcfg v => some v | _ => none).getD st.mxcfg

/-- A guard as a bundle reads it (R24). -/
def viewGuard (st : Strand) (g : Guard) : Bool := viewP st g.pr != g.neg

/-- A pending result put in its place: by due bundle clock, then by issue (R19). -/
def pendInsert (p : Pend) : List Pend → List Pend
  | [] => [p]
  | q :: ps => if q.due ≤ p.due then q :: pendInsert p ps else p :: q :: ps

/-- A slot issues a fixed-latency result (R18). -/
def pendAdd (s : State) (e : StrandEnv) (lat : Nat) (dst : PendDst) : State :=
  let p : Pend := { due := e.st.clock + lat, arrive := e.c.cycle + lat, pc := tpcSlot e.st.pc e.slot, dst := dst }
  onStrand s e.k e.n fun st => { st with pend := pendInsert p st.pend }

/-- The slot traps. -/
def strandFault (s : State) (e : StrandEnv) (t : TrapInfo) : Out :=
  .next (slotFault s e.k e.n e.slot { t with unit := if t.unit = 8 then e.slot.val else t.unit })

/-- The bundle waits. -/
def strandStall (s : State) (e : StrandEnv) (r : Stall) : Out := .next (slotStall s e.k e.n r)

/-- A strand consumes poison: it rewinds its open segment, and otherwise the slot stops it with SEH (R312). -/
def strandPoison (s : State) (e : StrandEnv) (t : TrapInfo) : Out :=
  if e.st.segOpen then .next (onStrand s e.k e.n fun x =>
    { x with fx := { x.fx with rewind := true, rewinder := if x.fx.rewind then x.fx.rewinder else e.slot } })
  else strandFault s e t

/-- SEH of a poisoned register, shared line or tile in a strand (R298). -/
def poisonInfo (unit : Nat) (coord : W64) : TrapInfo :=
  { cls := .seh, code := 1, synd := 0x8000000000000001#64, unit := unit, coord := coord }

/-- SEL's G field is no guard: the op always executes (R25, R84). -/
def guardless : Instr → Bool
  | .sel .. => true
  | _ => false

/-- PFT drops a poisoned address and never faults beyond decode (R236). -/
def dropsPoison : Instr → Bool
  | .pft .. => true
  | _ => false

/-- A slot of a strand's bundle issues (R25): a guarded-off slot does nothing, and a poisoned source register is
consumed (R312). -/
def issueStrand (i : Instr) (g : Guard) (k : CoreId) (n : StrandId) (slot : Slot) (s : State)
    (body : StrandEnv → State → Out) : Out :=
  let c := startCore s k
  match strandAt c n with
  | none => .refused .noIssuer
  | some st =>
    let rep := st.replay[slot]
    let e : StrandEnv := { i := i, k := k, n := n, slot := slot, st := st, c := c, rep := rep }
    if i.wf (.slot slot) = false then strandFault s e (trapIllop i.encode slot.val)
    else if !guardless i && (match rep with | some r => r.g | none => viewGuard st g) = false then .next s
    else if !dropsPoison i && (usesOf false i).srcs.any fun r => st.poison.getLsbD r.toNat then strandPoison s e (poisonInfo 9 0)
    else body e s

/-- The A operand: from the replay record of a slot that was not done (R307). -/
def opA (e : StrandEnv) (r : Reg) : W64 := match e.rep with | some q => q.a | none => viewS e.st r
/-- The B operand. -/
def opB (e : StrandEnv) (r : Reg) : W64 := match e.rep with | some q => q.b | none => viewS e.st r
/-- The D operand, of an op that reads D. -/
def opD (e : StrandEnv) (r : Reg) : W64 := match e.rep with | some q => q.d | none => viewS e.st r
/-- The register after D, of a 128-bit store. -/
def opE (e : StrandEnv) (r : Reg) : W64 := match e.rep with | some q => q.e | none => viewS e.st (r + 1)

/-- A predicate operand: bit 0 of its word in the replay record of a slot that was not done (R306, R307). -/
def opPred (e : StrandEnv) (word : Replay → W64) (p : Pred) : Bool :=
  match e.rep with | some q => (word q).getLsbD 0 | none => viewP e.st p

/-- The predicate that SEL's G field selects by. -/
def opGuard (e : StrandEnv) (g : Guard) : Bool := match e.rep with | some q => q.g | none => viewGuard e.st g

/-! ## Ops of both streams -/

/-- An op issued by whoever issues: a warp's body, or a strand slot's. -/
def asOp (i : Instr) (g : Guard) (s : State) (wb : WarpEnv → State → Out) (sb : StrandEnv → State → Out) : Out :=
  match s.issuer with
  | .none => .refused .noIssuer
  | .frag k f => issueWarp i g k f s wb
  | .strand k n slot => issueStrand i g k n slot s sb

/-- The body of an op that its stream never accepts: `asOp` has raised ILLOP before it. -/
def noBody {α : Type} (_ : α) (s : State) : Out := .next s

/-- An op that only warps execute. -/
def warpOp (i : Instr) (g : Guard) (s : State) (wb : WarpEnv → State → Out) : Out := asOp i g s wb noBody
/-- An op that only strands execute. -/
def strandOp (i : Instr) (g : Guard) (s : State) (sb : StrandEnv → State → Out) : Out := asOp i g s noBody sb

/-- The guard that always holds: SEL's G field is no guard (R84). -/
def always : Guard := ⟨false, 0#3⟩

/-- An integer op of both streams on w-bit values A, B and D (R78, R79): 32 bits in a lane, 64 in a strand. -/
def alu (i : Instr) (g : Guard) (d a b : Reg) (srcs : List Reg) (s : State)
    (f : (w : Nat) → BitVec w → BitVec w → BitVec w → BitVec w) : Out :=
  asOp i g s
    (fun e s => perLane e s srcs [d] [] 2 fun l =>
      { regs := [(d, f 32 (readReg e l a) (readReg e l b) (readReg e l d))] })
    (fun e s => .next (pendAdd s e 1 (.sreg d (f 64 (opA e a) (opB e b) (opD e d)))))

/-- A comparison of both streams (R92). -/
def aluCmp (i : Instr) (g : Guard) (pd : Pred) (a b : Reg) (srcs : List Reg) (s : State)
    (f32 : W32 → W32 → Bool) (f64 : W64 → W64 → Bool) : Out :=
  asOp i g s
    (fun e s => perLane e s srcs [] [pd] 2 fun l => { preds := [(pd, f32 (readReg e l a) (readReg e l b))] })
    (fun e s => .next (pendAdd s e 1 (.pred pd (f64 (opA e a) (opB e b)))))

/-- An FP32 op of a warp on A, B and D under a rounding mode (R167, R168). -/
def fpu (i : Instr) (g : Guard) (d a b : Reg) (srcs : List Reg) (s : State)
    (f : Rnd → Nat → Nat → Nat → Nat × BitVec 5) : Out :=
  warpOp i g s fun e s => perLane e s srcs [d] [] 4 fun l =>
    let r := f (rndOf e.w.fpctl) (readReg e l a).toNat (readReg e l b).toNat (readReg e l d).toNat
    { regs := [(d, BitVec.ofNat 32 r.1)], flags := r.2 }

end Sys2Proof.Machine
end

