-- ==== Sys2Proof/Machine/Float.lean ====
section
/-! DEFINITION. The arithmetic that only warps execute: FP32, packed pairs, approximations, conversions of registers,
votes and lane exchange (R166 to R178). -/

namespace Sys2Proof.Machine

/-! ## FP32 (R167 to R169) -/

/-- FADD (R167). -/
def execFadd (g : Guard) (d a b : Reg) (s : State) : Out :=
  fpu (.fadd g d a b) g d a b [a, b] s fun r x y _ => fAdd fp32 r x y

/-- FSUB (R167). -/
def execFsub (g : Guard) (d a b : Reg) (s : State) : Out :=
  fpu (.fsub g d a b) g d a b [a, b] s fun r x y _ => fSub fp32 r x y

/-- FMUL (R167). -/
def execFmul (g : Guard) (d a b : Reg) (s : State) : Out :=
  fpu (.fmul g d a b) g d a b [a, b] s fun r x y _ => fMul fp32 r x y

/-- FMIN (R167). -/
def execFmin (g : Guard) (d a b : Reg) (s : State) : Out :=
  fpu (.fmin g d a b) g d a b [a, b] s fun _ x y _ => fMin fp32 x y

/-- FMAX (R167). -/
def execFmax (g : Guard) (d a b : Reg) (s : State) : Out :=
  fpu (.fmax g d a b) g d a b [a, b] s fun _ x y _ => fMax fp32 x y

/-- FABS: bit 31 cleared (R167). -/
def execFabs (g : Guard) (d a : Reg) (s : State) : Out :=
  fpu (.fabs g d a) g d a a [a] s fun _ x _ _ => (x % fp32.sign, 0)

/-- FNEG: bit 31 inverted (R167). -/
def execFneg (g : Guard) (d a : Reg) (s : State) : Out :=
  fpu (.fneg g d a) g d a a [a] s fun _ x _ _ => ((x + fp32.sign) % (2 * fp32.sign), 0)

/-- FCPS: the sign of B on the magnitude of A (R167). -/
def execFcps (g : Guard) (d a b : Reg) (s : State) : Out :=
  fpu (.fcps g d a b) g d a b [a, b] s fun _ x y _ => (x % fp32.sign + y / fp32.sign * fp32.sign, 0)

/-- FFMA's rounding: its own override, or FPCTL (R168). -/
def fmaRnd (rm : FmaRound) (r : Rnd) : Rnd :=
  match rm with
  | .fpctl => r | .rne => .rne | .rz => .rz | .ru => .ru | .rd => .rd

/-- FFMA (R168). -/
def execFfma (g : Guard) (d a b : Reg) (rm : FmaRound) (s : State) : Out :=
  fpu (.ffma g d a b rm) g d a b [a, b, d] s fun r x y z => fFma fp32 (fmaRnd rm r) x y z

/-- FCMP (R169). -/
def execFcmp (g : Guard) (pd : Pred) (cc : Cond) (a b : Reg) (sig : Bool) (s : State) : Out :=
  warpOp (.fcmp g pd cc a b sig) g s fun e s => perLane e s [a, b] [] [pd] 4 fun l =>
    let r := fCmp cc sig (readReg e l a).toNat (readReg e l b).toNat
    { preds := [(pd, r.1)], flags := r.2 }

/-! ## Packed pairs (R170) -/

/-- The format of a packed pair. -/
def pairFmt (hf : Bool) : Fmt := if hf then fp16 else bf16

/-- Both halves of a packed op, each rounded to its own format; the flags of both (R170). -/
def pairOp (f : Nat → Nat → Nat → Nat × BitVec 5) (x y z : Nat) : Nat × BitVec 5 :=
  let lo := f (x % 65536) (y % 65536) (z % 65536)
  let hi := f (x / 65536) (y / 65536) (z / 65536)
  (hi.1 * 65536 + lo.1, lo.2 ||| hi.2)

/-- PADD2 (R170). -/
def execPadd2 (g : Guard) (d a b : Reg) (hf : Bool) (s : State) : Out :=
  fpu (.padd2 g d a b hf) g d a b [a, b] s fun r x y z => pairOp (fun x y _ => fAdd (pairFmt hf) r x y) x y z

/-- PSUB2 (R170). -/
def execPsub2 (g : Guard) (d a b : Reg) (hf : Bool) (s : State) : Out :=
  fpu (.psub2 g d a b hf) g d a b [a, b] s fun r x y z => pairOp (fun x y _ => fSub (pairFmt hf) r x y) x y z

/-- PMUL2 (R170). -/
def execPmul2 (g : Guard) (d a b : Reg) (hf : Bool) (s : State) : Out :=
  fpu (.pmul2 g d a b hf) g d a b [a, b] s fun r x y z => pairOp (fun x y _ => fMul (pairFmt hf) r x y) x y z

/-- PFMA2 (R170). -/
def execPfma2 (g : Guard) (d a b : Reg) (hf : Bool) (s : State) : Out :=
  fpu (.pfma2 g d a b hf) g d a b [a, b, d] s fun r x y z => pairOp (fFma (pairFmt hf) r) x y z

/-- PMAX2 (R170). -/
def execPmax2 (g : Guard) (d a b : Reg) (hf : Bool) (s : State) : Out :=
  fpu (.pmax2 g d a b hf) g d a b [a, b] s fun _ x y z => pairOp (fun x y _ => fMax (pairFmt hf) x y) x y z

/-- PMIN2 (R170). -/
def execPmin2 (g : Guard) (d a b : Reg) (hf : Bool) (s : State) : Out :=
  fpu (.pmin2 g d a b hf) g d a b [a, b] s fun _ x y z => pairOp (fun x y _ => fMin (pairFmt hf) x y) x y z

/-! ## Function approximations (R171) -/

/-- An approximation: a fixed function of the input, whatever FPCTL says. -/
def approx (i : Instr) (g : Guard) (d a : Reg) (s : State) (f : Rnd → W32 → Nat × BitVec 5) : Out :=
  warpOp i g s fun e s => perLane e s [a] [d] [] 12 fun l =>
    let r := f (rndOf e.w.fpctl) (readReg e l a)
    { regs := [(d, BitVec.ofNat 32 r.1)], flags := r.2 }

/-- XEXP2 (R171). -/
def execXexp2 (g : Guard) (d a : Reg) (s : State) : Out :=
  approx (.xexp2 g d a) g d a s fun _ x => funResult .exp2 false x

/-- XLOG2 (R171). -/
def execXlog2 (g : Guard) (d a : Reg) (s : State) : Out :=
  approx (.xlog2 g d a) g d a s fun _ x => funResult .log2 false x

/-- XRCP (R171). -/
def execXrcp (g : Guard) (d a : Reg) (s : State) : Out :=
  approx (.xrcp g d a) g d a s fun _ x => funResult .rcp false x

/-- XRSQ (R171). -/
def execXrsq (g : Guard) (d a : Reg) (s : State) : Out :=
  approx (.xrsq g d a) g d a s fun _ x => funResult .rsq false x

/-- XTANH (R171). -/
def execXtanh (g : Guard) (d a : Reg) (s : State) : Out :=
  approx (.xtanh g d a) g d a s fun _ x => funResult .tanh false x

/-- XSIN (R171). -/
def execXsin (g : Guard) (d a : Reg) (s : State) : Out :=
  approx (.xsin g d a) g d a s fun _ x => funResult .sin false x

/-- XCOS (R171). -/
def execXcos (g : Guard) (d a : Reg) (s : State) : Out :=
  approx (.xcos g d a) g d a s fun _ x => funResult .cos false x

/-- XSQRT: correctly rounded under FPCTL (R171). -/
def execXsqrt (g : Guard) (d a : Reg) (s : State) : Out :=
  approx (.xsqrt g d a) g d a s fun r x => sqrtResult r x.toNat

/-! ## Conversions of registers (R172 to R174, R176) -/

/-- A pattern of one format rounded to another; NV of a signalling NaN (R173). -/
def convert (src dst : Fmt) (r : Rnd) (x : Nat) : Nat × BitVec 5 :=
  let v := unpack src x
  finish dst r [v] v

/-- A half of a word. -/
def halfOf (hi : Bool) (x : W32) : BitVec 16 := if hi then x.extractLsb' 16 16 else x.extractLsb' 0 16
/-- A word with one half replaced. -/
def withHalf (hi : Bool) (x : W32) (h : BitVec 16) : W32 :=
  if hi then h ++ x.extractLsb' 0 16 else x.extractLsb' 16 16 ++ h

/-- CVTF on A and the old D (R173). -/
def cvtfOn (k : CvtfKind) (hi : Bool) (r : Rnd) (a d : W32) : W32 × BitVec 5 :=
  match k with
  | .bfF32 => let q := convert fp32 bf16 r a.toNat; (withHalf hi d (BitVec.ofNat 16 q.1), q.2)
  | .hfF32 => let q := convert fp32 fp16 r a.toNat; (withHalf hi d (BitVec.ofNat 16 q.1), q.2)
  | .f32Bf => let q := convert bf16 fp32 r (halfOf hi a).toNat; (BitVec.ofNat 32 q.1, q.2)
  | .f32Hf => let q := convert fp16 fp32 r (halfOf hi a).toNat; (BitVec.ofNat 32 q.1, q.2)

/-- CVTF reads D when it narrows (R173). -/
def cvtfSrcs (k : CvtfKind) (d a : Reg) : List Reg :=
  match k with
  | .bfF32 | .hfF32 => [a, d]
  | .f32Bf | .f32Hf => [a]

/-- CVTF (R173). -/
def execCvtf (g : Guard) (d a : Reg) (k : CvtfKind) (hi : Bool) (s : State) : Out :=
  warpOp (.cvtf g d a k hi) g s fun e s => perLane e s (cvtfSrcs k d a) [d] [] 4 fun l =>
    let q := cvtfOn k hi (rndOf e.w.fpctl) (readReg e l a) (readReg e l d)
    { regs := [(d, q.1)], flags := q.2 }

/-- CVTI on A (R174). -/
def cvtiOn (k : CvtiKind) (trunc : Bool) (r : Rnd) (a : W32) : Nat × BitVec 5 :=
  let q := if trunc then Rnd.rz else r
  match k with
  | .s32F32 => toInt q true a.toNat
  | .u32F32 => toInt q false a.toNat
  | .f32S32 => ofInt r true a
  | .f32U32 => ofInt r false a

/-- CVTI (R174). -/
def execCvti (g : Guard) (d a : Reg) (k : CvtiKind) (trunc : Bool) (s : State) : Out :=
  warpOp (.cvti g d a k trunc) g s fun e s => perLane e s [a] [d] [] 4 fun l =>
    let q := cvtiOn k trunc (rndOf e.w.fpctl) (readReg e l a)
    { regs := [(d, BitVec.ofNat 32 q.1)], flags := q.2 }

/-- PACK2: moves bits (R172). -/
def execPack2 (g : Guard) (d a b : Reg) (s : State) : Out :=
  warpOp (.pack2 g d a b) g s fun e s => perLane e s [a, b] [d] [] 2 fun l =>
    { regs := [(d, halfOf false (readReg e l b) ++ halfOf false (readReg e l a))] }

/-- A half widened (R176). -/
def widen (m : UnpkMode) (h : BitVec 16) : W32 :=
  match m with
  | .z => h.zeroExtend 32
  | .s => h.signExtend 32
  | .bf => h ++ 0#16

/-- UNPK2 (R176). -/
def execUnpk2 (g : Guard) (d a : Reg) (m : UnpkMode) (s : State) : Out :=
  warpOp (.unpk2 g d a m) g s fun e s => perLane e s [a] [d, d + 1] [] 2 fun l =>
    { regs := [(d, widen m (halfOf false (readReg e l a))), (d + 1, widen m (halfOf true (readReg e l a)))] }

/-! ## Lane exchange (R177, R178) -/

/-- The lanes that participate and whose predicate is true. -/
def ballot (e : WarpEnv) (pa : Pred) : LaneMask := maskOf fun l => laneIn e.parts l && predGet e.w.lanes[l].p pa

/-- VOTE.ANY (R177). -/
def execVoteAny (g : Guard) (pd pa : Pred) (s : State) : Out :=
  warpOp (.voteAny g pd pa) g s fun e s => perLane e s [] [] [pd] 4 fun _ => { preds := [(pd, ballot e pa != 0#32)] }

/-- VOTE.ALL (R177). -/
def execVoteAll (g : Guard) (pd pa : Pred) (s : State) : Out :=
  warpOp (.voteAll g pd pa) g s fun e s => perLane e s [] [] [pd] 4 fun _ => { preds := [(pd, ballot e pa == e.parts)] }

/-- VOTE.BAL (R177). -/
def execVoteBal (g : Guard) (d : Reg) (pa : Pred) (s : State) : Out :=
  warpOp (.voteBal g d pa) g s fun e s => perLane e s [] [d] [] 4 fun _ => { regs := [(d, ballot e pa)] }

/-- A shuffle from the source lane that each lane computes, or from itself when that lane does not participate
(R178). -/
def shuffle (i : Instr) (g : Guard) (d a b : Reg) (s : State) (src : Lane → W32 → Option Nat) : Out :=
  warpOp i g s fun e s => perLane e s [a, b] [d] [] 4 fun l =>
    let from_ : Lane := match src l (readReg e l b) with
      | some n => if h : n < 32 then (if laneIn e.parts ⟨n, h⟩ then ⟨n, h⟩ else l) else l
      | none => l
    { regs := [(d, readReg e from_ a)] }

/-- SHFL.IDX (R178). -/
def execShflIdx (g : Guard) (d a b : Reg) (s : State) : Out :=
  shuffle (.shflIdx g d a b) g d a b s fun _ y => some (y.toNat % 32)

/-- SHFL.UP (R178). -/
def execShflUp (g : Guard) (d a b : Reg) (s : State) : Out :=
  shuffle (.shflUp g d a b) g d a b s fun l y => if y.toNat ≤ l.val then some (l.val - y.toNat) else none

/-- SHFL.DN (R178). -/
def execShflDn (g : Guard) (d a b : Reg) (s : State) : Out :=
  shuffle (.shflDn g d a b) g d a b s fun l y => some (l.val + y.toNat)

/-- SHFL.XOR (R178). -/
def execShflXor (g : Guard) (d a b : Reg) (s : State) : Out :=
  shuffle (.shflXor g d a b) g d a b s fun l y => some (l.val ^^^ (y.toNat % 32))

end Sys2Proof.Machine
end

