-- ==== Sys2Proof/Machine/Control.lean ====
section
/-! DEFINITION. Control transfer, the ends of fragments and strands, barriers, traps and the return from them
(R26 to R28, R94 to R99, R143 to R149, R163 to R166, R300 to R303, R309, R310, R313). -/

namespace Sys2Proof.Machine

/-- An op that has not issued has no number (R299). -/
def uncount (s : State) (e : WarpEnv) : State := onWarp s e.k e.x.warp fun w => { w with wisn := w.wisn - 1 }

/-- A kill request is pending for the warp (R284). -/
def warpKill (s : State) (e : WarpEnv) : Bool :=
  match warpAt (coreAt s e.k) e.x.warp with
  | some w => w.kill
  | none => false

/-- The fragment takes the kill: it issues nothing more (R285). -/
def takeKill (s : State) (e : WarpEnv) : State := onFrag s e.k e.f fun x => { x with state := .stopped }

/-- A strand slot's mark on its bundle. -/
def markFx (s : State) (e : StrandEnv) (g : BundleFx → BundleFx) : State :=
  onStrand s e.k e.n fun x => { x with fx := g x.fx }

/-! ## Transfers -/

/-- The lanes of a fragment go to their next addresses: one fragment for each distinct address (R97, R136, R137). A
backward target is a kill point where `kp` says so. -/
def warpJump (s : State) (e : WarpEnv) (kp : Bool) (link : Bool) (next : Lane → W64) : Out :=
  let kill := warpKill s e
  let land (t : W64) (x : Frag) : Frag :=
    { x with pc := t, state := if kill && kp && t.ule e.x.pc then .stopped else .ready }
  let gs := (groupLanes e.x.mask next).map fun g => (g.1, land g.2)
  match splitFrag (coreAt s e.k) e.f gs with
  | none =>
    let since := match e.x.state with | .fragw t _ => t | _ => (coreAt s e.k).cycle
    .next (onFrag (uncount s e) e.k e.f fun x => { x with state := .fragw since gs.length })
  | some (c, ids) =>
    let s := shareOwners (setCore s e.k c) e.k e.f (ids.drop 1)
    if link then
      let ret := e.x.pc + 4
      let s := writeLanes s e.k e.x.warp e.parts 2 fun _ =>
        { regs := [(46, ret.extractLsb' 0 32), (47, ret.extractLsb' 32 32)] }
      .next (ids.foldl (fun s f => setScore s e.k f [46, 47] [] 2) s)
    else .next s

/-- A strand's transfer takes effect after its bundle (R26); BRA and BRX pop the loop entries that the target leaves
(R99), and a backward one is a kill point (R97). -/
def strandJump (s : State) (e : StrandEnv) (target : W64) (pops kp : Bool) : State :=
  let s := if pops then
      onStrand s e.k e.n fun x => { x with loops := x.loops.filter fun l => l.start.ule target && target.ule l.stop }
    else s
  markFx s e fun x =>
    { x with target := some target, killPoint := x.killPoint || (kp && target.ule e.st.pc) }

/-- The link of CALL and CALLX in a strand (R95). -/
def strandLink (s : State) (e : StrandEnv) : State := pendAdd s e 1 (.sreg 62 (e.st.pc + 32))

/-- NOP (R14, R94). -/
def execNop (g : Guard) (s : State) : Out :=
  asOp (.nop g) g s (fun e s => .next (warpAdvance s e)) fun _ s => .next s

/-- BRA: op address + 4 x O22 in a warp, bundle address + 32 x O22 in a strand (R60, R95). -/
def execBra (g : Guard) (off : BitVec 22) (s : State) : Out :=
  asOp (.bra g off) g s
    (fun e s => warpJump s e true false fun l =>
      if laneIn e.parts l then e.x.pc + (off.signExtend 64 <<< 2) else e.x.pc + 4)
    (fun e s => .next (strandJump s e (e.st.pc + (off.signExtend 64 <<< 5)) true true))

/-- CALL (R95). -/
def execCall (g : Guard) (off : BitVec 22) (s : State) : Out :=
  asOp (.call g off) g s
    (fun e s => warpJump s e false true fun l =>
      if laneIn e.parts l then e.x.pc + (off.signExtend 64 <<< 2) else e.x.pc + 4)
    (fun e s => .next (strandJump (strandLink s e) e (e.st.pc + (off.signExtend 64 <<< 5)) false false))

/-- A transfer to a computed address, in a warp: window and poison checks come first (R96). -/
def warpJumpX (s : State) (e : WarpEnv) (a : Reg) (kp link : Bool) : Out :=
  match windowTrap e [a, a + 1] with
  | some t => warpFault s e t
  | none =>
    match poisonTrap e [a, a + 1] [] with
    | some t => warpFault s e t
    | none => warpJump s e kp link fun l => if laneIn e.parts l then readPair e l a else e.x.pc + 4

/-- BRX (R96). -/
def execBrx (g : Guard) (a : Reg) (s : State) : Out :=
  asOp (.brx g a) g s (fun e s => warpJumpX s e a true false)
    fun e s => .next (strandJump s e (opA e a) true true)

/-- CALLX: the target is read at bundle start (R96). -/
def execCallx (g : Guard) (a : Reg) (s : State) : Out :=
  asOp (.callx g a) g s (fun e s => warpJumpX s e a false true)
    fun e s => .next (strandJump (strandLink s e) e (opA e a) false false)

/-- RET: to S62, or V46:V47 of each lane (R96). -/
def execRet (g : Guard) (s : State) : Out :=
  asOp (.ret g) g s (fun e s => warpJumpX s e 46 true false)
    fun e s => .next (strandJump s e (opA e 62) false true)

/-- LOOP: pushes an entry, or leaves past the body when the count is 0; a full stack, or a body that ends after the
enclosing body, is ILLOP (R98). -/
def execLoop (g : Guard) (d : Reg) (len : BitVec 10) (s : State) : Out :=
  strandOp (.loop g d len) g s fun e s =>
    let stop := e.st.pc + (len.zeroExtend 64 <<< 5)
    if e.st.loops.length ≥ 4 || (match e.st.loops with | t :: _ => t.stop.ult stop | [] => false) then
      strandFault s e (trapIllop (Instr.encode (.loop g d len)) 0)
    else if opD e d = 0#64 then .next (markFx s e fun x => { x with target := some (stop + 32) })
    else .next (onStrand s e.k e.n fun x =>
      { x with loops := { start := e.st.pc + 32, stop := stop, count := opD e d } :: x.loops })

/-! ## Ends, yields and segments of a strand -/

/-- END: no later bundle issues (R28). -/
def execEndOp (g : Guard) (s : State) : Out :=
  strandOp (.endOp g) g s fun e s => .next (markFx s e fun x => { x with isEnd := true, close := true })

/-- YIELD: closes the task and the segment, and passes the front end (R149). -/
def execYield (g : Guard) (s : State) : Out :=
  strandOp (.yield g) g s fun e s =>
    .next (markFx s e fun x => { x with isYield := true, close := true, killPoint := true })

/-- SEGB: closes the open segment and opens one (R310). -/
def execSegb (g : Guard) (s : State) : Out :=
  strandOp (.segb g) g s fun e s => .next (markFx s e fun x => { x with close := true, segb := true })

/-- The partners of a strand that are marked behind (R313). -/
def behindPartners (s : State) (team : Nat) (k : CoreId) (n : StrandId) : List (CoreId × StrandId) :=
  match teamAt s team with
  | none => []
  | some tm => (teamStrandsAt s tm).filter fun p => p != (k, n) &&
      (match strandAt (coreAt s p.1) p.2 with | some x => x.behind | none => false)

/-- RDV: a kill point; waits for the partners that are behind (R313). -/
def execRdv (g : Guard) (n : BitVec 16) (s : State) : Out :=
  strandOp (.rdv g n) g s fun e s =>
    let s := markFx s e fun x => { x with close := true, killPoint := true }
    if e.st.kill then .next s
    else
      match behindPartners s e.st.team e.k e.n with
      | [] => .next (passRdv (onStrand s e.k e.n fun x => { x with behind := false }) e.st.team e.k e.n (some n))
      | bs => .next (onStrand s e.k e.n fun x => { x with state := .rdv n bs })

/-! ## EXIT, CONV and BAR -/

/-- EXIT: the participating lanes leave; the others continue (R164). -/
def execExit (g : Guard) (s : State) : Out :=
  warpOp (.exit g) g s fun e s => .next (exitLanes (warpAdvance s e) e.k e.f e.parts)

/-- CONV: a kill point; the whole fragment waits (R139, R165). -/
def execConv (g : Guard) (s : State) : Out :=
  warpOp (.conv g) g s fun e s =>
    if warpKill s e then .next (takeKill s e)
    else .next (convCheck (onFrag s e.k e.f fun x => { x with state := .convw }) e.k e.x.warp)

/-- BAR: a kill point; a migrated warp completes it at once without arriving (R143, R144, R166). -/
def execBar (g : Guard) (n : Byte) (id : BitVec 4) (s : State) : Out :=
  asOp (.bar g n id) g s
    (fun e s =>
      if warpKill s e then .next (takeKill s e)
      else if e.w.away.isSome then .next (warpAdvance s e)
      else
        let now := (coreAt s e.k).cycle
        .next (barrierCheck (onFrag s e.k e.f fun x => { x with state := .barw id n now }) e.w.team id n))
    fun e s =>
      let s := markFx s e fun x => { x with close := true, killPoint := true }
      if e.st.kill then .next s
      else .next (barrierCheck (onStrand s e.k e.n fun x => { x with state := .bar id }) e.st.team id n)

/-! ## Kill points, traps and breakpoints -/

/-- KPT: takes a pending kill, and otherwise does nothing (R280). -/
def execKpt (g : Guard) (s : State) : Out :=
  asOp (.kpt g) g s
    (fun e s => if warpKill s e then .next (takeKill s e) else .next (warpAdvance s e))
    fun e s => .next (markFx s e fun x => { x with killPoint := true })

/-- The trap of the TRAP op: its code in TCAUSE and TSYND (R303; log entry 11). -/
def trapCode (code : BitVec 16) : TrapInfo := { cls := .trap, code := code, synd := 0#48 ++ code }

/-- TRAP (R303). -/
def execTrap (g : Guard) (code : BitVec 16) (s : State) : Out :=
  asOp (.trap g code) g s (fun e s => warpFault s e (trapCode code)) fun e s => strandFault s e (trapCode code)

/-- A debugger holds the right of the context and has armed BRK (R303, R340). -/
def brkArmed (s : State) (team : Nat) : Bool :=
  match teamAt s team with
  | none => false
  | some tm => match ctxAt s tm.ctx with | some x => x.dbg.right && x.dbg.armbrk | none => false

/-- A part of a fragment halts before its next op, and the rest runs on; the whole fragment halts when it cannot split. A halt is
a park, so a pending kill is taken instead (R344, R348). -/
def haltLanes (s : State) (k : CoreId) (f : FragId) (m : LaneMask) (cause : Nat) : State :=
  match fragAt (coreAt s k) f with
  | none => s
  | some x =>
    let kill := match warpAt (coreAt s k) x.warp with | some w => w.kill | none => false
    let stop := fun (y : Frag) => { y with state := if kill then .stopped else .halted cause .ready, watch := false, step := false }
    let gs := groupLanes x.mask fun l => laneIn m l
    match splitFrag (coreAt s k) f (gs.map fun g => (g.1, if g.2 then stop else id)) with
    | some (c, ids) => shareOwners (setCore s k c) k f (ids.drop 1)
    | none => onFrag s k f stop

/-- BRK: halts under an armed debugger, and otherwise traps (R303). -/
def execBrk (g : Guard) (n : BitVec 6) (s : State) : Out :=
  let t : TrapInfo := { cls := .brk, code := 0#10 ++ n }
  asOp (.brk g n) g s
    (fun e s => if brkArmed s e.w.team then .next (haltLanes (warpAdvance s e) e.k e.f e.parts 2) else warpFault s e t)
    fun e s =>
      if brkArmed s e.st.team then .next (onStrand s e.k e.n fun x => { x with state := .halted 2 .ready })
      else strandFault s e t

/-- The op word at a code address, as the core would fetch it. -/
def codeWord (s : State) (k : CoreId) (c : CtxId) (a : W64) : Option W32 :=
  if a.toNat / 4503599627370496 ≠ 0 then none
  else
    match translate s k c .fetch a.toNat with
    | .ok l _ _ => (locBytes s l 4).map fun bs => BitVec.ofNat 32 (natLE bs)
    | _ => none

/-- The major of a long form (R61). RFT.NEXT skips 8 bytes by the major alone, even where the word is no instruction by R64
(DESIGN CHOICE, log entry 80). -/
def longMajor (w : W32) : Bool := fOp w == 0x13#6 || fOp w == 0x22#6 || fOp w == 0x23#6

/-- The context of a team. -/
def teamCtx (s : State) (t : Nat) : CtxId := match teamAt s t with | some x => x.ctx | none => 0

/-- RFT in a warp: of an unflagged fragment it traps with code 0xFFFF (R302). -/
def warpRft (skip : Bool) (s : State) (e : WarpEnv) : Out :=
  if e.x.flag then
    let len := if skip then
        (match codeWord s e.k (teamCtx s e.w.team) (tpcAddr e.x.trap.pc) with
          | some w => if longMajor w then 8 else 4
          | none => 4)
      else 0
    .next (trapReturn s e.k e.f e.x len)
  else warpFault s e (trapCode 0xFFFF)

/-- RFT: re-issues the trapping op (R302). -/
def execRft (g : Guard) (s : State) : Out :=
  asOp (.rft g) g s (fun e s => warpRft false s e) fun e s => strandFault s e (trapCode 0xFFFF)

/-- RFT.NEXT: skips the trapping op (R302). -/
def execRftNext (g : Guard) (s : State) : Out :=
  asOp (.rftNext g) g s (fun e s => warpRft true s e) fun e s => strandFault s e (trapCode 0xFFFF)

end Sys2Proof.Machine
end

