-- ==== Sys2Proof/Machine/Prov.lean ====
section
/-! DEFINITION. The arithmetic of atomics, and the provisional effects of join members (R206 to R208, R272 to R279). -/

namespace Sys2Proof.Machine

/-! ## Atomic arithmetic (R206, R208) -/

/-- The format of a packed-half atomic. -/
def halfFmt (op : AtomOp) : Fmt := match op with | .hfadd2 => fp16 | _ => bf16

/-- A half plus an FP32 sum, rounded once to the half's format (R208). -/
def halfAdd (f : Fmt) (old : Nat) (sum : W32) : Nat :=
  (roundTo f .rne (valAdd .rne (unpack f old) (unpack fp32 sum.toNat))).1

/-- A half widened exactly to FP32. -/
def halfWiden (f : Fmt) (h : Nat) : W32 := BitVec.ofNat 32 (roundTo fp32 .rne (unpack f h)).1

/-- The operand of one lane: the halves of a packed operand as FP32 values. -/
def laneParts (op : AtomOp) (v : W64) : List W32 :=
  match op with
  | .bfadd2 | .hfadd2 => [halfWiden (halfFmt op) (v.toNat % 65536), halfWiden (halfFmt op) (v.toNat / 65536 % 65536)]
  | _ => []

/-- Two operands combined as a merge combines them, the second being the later one (R208). -/
def combine (op : AtomOp) (x : W64 × List W32) (y : W64 × List W32) : W64 × List W32 :=
  let lo := fun (v : W64) => v.extractLsb' 0 32
  let pick := fun (b : Bool) => if b then x else y
  match op with
  | .add => (0#32 ++ (lo x.1 + lo y.1), [])
  | .add64 => (x.1 + y.1, [])
  | .fadd => (0#32 ++ addRne (lo x.1) (lo y.1), [])
  | .bfadd2 | .hfadd2 => (y.1, List.zipWith addRne x.2 y.2)
  | .min => pick ((lo x.1).sle (lo y.1))
  | .max => pick ((lo y.1).sle (lo x.1))
  | .minn => pick ((lo x.1).ule (lo y.1))
  | .maxn => pick ((lo y.1).ule (lo x.1))
  | .and => (x.1 &&& y.1, [])
  | .or => (x.1 ||| y.1, [])
  | .xor => (x.1 ^^^ y.1, [])
  | .exch => y

/-- The low half of a packed atomic performed on a word. -/
def lowHalf (op : AtomOp) (old : W32) (parts : List W32) : W32 :=
  old.extractLsb' 16 16 ++ BitVec.ofNat 16 (halfAdd (halfFmt op) (old.toNat % 65536) (parts.getD 0 0))
/-- The high half of a packed atomic performed on a word. -/
def highHalf (op : AtomOp) (old : W32) (parts : List W32) : W32 :=
  BitVec.ofNat 16 (halfAdd (halfFmt op) (old.toNat / 65536) (parts.getD 1 0)) ++ old.extractLsb' 0 16

/-- An atomic performed on the old word (R206). -/
def atomNew (op : AtomOp) (old v : W64) (parts : List W32) : W64 :=
  let o := old.extractLsb' 0 32
  match op with
  | .bfadd2 | .hfadd2 => 0#32 ++ highHalf op (lowHalf op o parts) parts
  | .add | .fadd | .min | .max | .minn | .maxn | .and | .or | .xor | .exch | .add64 => (combine op (old, []) (v, parts)).1

/-- Bytes of the word an atomic acts on (R230). -/
def atomLen (op : AtomOp) : Nat := match op with | .add64 => 8 | _ => 4

/-- A packed-half atomic: two steps at the slice (R207). -/
def isPacked (op : AtomOp) : Bool := match op with | .bfadd2 | .hfadd2 => true | _ => false

/-! ## Members (R272 to R274) -/

/-- The join that a team is a member of, its index and its record. -/
def memberOf (s : State) (t : Nat) : Option (Join × Nat × Member) :=
  match teamAt s t with
  | none => none
  | some tm =>
    match tm.member with
    | none => none
    | some (j, i) =>
      match joinAt s j with
      | none => none
      | some jn => (jn.members[i]?).map fun m => (jn, i, m)

/-- The tag under which a team's effects are held now: those of a RUNNING member, and of one that is being killed
(R275, R286). -/
def heldTag (s : State) (t : Nat) : Option (Nat × Nat) :=
  match memberOf s t with
  | some (jn, i, m) => if m.state == .running || m.state == .killing then some (jn.cell, i) else none
  | none => none

/-- A team's effects are held: it is a RUNNING member, or one that is being killed, which holds nothing that cannot be retracted
(R274, R279, R286). -/
def memberRunning (s : State) (t : Nat) : Bool := (heldTag s t).isSome

/-- A member changed. -/
def modMember (s : State) (j i : Nat) (g : Member → Member) : State :=
  modJoin s j fun x => { x with members := x.members.modify i g }

/-! ## Held effects (R275 to R277) -/

/-- A held effect is that of a member on a 4-byte word; a 64-bit delta covers two words. -/
def heldHits (j i word : Nat) (h : Held) : Bool :=
  h.join == j && h.member == i &&
    (h.word == word || (match h.eff with | .delta .add64 _ _ => h.word + 1 == word | _ => false))

/-- A word in a member's view (R276). -/
def viewWord (s : State) (j i word : Nat) : W32 :=
  match s.held.find? (heldHits j i word) with
  | none => BitVec.ofNat 32 (devNat s (4 * word) 4)
  | some h =>
    match h.eff with
    | .bytes data => data
    | .delta op v parts =>
      if op == .add64 then
        (atomNew op (BitVec.ofNat 64 (devNat s (4 * h.word) 8)) v parts).extractLsb' (32 * (word - h.word)) 32
      else (atomNew op (BitVec.ofNat 64 (devNat s (4 * word) 4)) v parts).extractLsb' 0 32

/-- The 4-byte words that bytes touch. -/
def wordsOf (cell n : Nat) : List Nat :=
  if n = 0 then [] else (List.range ((cell + n - 1) / 4 - cell / 4 + 1)).map (cell / 4 + ·)

/-- Device bytes as a reader of a team sees them: the member view of a member, and otherwise the committed bytes. -/
def viewBytes (s : State) (tag : Option (Nat × Nat)) (cell n : Nat) : List Byte :=
  match tag with
  | none => devBytes s cell n
  | some (j, i) =>
    (((wordsOf cell n).flatMap fun w => bytesLE 4 (viewWord s j i w).toNat).drop (cell % 4)).take n

/-- A word of a member turned into provisional bytes of its view (R277). -/
def heldToBytes (s : State) (j i word : Nat) : State :=
  let asBytes := fun w => { join := j, member := i, word := w, eff := .bytes (viewWord s j i w) : Held }
  match s.held.find? (heldHits j i word) with
  | some h =>
    match h.eff with
    | .bytes _ => s
    | .delta op _ _ => { s with held := (if op == .add64 then [h.word, h.word + 1] else [h.word]).map asBytes ++ s.held.erase h }
  | none => { s with held := asBytes word :: s.held }

/-- Bytes of one word replaced. -/
def overlay (base : W32) (mask : BitVec 4) (data : W32) : W32 :=
  let m : W32 := (List.range 4).foldl (fun m b => if mask.getLsbD b then m ||| (0xFF#32 <<< (8 * b)) else m) 0
  (base &&& ~~~m) ||| (data &&& m)

/-- Bytes of one word held. -/
def heldWordStore (s : State) (j i word : Nat) (mask : BitVec 4) (data : W32) : State :=
  let s := heldToBytes s j i word
  { s with held := s.held.map fun h =>
      if heldHits j i word h then
        match h.eff with
        | .bytes d => { h with eff := .bytes (overlay d mask data) }
        | .delta .. => h
      else h }

/-- A store held as provisional bytes (R275). -/
def heldStore (s : State) (j i cell : Nat) (bs : List Byte) : State :=
  (wordsOf cell bs.length).foldl (fun s w =>
    let byteAt := fun b => if 4 * w + b < cell then none else bs[4 * w + b - cell]?
    let mask : BitVec 4 := (List.range 4).foldl (fun m b => if (byteAt b).isSome then m ||| (1#4 <<< b) else m) 0
    let data := BitVec.ofNat 32 (natLE ((List.range 4).map fun b => (byteAt b).getD 0))
    heldWordStore s j i w mask data) s

/-- A member's atomic held as a delta, or applied to provisional bytes; with the old value of the view (R275 to
R277). -/
def heldAtomic (s : State) (j i cell : Nat) (op : AtomOp) (v : W64) (parts : List W32) : State × W64 :=
  let word := cell / 4
  let old : W64 := BitVec.ofNat 64 (natLE (viewBytes s (some (j, i)) cell (atomLen op)))
  let ws := if op == .add64 then [word, word + 1] else [word]
  let fresh := s.held.all fun h => ws.all fun w => !heldHits j i w h
  let same := fun (h : Held) => h.join == j && h.member == i && h.word == word &&
    (match h.eff with | .delta o _ _ => o == op | .bytes _ => false)
  if fresh then ({ s with held := { join := j, member := i, word := word, eff := .delta op v parts } :: s.held }, old)
  else if s.held.any same then
    ({ s with held := s.held.map fun h =>
        if same h then
          match h.eff with
          | .delta o x ps => let (y, qs) := combine op (x, ps) (v, parts); { h with eff := .delta o y qs }
          | .bytes _ => h
        else h }, old)
  else
    let s := ws.foldl (fun s w => heldToBytes s j i w) s
    (heldStore s j i cell (bytesLE (atomLen op) (atomNew op old v parts).toNat), old)

/-- The device lines on which a member holds effects. -/
def heldLines (s : State) (j i : Nat) : List Nat :=
  ((s.held.filter fun h => h.join == j && h.member == i).map fun h => h.word / 32).eraseDups

/-- The provisional budget of a join, in lines (R267, R278). -/
def budgetOf (jn : Join) : Nat :=
  let b := (jn.desc.extractLsb' (8 * 0x20 + 32) 32).toNat
  if b = 0 then 1024 else b

/-- Lines that a team's sent and unsent stores and atomics, and the stores in its open segments' queues, will take. -/
def flyingLines (s : State) (t : Nat) : List Nat :=
  (s.reqs.filterMap fun r =>
    match r.loc, r.op with
    | .dev c, .store _ | .dev c, .atomic .. => if r.team == t then some (lineOf c) else none
    | _, _ => none) ++
    (match teamAt s t with
      | none => []
      | some tm => tm.cores.flatMap fun k => allStrands.flatMap fun n =>
        match strandAt (coreAt s k) n with
        | some x => if x.team == t then x.queue.filterMap fun q => match q.loc with | .dev c => some (lineOf c) | _ => none else []
        | none => [])

/-- An access of a RUNNING member that would take lines beyond its budget (R278). -/
def overBudget (s : State) (t : Nat) (lines : List Nat) : Bool :=
  match memberOf s t with
  | some (jn, i, m) => m.state == .running &&
      (heldLines s jn.cell i ++ flyingLines s t ++ lines).eraseDups.length > budgetOf jn
  | none => false

end Sys2Proof.Machine
end

