-- ==== Sys2Proof/Machine/Special.lean ====
section
/-! DEFINITION. The special registers, SRD and SWR (R9, R10, R51, R52, R101 to R103, R107, R297). -/

namespace Sys2Proof.Machine

/-- An op that acts once, with the lead lane's registers (R160): the window's ownership and the lead lane's poison. -/
def onceTrap (e : WarpEnv) (srcs dsts : List Reg) : Option TrapInfo :=
  match windowTrap e (srcs ++ dsts) with
  | some t => some t
  | none =>
    let l := leadLane e.parts
    let rs := srcs ++ dsts.filter isY
    if rs.any (poisoned e l) then some (sehPoison e (1#32 <<< l.val) rs) else none

/-- An op that acts once: its traps, or its body with the lead lane. -/
def once (e : WarpEnv) (s : State) (srcs dsts : List Reg) (body : Lane → Out) : Out :=
  match onceTrap e srcs dsts with
  | some t => warpFault s e t
  | none => body (leadLane e.parts)

/-- GRID: number and nesting depth (R103). -/
def gridReg (s : State) (t : Nat) : W64 :=
  match teamGrid s t with
  | some g => 0#28 ++ BitVec.ofNat 4 g.depth ++ g.number
  | none => 0

/-- TEAM of a team's number. -/
def teamRegOf (s : State) (t : Nat) : W64 := match teamAt s t with | some x => teamReg x | none => 0

/-- CORE: the package core it runs on, and the position of its team's core in the cluster (R103, R314, R375). -/
def coreReg (s : State) (t : Nat) (k home : CoreId) : W64 :=
  let pos := match teamAt s t with
    | some x => x.pos + x.cores.idxOf home
    | none => 0
  BitVec.ofNat 64 (k.val + 256 * (pos % 8))

/-- A trap register by its number (R103); none for other numbers. -/
def trapReg (r : TrapRegs) : Nat → Option W64
  | 0x020 => some (0#32 ++ r.cause)
  | 0x021 => some r.pc
  | 0x022 => some r.addr
  | 0x023 => some r.synd
  | 0x024 => some (0#32 ++ r.unit)
  | 0x025 => some r.coord
  | 0x026 => some (0#32 ++ r.townf)
  | _ => none

/-- A special register as a lane of a warp reads it, 64 bits (R103); other numbers read as 0. -/
def warpSpecial (s : State) (e : WarpEnv) (l : Lane) (n : Nat) : W64 :=
  let home := match e.w.away with | some o => o.core | none => e.k
  let slot := match e.w.away with | some o => o.ix | none => e.x.warp
  match trapReg e.x.trap n with
  | some v => v
  | none =>
    match n with
    | 0x000 => BitVec.ofNat 64 l.val
    | 0x001 => BitVec.ofNat 64 slot.val
    | 0x002 => BitVec.ofNat 64 e.f.val
    | 0x003 => teamRegOf s e.w.team
    | 0x004 => gridReg s e.w.team
    | 0x005 => coreReg s e.w.team e.k home
    | 0x006 => BitVec.ofNat 64 (coreDie e.k).val
    | 0x008 => BitVec.ofNat 64 (coreAt s e.k).cycle
    | 0x009 => BitVec.ofNat 64 s.tick
    | 0x012 => 0#32 ++ e.w.fpctl
    | 0x013 => 0#32 ++ e.w.fpstat
    | 0x027 => e.w.tbase
    | 0x028 => e.w.wisn
    | 0x02A => BitVec.ofNat 64 e.w.kill.toNat
    | _ => 0

/-- A special register as a strand reads it (R103). Before the first segment SEGPC reads 0, and after a close it reads the last
entry (DESIGN CHOICE, log entry 81). -/
def strandSpecial (s : State) (e : StrandEnv) (n : Nat) : W64 :=
  match trapReg e.st.trap n with
  | some v => v
  | none =>
    match n with
    | 0x001 => BitVec.ofNat 64 (64 + e.n.val)
    | 0x003 => teamRegOf s e.st.team
    | 0x004 => gridReg s e.st.team
    | 0x005 => coreReg s e.st.team e.k e.k
    | 0x006 => BitVec.ofNat 64 (coreDie e.k).val
    | 0x008 => BitVec.ofNat 64 e.c.cycle
    | 0x009 => BitVec.ofNat 64 s.tick
    | 0x010 => (viewTwb e.st).zeroExtend 64
    | 0x011 => viewMxcfg e.st
    | 0x014 => match e.st.loops with | l :: _ => l.count | [] => 0
    | 0x015 => BitVec.ofNat 64 e.st.loops.length
    | 0x029 => match e.st.snap with | some x => x.pc | none => 0
    | 0x02A => BitVec.ofNat 64 e.st.kill.toNat
    | _ => 0

/-- SRD: number n + 0x800 gives the high half in a warp (R101, R102). -/
def execSrd (g : Guard) (d : Reg) (n : BitVec 12) (s : State) : Out :=
  asOp (.srd g d n) g s
    (fun e s => perLane e s [] [d] [] 2 fun l =>
      let v := warpSpecial s e l (n.toNat % 0x800)
      { regs := [(d, if n.getLsbD 11 then v.extractLsb' 32 32 else v.extractLsb' 0 32)] })
    fun e s => .next (pendAdd s e 1 (.sreg d (strandSpecial s e n.toNat)))

/-- TBASE's written value keeps bits [63:10] (R297). -/
def tbaseOf (v : W64) : W64 := v &&& ~~~(0x3FF#64)
/-- MXCFG's written value keeps bits [44:0] (R107). -/
def mxcfgOf (v : W64) : W64 := v &&& 0x1FFFFFFFFFFF#64

/-- A warp's write of a special register (R101, R102): RO and RS registers and reserved bits ignore it, and FPSTAT takes the flags
of the cycle's other ops with it (R52). -/
def warpSwr (n : Nat) (v : W32) (w : Warp) : Warp :=
  match n with
  | 0x012 => { w with fpctl := v &&& 3#32 }
  | 0x013 => { w with fpstat := (v &&& 31#32) ||| (0#27 ++ ((w.now.map (·.flags)).getD 0)) }
  | 0x027 => { w with tbase := tbaseOf (w.tbase.extractLsb' 32 32 ++ v) }
  | 0x827 => { w with tbase := tbaseOf (v ++ w.tbase.extractLsb' 0 32) }
  | _ => w

/-- SWR: in a warp once, with the lead lane's register; in a strand at the next bundle (R101, R160). -/
def execSwr (g : Guard) (d : Reg) (n : BitVec 12) (s : State) : Out :=
  asOp (.swr g d n) g s
    (fun e s => once e s [d] [] fun l =>
      .next (warpAdvance (onWarp s e.k e.x.warp (warpSwr n.toNat (readReg e l d))) e))
    fun e s =>
      match n.toNat with
      | 0x010 => .next (pendAdd s e 1 (.twb ((opD e d).extractLsb' 0 9)))
      | 0x011 => .next (pendAdd s e 1 (.mxcfg (mxcfgOf (opD e d))))
      | _ => .next s

end Sys2Proof.Machine
end

