-- ==== Sys2Proof/Machine/Access.lean ====
section
/-! DEFINITION. The issue of a memory access: its checks, its translation, the split of a faulting fragment, the
request that carries it, and what each request does where it is performed (R188 to R199, R221 to R228, R365 to
R368). -/

namespace Sys2Proof.Machine

/-! ## Issuers -/

/-- Who issues an access, and what its records name. -/
structure Issue where
  who : AgentRef
  place : Option (CoreId × WarpIx)
  k : CoreId
  team : Nat
  ctx : CtxId
  away : Bool
  wisn : W64
  pc : W64
  unit : Nat
  /-- Its number in records (R318). -/
  agent : Nat := 0
  /-- The lane for which the op is executed once. -/
  lane : Lane := 0
  deriving DecidableEq, Repr, Inhabited

/-- MEMV at an address of an op that is executed once (R298). -/
def Issue.memv (q : Issue) (a : W64) (reason : Nat) : TrapInfo := trapMemv a reason (1#32 <<< q.lane.val) q.unit

/-- A fragment's op as an issuer. -/
def warpIssue (s : State) (e : WarpEnv) : Issue :=
  { who := .frag e.k e.f, place := some (e.k, e.x.warp), k := e.k, team := e.w.team, ctx := teamCtx s e.w.team,
    away := e.w.away.isSome, wisn := e.w.wisn, pc := tpcOf e.x.pc, unit := 8,
    agent := (match e.w.away with | some o => o.ix.val | none => e.x.warp.val), lane := leadLane e.parts }

/-- A strand's slot as an issuer. -/
def strandIssue (s : State) (e : StrandEnv) : Issue :=
  { who := .strand e.k e.n, place := none, k := e.k, team := e.st.team, ctx := teamCtx s e.st.team, away := false,
    wisn := BitVec.ofNat 64 e.st.clock, pc := tpcSlot e.st.pc e.slot, unit := e.slot.val,
    agent := 64 + e.n.val }

/-- What an access does. -/
inductive MemKind where
  | load | store | atomic
  deriving DecidableEq, Repr, Inhabited

/-- One address of an op: its lane (0 in a strand) and its length. -/
structure Acc where
  lane : Lane
  va : W64
  len : Nat
  deriving DecidableEq, Repr, Inhabited

/-- An access that has passed its checks and has a place. -/
structure Placed where
  lane : Lane
  va : W64
  len : Nat
  loc : Loc
  lease : Nat
  deriving DecidableEq, Repr, Inhabited

/-! ## Checks 2 to 6 (R222) -/

/-- A control-window access that R240 lists: its loads are LD and LDO. -/
def controlOk (kind : MemKind) (ld : Bool) (off len : Nat) : Bool :=
  match kind with
  | .load => ld && ((off == 8 && len == 8) || (0x1000 ≤ off && off < 0x1000 + 640 && off % 8 == 0 && len == 8) || 0x100000 ≤ off)
  | .store => off == 0 && len == 8
  | .atomic => false

/-- The size of a team's shared memory. -/
def teamShared (s : State) (team : Nat) : Nat := match teamGrid s team with | some g => sharedSize g | none => 0

/-- Why an address is in no window, or out of its window; none when it is in one (R189). -/
def windowReason (s : State) (q : Issue) (kind : MemKind) (ld : Bool) (va : W64) (len : Nat) : Option Nat :=
  match window s q.k q.team q.away va with
  | .bad r => some r
  | .global _ => none
  | .shared _ off => if off < teamShared s q.team then none else some 1
  | .control off =>
    if controlOk kind ld off len && (off < 0x100000 || off - 0x100000 < teamShared s q.team) then none else some 6

/-- Absent lines that an access touches. -/
def absentLines (s : State) (q : Issue) (a : Acc) : List Loc :=
  match window s q.k q.team q.away a.va with
  | .shared k off =>
    match seatAt (coreAt s k) q.team with
    | some x => ((linesOf off a.len).filter x.absent.contains).map fun l => .shared k q.team (128 * l)
    | none => []
  | _ => []

/-- Lanes of some accesses. -/
def accLanes (as : List Acc) : LaneMask := as.foldl (fun m a => m ||| (1#32 <<< a.lane.val)) 0

/-- The PROV trap of an op (R279, R298). -/
def trapProv (i : Instr) (sys : Bool) (unit : Nat) : TrapInfo :=
  let w := i.encode
  let fn := match i with
    | .st .. | .sto .. | .tst .. => w.toNat % 8
    | _ => w.toNat % 16
  { cls := .prov, synd := BitVec.ofNat 64 ((fOp w).toNat + 2 ^ 8 * fn + 2 ^ 12 * sys.toNat), unit := unit }

/-- LD and LDO. -/
def isLd : Instr → Bool
  | .ld .. | .ldo .. => true
  | _ => false

/-- Checks 2 to 5 of an op's addresses, at a log2 of the alignment (R222); `irr`: it cannot be retracted (R279). -/
def checkAccs (s : State) (q : Issue) (i : Instr) (kind : MemKind) (log : Nat) (irr : Bool) (as : List Acc) :
    Option TrapInfo :=
  let why := fun (a : Acc) => windowReason s q kind (isLd i) a.va a.len
  let bad := as.filter fun a => (why a).isSome
  match bad with
  | a :: _ => some (trapMemv a.va ((why a).getD 0) (accLanes bad) q.unit)
  | [] =>
    match as.find? fun a => a.va.toNat % 2 ^ log != 0 with
    | some a => some (trapAlign a.va log q.unit)
    | none =>
      match if kind == .load then none else as.find? fun a => !(absentLines s q a).isEmpty with
      | some a => some { cls := .pres, addr := a.va, unit := q.unit }
      | none => if irr && memberRunning s q.team then some (trapProv i false q.unit) else none

/-! ## Translation (R223) -/

/-- What each address comes to. -/
structure Located where
  ok : List Placed := []
  pager : List Acc := []
  bad : List (Acc × Nat) := []
  /-- A walk waits at an engine-pending line: nothing is issued yet (R193). -/
  wait : Bool := false
  deriving DecidableEq, Repr, Inhabited

/-- An address in its place; a control-window address keeps its own core's window. -/
def locate (s : State) (q : Issue) (kind : MemKind) (as : List Acc) : Located :=
  as.foldl (fun r a =>
    match window s q.k q.team q.away a.va with
    | .shared k off => { r with ok := r.ok ++ [⟨a.lane, a.va, a.len, .shared k q.team off, 0⟩] }
    | .control off => { r with ok := r.ok ++ [⟨a.lane, a.va, a.len, .shared q.k q.team (2 ^ 32 + off), 0⟩] }
    | .bad n => { r with bad := r.bad ++ [(a, n)] }
    | .global va =>
      match translate s q.k q.ctx (if kind == .load then .read else .write) va with
      | .ok l lease _ =>
        match kind, l with
        | .atomic, .host _ => { r with bad := r.bad ++ [(a, 8)] }
        | _, _ => { r with ok := r.ok ++ [⟨a.lane, a.va, a.len, l, lease⟩] }
      | .pager _ => { r with pager := r.pager ++ [a] }
      | .bad n => { r with bad := r.bad ++ [(a, n)] }
      | .wait => { r with wait := true }) {}

/-- The translations that an op used enter the TLBs (R212). -/
def noteWalks (s : State) (q : Issue) (ps : List Placed) : State :=
  ps.foldl (fun s p => if p.va.toNat / 4503599627370496 = 0 then noteWalk s q.k q.ctx p.va.toNat else s) s

/-- A place outside device memory: a SYS page. -/
def isSys : Loc → Bool
  | .host _ | .peer .. => true
  | .dev _ | .shared .. => false

/-- Some access has translated to a SYS page, which an atomic cannot use (R211, R279). -/
def touchesSys (r : Located) : Bool := (r.ok.any fun p => isSys p.loc) || r.bad.any fun p => p.2 == 8

/-- The device lines of some accesses. -/
def devLines (ps : List Placed) : List Nat :=
  (ps.filterMap fun p => match p.loc with | .dev c => some (lineOf c) | _ => none).eraseDups

/-! ## Watch ranges and the stipple sampler (R349, R357) -/

/-- A watch range covers some of the bytes of an access. -/
def watchHits (s : State) (c : CtxId) (kind : MemKind) (va len : Nat) : Bool :=
  match ctxAt s c with
  | none => false
  | some x => x.dbg.watch.toList.any fun w =>
    let n := 2 ^ max 2 (w.2.extractLsb' 8 5).toNat
    let r := w.2.getLsbD 1
    let wr := w.2.getLsbD 2
    w.2.getLsbD 0 && (match kind with | .load => r | .store => wr | .atomic => r || wr) &&
      w.1.toNat < va + len && va < w.1.toNat + n

/-- One sampled access of set j. -/
def stippleOne (t : Stipple) (j : Fin 4) (line : Nat) : Stipple :=
  let a := t.count[j] + 1
  let t := { t with count := t.count.set j a }
  let k := min t.k.toNat 16
  let h := line % 2 ^ 32 * 0x9E3779B9 % 2 ^ 32
  if k > 0 && h / 2 ^ (32 - k) ≠ 0 then t
  else
    match t.tags.find? fun x => x.set == j && x.line == line with
    | some x =>
      let b : Fin 32 := Fin.ofNat 32 (min 31 (Nat.log2 (a - x.last)))
      let n := t.hist[j][b]
      let hist := t.hist.set j (t.hist[j].set b (if n = 0xFFFFFFFF#32 then n else n + 1))
      { t with hist := hist, tags := t.tags.map fun y => if y.set == j && y.line == line then { y with last := a } else y }
    | none =>
      let n := t.new[j]
      let new := t.new.set j (if n = 0xFFFFFFFF#32 then n else n + 1)
      let tag : Tag := { set := j, line := line, last := a }
      if t.tags.length < Config.stippleTags then { t with new := new, tags := tag :: t.tags }
      else
        let m := t.tags.foldl (fun m y => min m y.last) a
        match t.tags.find? fun y => y.last == m with
        | some y => { t with new := new, tags := tag :: t.tags.erase y }
        | none => { t with new := new, tags := tag :: t.tags }

/-- The sampler of the issuing die counts an op's lines (R357). -/
def stippleOp (s : State) (q : Issue) (vas : List Nat) : State :=
  let d := coreDie q.k
  let st := (dieAt s d).stipple
  match teamGrid s q.team with
  | none => s
  | some g =>
    if !st.en || st.ctx ≠ q.ctx then s
    else
      let base := recBits g.raw 0x10 5 59
      let lines := ((vas.filter fun a => a / 4503599627370496 = 0).map fun a => a / 128).eraseDups
      ((List.finRange 4).filter fun j => st.krn[j].getLsbD 0 && st.krn[j].toNat / 32 == base).foldl (fun s j =>
        modDie s d fun y => { y with stipple := lines.foldl (fun t l => stippleOne t j l) y.stipple }) s

/-- An op's accesses are seen by the sampler; whether one hits a watch range. -/
def observe (s : State) (q : Issue) (kind : MemKind) (ps : List Placed) : State × Bool :=
  let vas := (ps.map fun p => p.va.toNat).filter fun a => a / 4503599627370496 = 0
  (stippleOp s q vas,
    ps.any fun p => p.va.toNat / 4503599627370496 = 0 && watchHits s q.ctx kind p.va.toNat p.len)

/-- An agent's op has hit a watch range (R349). -/
def noteWatch (s : State) : AgentRef → State
  | .frag k f => onFrag s k f fun x => { x with watch := true }
  | .strand k n => onStrand s k n fun x => { x with fx := { x.fx with watch := true } }

/-! ## Requests (R193, R197, R365 to R368) -/

/-- The host port that a die's SYS accesses leave by (R369). -/
def hostPort (d : DieId) : DieId :=
  if Config.cabled d then d else ((List.finRange 4).find? fun p => Config.cabled p).getD d

/-- The die on which a place lies. -/
def destDie (k : CoreId) : Loc → DieId
  | .dev c => dieOf c
  | .host _ => hostPort (coreDie k)
  | .peer p _ => Fin.ofNat 4 (p.val / 2)
  | .shared k' _ _ => coreDie k'

/-- A request of a core to a place is remote (R365). -/
def isRemote (k : CoreId) (l : Loc) : Bool := destDie k l != coreDie k

/-- Size of a class's bucket, in tokens; 0: unmetered (R366). -/
def bucketSize (s : State) (c : CtxId) (cls : Fin 3) : Nat :=
  match ctxAt s c with | some x => (x.buckets[cls].extractLsb' 24 24).toNat | none => 0

/-- The bucket class of a request (R365). -/
def tokenClass : ReqOp → Fin 3
  | .atomic .. | .cas .. => 2
  | .engine .. => 1
  | _ => 0

/-- The die is READY (R385). -/
def dieReady (s : State) (d : DieId) : Bool := (dieAt s d).state == .ready

/-- The bridge between two dies that have one is up at both ends (R363, R384). -/
def bridgeUp (s : State) (a b : DieId) : Bool :=
  if a.val ^^^ b.val = 1 then (dieAt s a).pair && (dieAt s b).pair else (dieAt s a).cross && (dieAt s b).cross

/-- The route from a die to another is whole: the pair partner lies between where there are two hops (R363, R385). -/
def routeOk (s : State) (a b : DieId) : Bool :=
  let mid : DieId := Fin.ofNat 4 (a.val ^^^ 1)
  dieReady s a && dieReady s b &&
    (match a.val ^^^ b.val with
      | 0 => true
      | 1 | 2 => bridgeUp s a b
      | _ => dieReady s mid && bridgeUp s a mid && bridgeUp s mid b)

/-- A cell lies in the grants of a context on its die (R368, R389). -/
def granted (s : State) (c : CtxId) (cell : Nat) : Bool :=
  match ctxAt s c with
  | some x =>
    let (lo, hi) := x.grants[dieOf cell]
    let off := cell % Config.stackBytes
    lo ≤ off && off < hi
  | none => false

/-- A request that its destination refuses, or that no route carries (R368, R385). -/
def refused (s : State) (r : Req) : Bool :=
  isRemote r.core r.loc &&
    (!routeOk s (coreDie r.core) (destDie r.core r.loc) ||
      (match r.loc with | .dev c => !granted s r.ctx c | _ => false))

/-- The plate core of a proof core, with the seats of its protected teams: they take resources of the proof core too (R314). -/
def lentSeats (s : State) (k : CoreId) : List (Core × Seat) :=
  let plate := coreAt s (Fin.ofNat 256 (k.val - 1))
  if k.val % 2 = 1 then
    (plate.seats.filter fun x => match teamGrid s x.team with | some g => teamProt g | none => false).map fun x => (plate, x)
  else []

/-- The seats that take resources of a core: its own, and on a proof core those of its plate core's protected teams
(R314). -/
def takenSeats (s : State) (k : CoreId) : List (Core × Seat) := (coreAt s k).seats.map (fun x => (coreAt s k, x)) ++ lentSeats s k

/-- Lines that a core's L1 holds: 768 KiB less the shared memory that its teams have taken (R5, R131, R190). -/
def l1Lines (s : State) (k : CoreId) : Nat :=
  (786432 - (takenSeats s k).foldl (fun n x => n + teamShared s x.2.team) 0) / 128

/-- A team's shared memory has been taken from a core's L1: the lines that no longer fit are dropped (R131). -/
def fitL1 (s : State) (k : CoreId) : State :=
  if (coreAt s k).l1.isEmpty then s else modCore s k fun c => { c with l1 := c.l1.take (l1Lines s k) }

/-- The L1 lines that a store drops; fills already asked for are made and not kept (R197). -/
def dropL1 (s : State) (k : CoreId) (lines : List Nat) : State :=
  if lines.isEmpty then s
  else
    let s := modCore s k fun c => { c with l1 := c.l1.filter fun x => !lines.contains x.line }
    { s with reqs := s.reqs.map fun r =>
        match r.op, r.loc with
        | .load true .., .dev c | .fill, .dev c => if r.core == k && lines.contains (lineOf c) then { r with noKeep := true } else r
        | _, _ => r }

/-- A request writes at its destination. -/
def isWrite : ReqOp → Bool
  | .store _ | .atomic .. | .cas .. | .engine .. => true
  | .load .. | .fill | .fence .. | .kick => false

/-- The poison of the lines of a shared range. -/
def sharedPoison (s : State) (k : CoreId) (t off n : Nat) : Bool :=
  match seatAt (coreAt s k) t with
  | some x => (linesOf off n).any x.poisoned.contains
  | none => false

/-- The bytes of a control-window read (R240). PMAP bits of lines beyond the team's shared size read 1 (DESIGN CHOICE, log entry
87). -/
def controlRead (s : State) (k : CoreId) (team off len : Nat) : List Byte :=
  let c := coreAt s k
  if off = 8 then
    let gone := match c.abandoned.find? fun x => x.1 == team with | some x => x.2 | none => 0
    bytesLE 8 (c.copyQ.length + 2 ^ 8 * min 31 c.copies.length + 2 ^ 32 * (gone % 2 ^ 32))
  else if off < 0x100000 then
    let n := (off - 0x1000) / 8
    match seatAt c team with
    | some x => bytesLE 8 ((List.range 64).foldl (fun v i => if x.absent.contains (64 * n + i) then v else v + 2 ^ i) 0)
    | none => bytesLE len 0
  else sharedBytes s k team (off - 0x100000) len

/-- A request's result has come back, with the marks of what it read (R203). -/
def setReply (s : State) (id : Nat) (bs : List Byte) (poison : Bool) : State :=
  modReq s id fun x => { x with reply := some (bs, poison), seen := marksAt s x.loc x.len }

/-- A request of a shared line or of the control window is performed at the owning core as it is sent (R191, R240). -/
def sharedPerform (s : State) (r : Req) (k : CoreId) (t off : Nat) : State :=
  let back := fun (s : State) (bs : List Byte) => setReply s r.id bs (sharedPoison s k t off r.len)
  let put := fun (s : State) (bs : List Byte) => publishAt (sharedPut s k t off bs) r.loc r.len r.mark
  match r.op with
  | .load .. => if 2 ^ 32 ≤ off then setReply s r.id (controlRead s k t (off - 2 ^ 32) r.len) false else back s (sharedBytes s k t off r.len)
  | .store data => dropReq (put s data) r.id
  | .atomic op v parts rets =>
    let old := sharedBytes s k t off r.len
    let new := bytesLE r.len (atomNew op (BitVec.ofNat 64 (natLE old)) v parts).toNat
    if rets.isEmpty then dropReq (put s new) r.id else put (back s old) new
  | .cas _ cmp new _ =>
    let old := sharedBytes s k t off r.len
    let s := back s old
    if BitVec.ofNat 64 (natLE old) = cmp then put s (bytesLE r.len new.toNat) else s
  | .fill | .engine .. | .fence .. | .kick => s

/-- The engine's queue has room for `n` more requests. -/
def queueRoom (s : State) (k : CoreId) (n : Nat) : Bool := (coreAt s k).copyQ.length + n ≤ Config.copyQueue

/-- A copy request enters the engine's queue: its 64 bytes with its issuer's identity; the engine inherits the issuer's
state at CORE scope (R203, R242). -/
def kickQueue (s : State) (r : Req) (k : CoreId) (t off : Nat) : State :=
  let (s, m) := makeMark s r.who r.id
  let q : CopyReq := { id := r.id, raw := BitVec.ofNat 512 (natLE (sharedBytes s k t off 64)), team := t, ctx := r.ctx, who := r.who,
                       place := r.place, agent := r.agent, gone := r.gone, mark := m, wisn := r.wisn, pc := r.pc }
  modCore s k fun c => { c with copyQ := c.copyQ ++ [q] }

/-- What a write publishes as it is sent: a release its agent's state, another write that of the agent's last fence
(R202, R203). -/
def sendMarks (s : State) (r : Req) : State × List Nat :=
  match r.op with
  | .store _ | .atomic .. | .cas .. => if r.isRel then makeMark s r.who r.id else (s, pubOf s r.who)
  | _ => (s, [])

/-- A request is sent: it takes its place in the order of sending, drops L1 lines, and is performed at once when its
home is a core (R191, R197). An access that waited for it to be sent waits no more, unless it is to return first. -/
def sendReq (s : State) (id : Nat) : State :=
  match reqAt s id with
  | none => s
  | some r =>
    let (s, ms) := sendMarks s r
    let r := { r with held := false, rel := none, after := [], mark := ms }
    let free := fun (x : Req) => match r.op with | .load .. => x | _ => { x with after := x.after.erase id }
    let s := { s with reqs := (s.reqs.filter fun x => x.id != id).map free ++ [r] }
    match r.loc, r.op with
    | .shared k t off, .kick => kickQueue s r k t off
    | .shared k t off, _ => sharedPerform s r k t off
    | .dev c, _ => if isWrite r.op then dropL1 s r.core ((linesOf c r.len)) else s
    | _, _ => s

/-- A write of a copy engine. -/
def isEngine : ReqOp → Bool
  | .engine .. => true
  | _ => false

/-- Nothing of its own agent holds a request back: only the order of its core, and its tokens or its engine's queue. -/
def sendable (r : Req) : Bool := r.held && r.rel.isNone && r.after.isEmpty

/-- A request stands behind an earlier one of its core that is not yet sent (R197, R367). A write of the copy engine holds
back only the engine's writes, and a copy request that finds no room only its own agent. -/
def behind (s : State) (r : Req) : Bool :=
  (s.reqs.takeWhile fun a => a.id != r.id).any fun a => a.core == r.core && sendable a &&
    (match a.op with | .engine .. => isEngine r.op | .kick => a.who == r.who | _ => true)

/-- A request takes tokens of a metered bucket as it is sent (R365, R366). -/
def needsTokens (s : State) (r : Req) : Bool :=
  r.cost != 0 && isRemote r.core r.loc && bucketSize s r.ctx (tokenClass r.op) != 0

/-- A copy request finds its engine's queue full (R242). -/
def kickWaits (s : State) (r : Req) : Bool := match r.op with | .kick => !queueRoom s r.core 1 | _ => false

/-- A request that nothing holds is sent; one that takes tokens, or stands behind another, waits for TOKEN_SEND (R367). -/
def trySend (s : State) (id : Nat) : State :=
  match reqAt s id with
  | none => s
  | some r => if !sendable r || behind s r || needsTokens s r || kickWaits s r then s else sendReq s id

/-- Requests that waited for another one are sent. -/
def releaseAfter (s : State) (id : Nat) : State :=
  let ids := (s.reqs.filter fun r => r.after.contains id).map fun r => r.id
  let s := { s with reqs := s.reqs.map fun r => { r with after := r.after.erase id } }
  ids.foldl trySend s

/-- A request ends. -/
def endReq (s : State) (id : Nat) : State := releaseAfter (dropReq s id) id

/-- What a new request adds to its issuer. -/
structure NewReq where
  loc : Loc
  len : Nat
  op : ReqOp
  lease : Nat := 512
  cost : Nat := 0
  group : Nat := 0
  rel : Option Scope := none
  /-- It is a release (R198). -/
  isRel : Bool := false
  after : List Nat := []
  ovr : List (Nat × Byte) := []
  /-- The bytes of an L1 hit, and the marks that its fill read: the request is not sent. -/
  hit : Option (List Byte × List Nat) := none
  va : W64 := 0
  lanes : LaneMask := 1
  /-- The issuer's later waits cover it. -/
  own : Bool := true

/-- A request made, and sent unless something holds it. -/
def newReq (s : State) (q : Issue) (n : NewReq) : State :=
  let (s, id) := freshId s
  let after := n.after.filter fun a => (reqAt s a).isSome
  let r : Req :=
    { id := id, who := q.who, place := q.place, agent := q.agent, lanes := n.lanes, issuers := [q.who],
      owners := if n.own then [q.who] else [], core := q.k, team := q.team, ctx := q.ctx, wisn := q.wisn, pc := q.pc,
      loc := n.loc, len := n.len, op := n.op, lease := n.lease, held := n.hit.isNone, cost := n.cost, group := n.group,
      rel := n.rel, isRel := n.isRel, after := after, ovr := n.ovr, reply := n.hit.map fun h => (h.1, false),
      seen := (n.hit.map (·.2)).getD [], va := n.va }
  let s := { s with reqs := s.reqs ++ [r] }
  match n.op with
  | .fence .. => s
  | _ => trySend s id

/-- The line of a place. -/
def locLine : Loc → Loc
  | .dev c => .dev (c / 128)
  | .host a => .host (a / 128)
  | .peer p a => .peer p (a / 128)
  | .shared k t o => .shared k t (o / 128)

/-- Token costs of an op's accesses: one for the first access of each line (R365). -/
def costsBy {α : Type} (place : α → Loc) (ps : List α) : List (α × Nat) :=
  (ps.foldl (fun (r : List (α × Nat) × List Loc) p =>
    let l := locLine (place p)
    if r.2.contains l then (r.1 ++ [(p, 0)], r.2) else (r.1 ++ [(p, 1)], l :: r.2)) ([], [])).1

/-- The token costs of the placed accesses of an op. -/
def lineCosts (ps : List Placed) : List (Placed × Nat) := costsBy (·.loc) ps

/-! ## L1 hits (R192) -/

/-- An access of the agent to some of the bytes is not performed: a hit would pass it (R201). A store of its core that has been
sent has dropped the line (R197). -/
def hitPasses (s : State) (q : Issue) (l : Loc) (n : Nat) : Bool :=
  s.reqs.any fun r => r.reply.isNone && r.issuers.contains q.who &&
    (match r.op with | .fill | .fence .. | .kick | .engine .. => false | _ => locMeets r.loc r.len l n)

/-- The bytes of an L1 hit, and the marks that its fill read: the line is present, TICK is below its expiry, the reader
holds no provisional effect on the line, and the hit passes no earlier access (R192, R201, R276). -/
def l1Hit (s : State) (q : Issue) (l : Loc) (len : Nat) : Option (List Byte × List Nat) :=
  match l with
  | .dev c =>
    let mine := match heldTag s q.team with
      | some (j, i) => s.held.any fun h => h.join == j && h.member == i && h.word / 32 == lineOf c
      | none => false
    if mine || hitPasses s q l len then none
    else
      match (coreAt s q.k).l1.find? fun x => x.line == lineOf c && decide (s.tick < x.e) with
      | some x => some (bytesLE len (x.data.toNat / 2 ^ (8 * (c % 128))),
          (x.syncs.filter fun y => locMeets y.loc y.len l len).map (·.mark))
      | none => none
  | _ => none

/-- One load access made a request; an L1 hit has its reply at once. A CORE-scope acquire that misses is read at home, and
is no fill (R192, R199; log entry 75). -/
def newLoad (s : State) (q : Issue) (keep acq : Bool) (sc : Scope) (p : Placed) (cost : Nat) (d : Dest)
    (after : List Nat) (group : Nat) (ovr : List (Nat × Byte)) : State :=
  let hit := if after.isEmpty && keep && (!acq || sc == Scope.core) then l1Hit s q p.loc p.len else none
  newReq s q { loc := p.loc, len := p.len, op := .load (keep && !acq) acq d, lease := p.lease,
               cost := if hit.isSome then 0 else cost, group := group, after := after, ovr := ovr,
               hit := hit, va := p.va, lanes := 1#32 <<< p.lane.val }

/-! ## Warps: the frame of a memory op -/

/-- The environment of a fragment's op at its end: guard, lanes and registers as they are (R226). -/
def againEnv (i : Instr) (g : Guard) (k : CoreId) (f : FragId) (s : State) : Option WarpEnv :=
  match fragAt (coreAt s k) f with
  | none => none
  | some x =>
    match warpAt (coreAt s k) x.warp with
    | none => none
    | some w =>
      some { i := i, k := k, f := f, x := x, w := { w with wisn := x.num }, parts := partsOf w x.mask g,
             tile := selTile (coreAt s k) w }

/-- A waiting op is done again under the selection that it issued under (R183). -/
def withSel (s : State) (k : CoreId) (f : FragId) (body : State → Out) : Out :=
  match fragAt (coreAt s k) f with
  | none => body s
  | some x =>
    match (warpAt (coreAt s k) x.warp).bind fun w => (w.sels.find? fun p => p.1 == f).map fun p => (w, p.2) with
    | none => body s
    | some (w, sel) =>
      let now : CycleRegs := { fpctl := w.fpctl, fpstat := w.fpstat, tbase := w.tbase, sel := sel }
      match body (onWarp s k x.warp fun y => { y with now := some now }) with
      | .next t => .next (onWarp t k x.warp fun y => { y with now := w.now })
      | o => o

/-- A fragment parks at the op, or takes a pending kill instead (R285). -/
def parkFrag (s : State) (e : WarpEnv) (p : Park) : Out :=
  if warpKill s e then .next (takeKill s e) else .next (onFrag s e.k e.f fun x => { x with state := .parked p })

/-- A fragment waits in WAIT at the op; `park`: the wait is a park (R285). -/
def waitFrag (s : State) (e : WarpEnv) (c : WaitFor) (park : Bool) : Out :=
  if park && warpKill s e then .next (takeKill s e)
  else .next (onFrag s e.k e.f fun x => { x with state := .wait e.i c })

/-- Ownership and poison of an op's registers: R222 places OWN first and does not place SEH, which the model raises after OWN and before
MEMV (DESIGN CHOICE, log entry 40). -/
def regTrap (e : WarpEnv) (srcs dsts : List Reg) : Option TrapInfo :=
  match windowTrap e (srcs ++ dsts) with
  | some t => some t
  | none => poisonTrap e srcs dsts

/-- The lanes whose translation faulted split off and park, or the whole fragment does; the continuing environment, if
any lanes continue (R223). -/
def faultSplit (s : State) (e : WarpEnv) (q : Issue) (r : Located) : State × Option WarpEnv :=
  let faulty := accLanes (r.pager ++ r.bad.map (·.1))
  let park := fun (s : State) (f : FragId) (whole : Bool) => match r.bad with
    | (a, n) :: _ => warpTrap s e.k f (trapMemv a.va n (accLanes (r.bad.map (·.1))) q.unit)
    | [] => onFrag s e.k f fun x =>
        { x with state := if warpKill s e then .stopped else .parked (.fault (r.pager.map fun a => (a.lane, a.va)) whole) }
  let gs := groupLanes e.x.mask fun l => laneIn faulty l
  if gs.length ≤ 1 then (park s e.f false, none)
  else
    match splitFrag (coreAt s e.k) e.f (gs.map fun g => (g.1, id)) with
    | none => (park s e.f true, none)
    | some (c, ids) =>
      let s := shareOwners (setCore s e.k c) e.k e.f (ids.drop 1)
      let tagged := ids.zip gs
      let pf := (tagged.find? fun p => p.2.2).elim e.f (·.1)
      let cf := (tagged.find? fun p => !p.2.2).elim e.f (·.1)
      let cm := (tagged.find? fun p => !p.2.2).elim 0 (·.2.1)
      let s := park s pf false
      (s, (fragAt (coreAt s e.k) cf).map fun x => { e with f := cf, x := x, parts := e.parts &&& cm })

/-- A memory op of a warp (R222, R223): its registers, its checks, the wait of a release, presence, translation and
split, the budget, and then what it performs for the lanes that have a place. -/
def warpMem (e : WarpEnv) (s : State) (kind : MemKind) (log : Nat) (irr : Bool) (rel : Option Scope)
    (srcs dsts : List Reg) (as : List Acc) (perform : WarpEnv → State → List Placed → State) : Out :=
  let q := warpIssue s e
  match regTrap e srcs dsts with
  | some t => warpFault s e t
  | none =>
    match checkAccs s q e.i kind log irr as with
    | some t => warpFault s e t
    | none =>
      let wait := match rel with
        | some sc => if waitDone s q.who sc (owned s q.who) then none else some sc
        | none => none
      match wait with
      | some sc => waitFrag s e (.release sc) false
      | none =>
        let absent := if kind == .load then as.flatMap (absentLines s q) else []
        if !absent.isEmpty then parkFrag s e (.presence absent.eraseDups)
        else
          let r := locate s q kind as
          if r.wait then .next (uncount s e)
          else if kind != .load && memberRunning s q.team && touchesSys r then
            warpFault s e (trapProv e.i true q.unit)
          else if kind != .load && overBudget s q.team (devLines r.ok) then parkFrag s e .budget
          else
            let s := noteWalks s q r.ok
            let go := fun (s : State) (e : WarpEnv) =>
              let (s, hit) := observe s (warpIssue s e) kind r.ok
              let s := if hit then noteWatch s (.frag e.k e.f) else s
              warpAdvance (onFrag (perform e s r.ok) e.k e.f fun x => { x with state := .ready }) e
            if r.pager.isEmpty && r.bad.isEmpty then .next (go s e)
            else
              match faultSplit s e q r with
              | (s, none) => .next s
              | (s, some e') => .next (go s e')

/-! ## Strands: the frame of a memory slot -/

/-- Requests of slot 6 of this bundle that slot 7's accesses wait for (R227). -/
def slotOrder (s : State) (e : StrandEnv) : List Nat :=
  if e.slot.val ≠ 7 then []
  else
    (s.reqs.filter fun r => r.who == .strand e.k e.n && r.pc == tpcSlot e.st.pc 6 && r.wisn == BitVec.ofNat 64 e.st.clock &&
      (r.rel.isSome || (match r.op with | .load _ true _ => true | .fence .. => true | _ => false))).map fun r => r.id

/-- A bundle waits for the pager, or takes MEMV when the fill of the page has failed (R127, R217, R223). -/
def strandPager (s : State) (e : StrandEnv) (va : W64) : Out :=
  if e.st.failed = some (va.toNat / 4096) then strandFault s e (trapMemv va 5 1 e.slot.val)
  else strandStall s e (.pager va)

/-- A memory op of a strand (R127, R222, R227): checks, presence, translation, the budget, and what it performs. -/
def strandMem (e : StrandEnv) (s : State) (kind : MemKind) (log : Nat) (irr : Bool) (as : List Acc)
    (perform : State → List Placed → Out) : Out :=
  let q := strandIssue s e
  match checkAccs s q e.i kind log irr as with
  | some t => strandFault s e t
  | none =>
    let absent := if kind == .load then as.flatMap (absentLines s q) else []
    if !absent.isEmpty then strandStall s e (.presence absent.eraseDups)
    else
      let r := locate s q kind as
      if r.wait then strandStall s e .landing
      else if kind != .load && memberRunning s q.team && touchesSys r then strandFault s e (trapProv e.i true q.unit)
      else
      match r.bad, r.pager with
      | (a, n) :: _, _ => strandFault s e (trapMemv a.va n 1 q.unit)
      | [], a :: _ => strandPager s e a.va
      | [], [] =>
        if kind != .load && overBudget s q.team (devLines r.ok) then strandStall s e .budget
        else
          let (s, hit) := observe (noteWalks s q r.ok) q kind r.ok
          perform (if hit then noteWatch s q.who else s) r.ok

/-- A place as the store queue holds it: a ring window reads the block's shared bytes (R240). -/
def queueLoc : Loc → Loc
  | .shared k t o => if 2 ^ 32 + 0x100000 ≤ o then .shared k t (o - 2 ^ 32 - 0x100000) else .shared k t o
  | l => l

/-- Bytes of the strand's own store queue over a range, those of an earlier slot of the bundle among them: offset and
byte (R16, R311). -/
def queuedBytes (s : State) (e : StrandEnv) (l : Loc) (n : Nat) : List (Nat × Byte) :=
  let (w, a) := locKey (queueLoc l)
  let queue := match strandAt (coreAt s e.k) e.n with | some x => x.queue | none => []
  queue.flatMap fun q =>
    let (w', b) := locKey q.loc
    if w' ≠ w then []
    else (q.data.zip (List.range q.data.length)).filterMap fun p =>
      if a ≤ b + p.2 && b + p.2 < a + n then some (b + p.2 - a, p.1) else none

/-- Bytes with some of them replaced. -/
def putBytes (bs : List Byte) (ps : List (Nat × Byte)) : List Byte := ps.foldl (fun bs p => bs.set p.1 p.2) bs

/-- The 128-byte lines of a store queue. -/
def queueLines (qs : List SegStore) : List Nat := (qs.map fun q => q.va.toNat / 128).eraseDups

/-- Stores held in the open segment's queue, or SEGOVF of a 65th line (R311). -/
def segPush (s : State) (e : StrandEnv) (new : List SegStore) : Out :=
  match strandAt (coreAt s e.k) e.n with
  | none => .next s
  | some st =>
    if (queueLines (st.queue ++ new)).length > 64 then
      strandFault s e { cls := .segovf, synd := 2, unit := e.slot.val }
    else
      let new := (costsBy (·.loc) new).map fun p => { p.1 with cost := p.2 }
      .next (onStrand s e.k e.n fun x => { x with queue := x.queue ++ new })

/-- Every store of a strand has been performed (R309). -/
def storesDone (s : State) (k : CoreId) (n : StrandId) : Bool :=
  s.reqs.all fun r => !(r.who == .strand k n && (match r.op with | .store _ => true | _ => false))

/-- The queued stores of a closing segment are sent in program order, each when the one before it has been performed (R309). -/
def sendQueue (s : State) (k : CoreId) (n : StrandId) : State :=
  match strandAt (coreAt s k) n with
  | none => s
  | some st =>
    st.queue.foldl (fun s w =>
      if !storesDone s k n then onStrand s k n fun x => { x with queue := x.queue ++ [w] } else
      let q : Issue := { who := .strand k n, place := none, k := k, team := st.team, ctx := teamCtx s st.team, away := false,
                         wisn := w.wisn, pc := w.pc, unit := 6, agent := 64 + n.val }
      newReq s q { loc := w.loc, len := w.data.length, op := .store w.data, lease := w.lease, va := w.va,
                   cost := if isRemote k w.loc then w.cost else 0 }) (onStrand s k n fun x => { x with queue := [] })

/-- The segment of a strand ends (R309). -/
def closeSegment (s : State) (k : CoreId) (n : StrandId) : State :=
  onStrand s k n fun x => { x with segOpen := false, rewound := false, queue := [], undo := [], segSets := [] }

/-- The state in which the queued stores of a segment have been performed: what a closing op would find (R309). -/
def withQueue (s : State) (k : CoreId) (n : StrandId) : State :=
  match strandAt (coreAt s k) n with
  | none => s
  | some st =>
    st.queue.foldl (fun s w =>
      match w.loc with
      | .shared k' t off => sharedPut s k' t off w.data
      | .host a => { s with host := memPut s.host a w.data }
      | .peer .. => s
      | .dev c =>
        match heldTag s st.team with
        | some (j, i) => heldStore s j i c w.data
        | none => (homeStore s c w.data).1) (onStrand s k n fun x => { x with queue := [] })

end Sys2Proof.Machine
end

