-- ==== Sys2Proof/Machine/Own.lean ====
section
/-! DEFINITION. Tile ownership: GIVE, TAKE, TTRY, TSEL and TOWN, and the end of a waiting TAKE (R150 to R155, R179 to
R185, R305). -/

namespace Sys2Proof.Machine

/-! ## The recipient and the pending writes -/

/-- A holder code names a live warp or strand of a team on a core (R180). -/
def liveHolder (c : Core) (team : Nat) (code : BitVec 7) : Bool :=
  if code.toNat < 64 then
    match warpAt c (Fin.ofNat 68 code.toNat) with
    | some w => w.team == team && !w.gone
    | none => false
  else if code.toNat < 72 then
    match strandAt c (Fin.ofNat 8 (code.toNat - 64)) with
    | some x => x.team == team
    | none => false
  else false

/-- The agents that a holder code stands for. -/
def holderAgents (c : Core) (k : CoreId) (code : BitVec 7) : List AgentRef :=
  if code.toNat < 64 then (liveFrags c (Fin.ofNat 68 code.toNat)).map fun f => .frag k f
  else [.strand k (Fin.ofNat 8 (code.toNat - 64))]

/-- What a pending result does to a team tile; none for another tile or register. -/
def pendTile (t : Nat) (x : Tile) (p : Pend) : Option Tile :=
  match p.dst with
  | .tile u mx v => if u = t then some { x with data := v, arrive := max x.arrive p.arrive, mx := if mx then max x.mx p.arrive else x.mx }
    else none
  | .bytes u off v => if u = t then some { x with data := tilePut x.data off v, arrive := max x.arrive p.arrive } else none
  | _ => none

/-- A pending result names a team tile. -/
def pendNames (t : Nat) (p : Pend) : Bool :=
  match p.dst with
  | .tile u _ _ => u == t
  | .bytes u _ _ => u == t
  | _ => false

/-- A result put among others in the order in which they land. -/
def landPut (p : Pend) : List Pend → List Pend
  | [] => [p]
  | q :: qs => if p.due < q.due then p :: q :: qs else q :: landPut p qs

/-- Results in the order in which they land: by due clock, and as they issued at one clock (R19). -/
def landOrder (ps : List Pend) : List Pend := ps.foldl (fun r p => landPut p r) []

/-- Two results write one register or one tile. -/
def sameDst (p q : Pend) : Bool :=
  match p.dst, q.dst with
  | .sreg a _, .sreg b _ => a == b
  | .pred a _, .pred b _ => a == b
  | .twb _, .twb _ | .mxcfg _, .mxcfg _ => true
  | .tile t _ _, _ | .bytes t _ _, _ => pendNames t q
  | _, _ => false

/-- The strand's pending writes into a tile are carried with it, and leave the strand's view (R152, R153). -/
def carryTile (s : State) (k : CoreId) (n : StrandId) (t : Nat) : State :=
  match strandAt (coreAt s k) n with
  | none => s
  | some st =>
    let s := modCore s k fun c => modTile c st.team t fun x => (landOrder st.pend).foldl (fun x p => (pendTile t x p).getD x) x
    onStrand s k n fun y => { y with pend := y.pend.filter fun p => !pendNames t p }

/-- The pending writes into tiles that the strand has given away are carried with them (R152). -/
def carryGiven (s : State) (k : CoreId) (n : StrandId) : State :=
  match strandAt (coreAt s k) n with
  | none => s
  | some st =>
    let away := fun (t : Nat) => match tileAt (coreAt s k) st.team t with
      | some y => y.owner != ownHeld (holderStrand n)
      | none => false
    (st.pend.filterMap fun p => match p.dst with
      | .tile t _ _ | .bytes t _ _ => if away t then some t else none
      | _ => none).foldl (fun s t => carryTile s k n t) s

/-- The tile that a request's result will be written to. -/
def reqTile (r : Req) : Option Nat :=
  let of_ : Dest → Option Nat := fun d => match d with | .tile t _ => some t | .row t _ _ _ _ => some t | _ => none
  match r.op with
  | .load _ _ d => of_ d
  | .cas _ _ _ d => of_ d
  | .atomic _ _ _ rets => rets.findSome? fun x => of_ x.1
  | _ => none

/-- A load, TLD or atomic of a team has not yet landed in a tile. -/
def tldPending (s : State) (k : CoreId) (team t : Nat) : Bool :=
  s.reqs.any fun r => r.core == k && r.team == team &&
    reqTile r == some t

/-- Every write pending into a tile has physically arrived before this cycle (R153). -/
def tileArrived (s : State) (k : CoreId) (team t : Nat) (x : Tile) : Bool :=
  let c := coreAt s k
  x.arrive < c.cycle && !tldPending s k team t &&
    allStrands.all fun n => match strandAt c n with
      | some st => st.team != team || st.pend.all fun p => !pendNames t p || p.arrive < c.cycle
      | none => true

/-- What TAKE finds (R181). -/
inductive TakeRes where
  | done
  | wait
  | own (field : BitVec 9)
  deriving DecidableEq, Repr, Inhabited

/-- The wait of the GIVE, as a CORE-scope release: what its marks stand for has been sent, and its loads have returned. Writes of a
strand's own GIVE bundle may still be on their way when the tile is offered (R152, R180, R198). -/
def giveReleased (s : State) (x : Tile) : Bool :=
  s.reqs.all fun r => !r.marks.any x.mark.contains || (!r.held && !returnsValue r)

/-- The table of R181 for a taker, in this cycle. -/
def takeRes (s : State) (k : CoreId) (team t : Nat) (h : BitVec 7) (x : Tile) : TakeRes :=
  if x.owner = ownHeld h then .done
  else if x.owner = ownOffered h then
    if x.given < (coreAt s k).cycle && tileArrived s k team t x && giveReleased s x then .done else .wait
  else if x.owner = ownFree then (if tileArrived s k team t x then .done else .wait)
  else if x.owner.extractLsb' 7 2 = 0b10#2 then .own x.owner
  else .wait

/-- The tile becomes HELD by the taker. -/
def holdTile (s : State) (k : CoreId) (team t : Nat) (h : BitVec 7) : State :=
  modCore s k fun c => modTile c team t fun x => { x with owner := ownHeld h, mark := [] }

/-- A TAKE or TTRY completes: the taker holds the tile, and acquires what the GIVE that offered it released (R153, R203). -/
def takeTile (s : State) (k : CoreId) (team t : Nat) (h : BitVec 7) (x : Tile) (who : AgentRef) : State :=
  holdTile (if x.owner = ownOffered h then acquireMarks s who x.mark else s) k team t h

/-- The SEH of a tile that is suspect or poisoned, consumed by some lanes (R298, R305). -/
def tileSeh (t : Nat) (x : Tile) (lanes : LaneMask) : TrapInfo :=
  if x.suspect then { cls := .seh, code := 0, synd := x.gap, unit := 2, coord := tileCoord t x }
  else { cls := .seh, code := 1, synd := (1#1 ++ 0#31 : W32) ++ lanes, unit := x.unit, coord := tileCoord t x }

/-- A warp's TAKE completes: the tile is held, and a suspect or poisoned one enters the SEH handler; delivery clears
the suspect mark. `lanes`: those that take part in the op (R298, R305). -/
def takeDone (s : State) (k : CoreId) (f : FragId) (t : Nat) (lanes : LaneMask) : State :=
  match fragAt (coreAt s k) f with
  | none => s
  | some x =>
    match warpAt (coreAt s k) x.warp with
    | none => s
    | some w =>
      match tileAt (coreAt s k) w.team t with
      | none => s
      | some y =>
        let s := takeTile s k w.team t (holderWarp x.warp) y (.frag k f)
        if y.suspect || y.poison then
          let s := modCore s k fun c => modTile c w.team t fun z =>
            { z with suspect := false, gap := 0, spot := if z.poison then z.spot else 0 }
          warpTrap (onFrag s k f fun z => { z with state := .ready }) k f (tileSeh t y lanes)
        else onFrag s k f fun z => { z with state := .ready, pc := z.pc + 4 }

/-! ## The ops -/

/-- The team tile number of a strand's tile field (R9). -/
def tileNum (e : StrandEnv) (a : Reg) : Nat := (viewTwb e.st).toNat + a.toNat

/-- An OWN trap of an ownership op. -/
def ownTrap (t : Nat) (field : BitVec 9) (unit : Nat) : TrapInfo := trapOwn t field unit

/-- GIVE of a tile by a holder to a recipient code: OWN, or the offer with the giver's state (R152, R180, R203). -/
def giveTile (s : State) (c : Core) (k : CoreId) (team t : Nat) (h r : BitVec 7) (me : AgentRef) (unit : Nat) :
    Except TrapInfo State :=
  match tileAt c team t with
  | none => .error (ownTrap t 0 unit)
  | some x =>
    if x.owner ≠ ownHeld h || !liveHolder c team r then .error (ownTrap t x.owner unit)
    else
      let (s, ms) := makeMark s me s.nextId
      .ok (modCore s k fun c => modTile c team t fun y => { y with owner := ownOffered r, given := c.cycle, mark := ms })

/-- GIVE of a warp: a CORE-scope release, after its wait (R152, R198, R201). -/
def warpGive (a b : Reg) (e : WarpEnv) (s : State) : Out :=
  once e s [a, b] [] fun l =>
    if e.w.away.isSome then warpFault s e (ownTrap (readReg e l a).toNat 0 8)
    else
      match giveTile s (coreAt s e.k) e.k e.w.team (readReg e l a).toNat (holderWarp e.x.warp)
          ((readReg e l b).extractLsb' 0 7) (.frag e.k e.f) 8 with
      | .error t => warpFault s e t
      | .ok t =>
        if waitDone s (.frag e.k e.f) .core (owned s (.frag e.k e.f)) then
          .next (warpAdvance (onFrag t e.k e.f fun x => { x with state := .ready }) e)
        else .next (onFrag s e.k e.f fun x => { x with state := .wait e.i (.release .core) })

/-- The accesses that a strand made before the bundle at PC. -/
def ownedBefore (s : State) (e : StrandEnv) : List Req :=
  (owned s (.strand e.k e.n)).filter fun r => !(r.who == .strand e.k e.n && r.wisn == BitVec.ofNat 64 e.st.clock)

/-- GIVE (R152, R180). A strand's bundle waits for the accesses of earlier bundles; those of its own join the release when its
slots have issued. -/
def execGive (g : Guard) (a b : Reg) (s : State) : Out :=
  asOp (.give g a b) g s (warpGive a b) fun e s =>
    match giveTile s e.c e.k e.st.team (tileNum e a) (holderStrand e.n) ((opB e b).extractLsb' 0 7)
        (.strand e.k e.n) 4 with
    | .error t => strandFault s e t
    | .ok t =>
      if waitDone s (.strand e.k e.n) .core (ownedBefore s e) then .next (markFx t e fun x => { x with close := true, gave := some (tileNum e a) })
      else strandStall s e .landing

/-- The accesses of a bundle that has given a tile away join that release (R180). -/
def extendGiven (s : State) (k : CoreId) (n : StrandId) : State :=
  match strandAt (coreAt s k) n with
  | none => s
  | some st =>
    match st.fx.gave with
    | none => s
    | some t =>
      let (s, ms) := makeMark s (.strand k n) s.nextId
      modCore s k fun c => modTile c st.team t fun y => { y with mark := y.mark ++ ms }

/-- TAKE (R153, R181): a fragment waits in WAIT, a strand's bundle stalls; a waiting TAKE is a park (R285). -/
def execTake (g : Guard) (a : Reg) (s : State) : Out :=
  asOp (.take g a) g s
    (fun e s => once e s [a] [] fun l =>
      let t := (readReg e l a).toNat
      match if e.w.away.isSome then none else tileAt (coreAt s e.k) e.w.team t with
      | none => warpFault s e (ownTrap t 0 8)
      | some x =>
        match takeRes s e.k e.w.team t (holderWarp e.x.warp) x with
        | .own field => warpFault s e (ownTrap t field 8)
        | .done => .next (takeDone s e.k e.f t e.parts)
        | .wait =>
          if warpKill s e then .next (takeKill s e)
          else .next (onFrag s e.k e.f fun z => { z with state := .wait (.take g a) (.take t) }))
    fun e s =>
      let t := tileNum e a
      match tileAt e.c e.st.team t with
      | none => strandFault s e (ownTrap t 0 4)
      | some x =>
        match takeRes s e.k e.st.team t (holderStrand e.n) x with
        | .own field => strandFault s e (ownTrap t field 4)
        | .wait => strandStall s e (.take t)
        | .done =>
          let s := carryTile (takeTile s e.k e.st.team t (holderStrand e.n) x (.strand e.k e.n)) e.k e.n t
          .next (markFx s e fun x => { x with close := true })

/-- TTRY: TAKE's table in one cycle (R182). -/
def execTtry (g : Guard) (pd : Pred) (a : Reg) (s : State) : Out :=
  asOp (.ttry g pd a) g s
    (fun e s => once e s [a] [] fun l =>
      let t := (readReg e l a).toNat
      match if e.w.away.isSome then none else tileAt (coreAt s e.k) e.w.team t with
      | none => warpFault s e (ownTrap t 0 8)
      | some x =>
        let ok := takeRes s e.k e.w.team t (holderWarp e.x.warp) x == .done
        let s := if ok then takeTile s e.k e.w.team t (holderWarp e.x.warp) x (.frag e.k e.f) else s
        let s := writeLanes s e.k e.x.warp e.parts 2 fun _ => { preds := [(pd, ok)] }
        .next (warpAdvance (setScore s e.k e.f [] [pd] 2) e))
    fun e s =>
      let t := tileNum e a
      match tileAt e.c e.st.team t with
      | none => strandFault s e (ownTrap t 0 4)
      | some x =>
        let ok := takeRes s e.k e.st.team t (holderStrand e.n) x == .done
        let s := if ok then carryTile (takeTile s e.k e.st.team t (holderStrand e.n) x (.strand e.k e.n)) e.k e.n t else s
        .next (markFx (pendAdd s e 1 (.pred pd ok)) e fun x => { x with close := true })

/-- The selections under which the waiting ops of a warp's fragments issued, as a TSEL is about to change it (R183). -/
def keepSels (c : Core) (ix : WarpIx) (w : Warp) : List (FragId × Option Nat) :=
  ((liveFrags c ix).filter fun f => (fragAt c f).any fun x => match x.state with
    | .wait .. | .halted _ (.wait ..) => true
    | _ => false).map fun f => (w.sels.find? fun p => p.1 == f).getD (f, (atCycle w).sel)

/-- TSEL: the warp's window (R183). -/
def execTsel (g : Guard) (a : Reg) (s : State) : Out :=
  warpOp (.tsel g a) g s fun e s => once e s [a] [] fun l =>
    let t := (readReg e l a).toNat
    let sel := fun v => .next (warpAdvance (onWarp s e.k e.x.warp fun w =>
      { w with sel := v, sels := keepSels (coreAt s e.k) e.x.warp w }) e)
    if e.w.away.isSome then warpFault s e (ownTrap t 0 8)
    else if 0x80000000 ≤ t then sel none
    else if (tileAt (coreAt s e.k) e.w.team t).isSome then sel (some t)
    else warpFault s e (ownTrap t 0 8)

/-- The owner field as TOWN reads it (R184, R185). -/
def townField (x : Option Tile) : BitVec 32 := match x with | some y => 0#23 ++ y.owner | none => 0x200#32

/-- TOWN (R184). -/
def execTown (g : Guard) (d a : Reg) (s : State) : Out :=
  asOp (.town g d a) g s
    (fun e s => once e s [a] [d] fun l =>
      let v := townField (if e.w.away.isSome then none else tileAt (coreAt s e.k) e.w.team (readReg e l a).toNat)
      let s := writeLanes s e.k e.x.warp e.parts 2 fun _ => { regs := [(d, v)] }
      .next (warpAdvance (setScore s e.k e.f [d] [] 2) e))
    fun e s => .next (pendAdd s e 1 (.sreg d (0#32 ++ townField (tileAt e.c e.st.team (tileNum e a)))))

/-- TAKE_COMPLETE: the table is applied again; the tile becomes held, or the TAKE traps. A strand's bundle issues anew: its
TAKE then completes, and its other slots check ownership as it stands at that start (R153, R181). -/
def execTakeComplete (who : AgentRef) (s : State) : Out :=
  match who with
  | .frag k f =>
    match fragAt (coreAt s k) f with
    | some { state := .wait i (.take t), warp := ix, mask := m, .. } =>
      match warpAt (coreAt s k) ix with
      | none => .refused .notEnabled
      | some w =>
        match tileAt (coreAt s k) w.team t with
        | none => .refused .notEnabled
        | some x =>
          match takeRes s k w.team t (holderWarp ix) x with
          | .wait => .refused .notEnabled
          | .own field => .next (warpTrap (onFrag s k f fun z => { z with state := .ready }) k f (ownTrap t field 8))
          | .done => .next (takeDone s k f t (partsOf w m (fGuard i.encode)))
    | _ => .refused .notEnabled
  | .strand k n =>
    match strandAt (coreAt s k) n with
    | some st =>
      match st.stall with
      | some (.take t) =>
        match tileAt (coreAt s k) st.team t with
        | none => .refused .notEnabled
        | some x =>
          match takeRes s k st.team t (holderStrand n) x with
          | .wait => .refused .notEnabled
          | .own _ | .done => .next (onStrand s k n fun y => { y with stall := none })
      | _ => .refused .notEnabled
    | none => .refused .notEnabled

end Sys2Proof.Machine
end

