-- ==== Sys2Proof/Machine/Home.lean ====
section
/-! DEFINITION. What happens at a home slice and on the way back from it: fills, writes, atomics, replies, evictions,
tokens and peers (R193 to R208, R365 to R369). -/

namespace Sys2Proof.Machine

/-! ## Imprecise records (R318 to R321) -/

/-- The issuer of an access that a record names. -/
structure Blame where
  who : AgentRef
  place : Option (CoreId × WarpIx)
  agent : Nat
  gone : Bool
  team : Nat
  deriving DecidableEq, Repr, Inhabited

/-- The issuer of a request. -/
def reqBlame (r : Req) : Blame := { who := r.who, place := r.place, agent := r.agent, gone := r.gone, team := r.team }
/-- The issuer of a copy request. -/
def copyBlame (q : CopyReq) : Blame := { who := q.who, place := q.place, agent := q.agent, gone := q.gone, team := q.team }

/-- An imprecise record that names an agent, which STOPIMP may stop (R318, R320). -/
def imprecise (s : State) (c : CtxId) (b : Blame) (r : ErrRec) : State :=
  let t := teamAt s b.team
  let (kind, frag) := match b.who with
    | .frag _ f => (0, f.val)
    | .strand .. => (1, 0)
  let r := { r with
    core := agentCore b.who, akind := if r.akind = 0 then kind else r.akind, agent := b.agent, frag := frag, iret := b.gone,
    team := match t with | some x => teamReg x | none => 0,
    grid := match t with | some x => (match gridAt s x.grid with | some g => g.number | none => 0) | none => 0 }
  if b.gone then writeRecord s c r else fileRecord s c r (.agent b.team) (some b.who) b.place

/-- Lanes of one op whose loads or stores of a line are one request (R365). -/
def oneRequest (a r : Req) : Bool :=
  let plain := fun (x : Req) => match x.op with | .load .. | .store _ => true | _ => false
  a.who == r.who && a.wisn == r.wisn && a.pc == r.pc && plain a && plain r && returnsValue a == returnsValue r && a.reply.isNone &&
    locLine a.loc == locLine r.loc

/-- The record of a remote permission failure, by the die that refused (R321, R368): MEMV reason 7 and the lanes of the
access (R298): one for a request of a line, with all its lanes (R365). A copy's record names the engine. -/
def refusalRecord (s : State) (d : DieId) (r : Req) : State :=
  if r.told then s
  else
    let lanes := if isEngine r.op then 0 else (s.reqs.filter fun a => oneRequest a r).foldl (fun m a => m ||| a.lanes) r.lanes
    let s := { s with reqs := s.reqs.map fun a => if oneRequest a r then { a with told := true } else a }
    imprecise s r.ctx (reqBlame r)
      { cls := 0x12, rdie := d, akind := if isEngine r.op then 2 else 0, wisn := r.wisn, pc := r.pc, addr := r.va, synd := 7#32 ++ lanes }

/-! ## The order at a home (R193, R197) -/

/-- What performs a request, and in whose order: a home slice, a host port, or a peer port. -/
def destKey (k : CoreId) : Loc → Nat
  | .dev c => (sliceOf c).val
  | .host _ => 512 + (hostPort (coreDie k)).val
  | .peer p _ => 516 + p.val
  | .shared .. => 524

/-- A request that reads waits at its home while its line is pending (R202). A RED is a write (R201), and does not. -/
def waitsPending (s : State) (r : Req) : Bool :=
  match r.loc, r.op with
  | .dev c, .load .. | .dev c, .fill | .dev c, .cas .. => (linesOf c r.len).any (linePending s)
  | .dev c, .atomic .. => returnsValue r && linePending s (lineOf c)
  | _, _ => false

/-- A copy of the package, by its number: its core and record. -/
def copyAt (s : State) (k : CoreId) (c : Nat) : Option Copy := (coreAt s k).copies.find? fun x => x.id == c

/-- A write of a copy that is parked on the provisional budget (R278). -/
def parked (s : State) (r : Req) : Bool := match r.op with | .engine c _ _ => (copyAt s r.core c).any (·.budget) | _ => false

/-- A load or a store. -/
def plainOf (r : Req) : Bool := match r.op with | .load .. | .fill | .store _ => true | _ => false

/-- An earlier request of the same core holds a later one back at their common home: in order, but for the two
exceptions of R193; an agent's own access to the word comes after its packed atomic (R201, R207). A read that
waits for a copy's write does not hold that write back (log entry 37). -/
def holdsBack (s : State) (a r : Req) : Bool :=
  a.core == r.core && !a.held && a.reply.isNone && destKey a.core a.loc == destKey r.core r.loc &&
    (match a.loc, r.loc with
      | .dev x, .dev y =>
        if parked s a then false
        else if waitsPending s a then lineOf x == lineOf y && !isEngine r.op
        else if a.half.isSome then !(plainOf r && x / 4 ≤ (y + r.len - 1) / 4 && y / 4 ≤ x / 4 && !a.issuers.any r.issuers.contains)
        else true
      | .shared .., .shared .. => isEngine r.op
      | _, _ => true)

/-- `n` bytes at a cell touch the word of another cell. -/
def wordsMeet (x c n : Nat) : Bool := c / 4 ≤ x / 4 && x / 4 ≤ (c + n - 1) / 4

/-- An atomic is between its two halves in a word that `n` bytes at a cell touch (R207). -/
def halfDone (s : State) (c n : Nat) : Bool :=
  s.reqs.any fun a => a.half.isSome && (match a.loc with | .dev x => wordsMeet x c n | _ => false)

/-- Another atomic of the word is between its two halves (R207). -/
def splitWord (s : State) (r : Req) : Bool :=
  match r.op, r.loc with
  | .atomic .., .dev c | .cas .., .dev c =>
    s.reqs.any fun a => a.id != r.id && a.half.isSome && (match a.loc with | .dev x => wordsMeet x c r.len | _ => false)
  | _, _ => false

/-- A sent request may be performed at its home now. -/
def canPerform (s : State) (r : Req) : Bool :=
  !r.held && r.reply.isNone && !waitsPending s r && !splitWord s r &&
    (s.reqs.takeWhile fun a => a.id != r.id).all fun a => !holdsBack s a r

/-- The line is poisoned at its home (R304). -/
def linePoison (s : State) (line : Nat) : Bool := match homeLine s line with | some x => x.poison | none => false

/-- A refused request: a read returns poison, a write is dropped and acknowledged (R368). -/
def refuse (s : State) (d : DieId) (r : Req) : State :=
  let s := refusalRecord s d r
  if returnsValue r then setReply s r.id (List.replicate r.len 0) true else endReq s r.id

/-- Bytes that nothing in the package determines: those of a peer's memory (log entry 7). -/
def freeBytes (s : State) (n : Nat) : State × List Byte :=
  let m := (n + 7) / 8
  ({ s with free := s.free + m }, ((List.range m).flatMap fun i => bytesLE 8 (Config.freeValue (s.free + i)).toNat).take n)

/-- A line enters a core's L1 with its expiry (R192). The L1 is what the core's shared memory leaves; which line goes when
it is full is not specified, and the model drops the one that was filled first (DESIGN CHOICE, log entry 29). -/
def installL1 (s : State) (k : CoreId) (line e : Nat) : State :=
  let x : L1Line := { line := line, e := e, data := BitVec.ofNat 1024 (devNat s (128 * line) 128),
                      syncs := s.syncs.filter fun y => locMeets y.loc y.len (.dev (128 * line)) 128 }
  modCore s k fun c => { c with l1 := (x :: c.l1.filter fun y => y.line != line).take (l1Lines s k) }

/-- HOME_FILL: a load or a prefetch read at its home, with its lease (R192, R195, R276). -/
def execHomeFill (r : Nat) (s : State) : Out :=
  match reqAt s r with
  | none => .refused .notEnabled
  | some q =>
    let keep? := match q.op with | .load keep _ _ => some keep | .fill => some true | _ => none
    match keep? with
    | none => .refused .notEnabled
    | some keep =>
      if !canPerform s q then .refused .notEnabled
      else if refused s q then
        .next (if q.op == .fill then dropReq s r else refuse s (destDie q.core q.loc) q)
      else
        match q.loc with
        | .dev c =>
          let tag := heldTag s q.team
          let line := lineOf c
          let mine := match tag with
            | some (j, i) => s.held.any fun h => h.join == j && h.member == i && h.word / 32 == line
            | none => false
          let bs := viewBytes s tag c q.len
          let bad := (linesOf c q.len).any (linePoison s)
          let s := if keep then
              let (s, e) := grantLease s line q.lease
              if mine || bad || q.noKeep then s else installL1 s q.core line e
            else s
          .next (if q.op == .fill then dropReq s r else setReply s r bs bad)
        | .host a => .next (setReply s r (memBytes s.host a q.len) false)
        | .peer .. => let (s, bs) := freeBytes s q.len; .next (setReply s r bs false)
        | .shared .. => .refused .notEnabled

/-- A write's completion tick joins the horizons of its owners, the marks of the releases that it was not performed
before, and its team's (R198, R203, R260). -/
def noteWrite (s : State) (r : Req) (w : Nat) : State :=
  let s := raiseHorizons s w r.owners
  let s := if r.marks.isEmpty then s
    else { s with marks := s.marks.map fun m => if r.marks.contains m.id then { m with hz := max m.hz w } else m }
  modTeam s r.team fun t => { t with hz := max t.hz w }

/-- A copy changed. -/
def modCopy (s : State) (k : CoreId) (i : Nat) (g : Copy → Copy) : State :=
  modCore s k fun c => { c with copies := c.copies.map fun x => if x.id == i then g x else x }

/-- A record that names the copy engine (R245). -/
def engineRecord (s : State) (q : CopyReq) (cls : Nat) (addr : W64) : State :=
  imprecise s q.ctx (copyBlame q)
    { cls := cls, rdie := coreDie (agentCore q.who), akind := 2, wisn := q.wisn, pc := q.pc, addr := addr }

/-- The fields of a copy request at a byte offset (R241). -/
def reqField (q : CopyReq) (off lo n : Nat) : Nat := (q.raw.extractLsb' (8 * off + lo) n).toNat

/-- A request is abandoned: the record, the arrival word, the count (R245). -/
def abandonReq (s : State) (k : CoreId) (q : CopyReq) (addr : W64) : State :=
  let s := engineRecord s q 0x11 addr
  let aw := reqField q 0x28 0 32
  let s := if aw % 4 = 0 && aw + 4 ≤ teamShared s q.team then sharedPut s k q.team aw (bytesLE 4 0x80000000) else s
  modCore s k fun x => { x with
    abandoned := if x.abandoned.any fun a => a.1 == q.team then
        x.abandoned.map fun a => if a.1 == q.team then (a.1, a.2 + 1) else a
      else (q.team, 1) :: x.abandoned }

/-- A write of copy `c` of core `k`. -/
def isPiece (k : CoreId) (c : Nat) (r : Req) : Bool :=
  r.core == k && (match r.op with | .engine i _ _ => i == c | _ => false)

/-- A copy leaves the engine: its marks and its unperformed writes go. -/
def dropCopy (s : State) (k : CoreId) (c : Copy) : State :=
  let s := c.marks.foldl (fun s l => unmarkLine s l.1 c.id) s
  let s := { s with reqs := s.reqs.filter fun r => !isPiece k c.id r }
  copyOver (modCore s k fun x => { x with copies := x.copies.filter fun y => y.id != c.id }) c.req.team

/-- The engine abandons an accepted copy (R245). -/
def abandonCopy (s : State) (k : CoreId) (c : Copy) (addr : W64) : State := dropCopy (abandonReq s k c.req addr) k c

/-- Every byte of a copy has been written. -/
def copyWritten (s : State) (k : CoreId) (c : Copy) : Bool := c.moved && !s.reqs.any (isPiece k c.id)

/-- A copy that has written everything leaves the engine when its completions are made (R244). -/
def copySettle (s : State) (k : CoreId) (c : Nat) : State :=
  match copyAt s k c with
  | none => s
  | some x =>
    if copyWritten s k x && (reqField x.req 0x28 0 32 = 0xFFFFFFFF || x.counted = x.written) && x.lines.isEmpty &&
        (reqField x.req 0x28 32 32 = 0xFFFFFFFF || x.committed) then dropCopy s k x
    else s

/-- Bytes of a list by key that are still to be written, after `n` of one key have been. -/
def lessBytes {α : Type} [BEq α] (a : α) (n : Nat) (ls : List (α × Nat)) : List (α × Nat) :=
  ls.map fun p => if p.1 == a then (p.1, p.2 - n) else p

/-- A piece of a copy has been performed at a place, with its completion tick. The engine-pending mark of a line goes with the
last byte that the request writes into it (R202, R243). -/
def engineWritten (s : State) (k : CoreId) (c : Nat) (l : Loc) (n w : Nat) : State :=
  let s := modCopy s k c fun x =>
    { x with hz := max x.hz w, written := x.written + n, budget := false,
             marks := match l with | .dev cell => lessBytes (lineOf cell) n x.marks | _ => x.marks,
             lines := match l with
               | .shared k' _ o => x.lines.map fun p => if p.1 == k' && p.2.1 == o / 128 then (p.1, p.2.1, p.2.2 - n) else p
               | _ => x.lines }
  let s := match copyAt s k c with
    | none => s
    | some x =>
      let gone := x.marks.filter fun p => p.2 == 0 || copyWritten s k x
      gone.foldl (fun s p => unmarkLine s p.1 c) (modCopy s k c fun y => { y with marks := y.marks.filter fun p => !gone.contains p })
  copySettle s k c

/-- Poisoned bytes come into a shared line (R304). -/
def poisonShared (s : State) (k : CoreId) (t o : Nat) : State :=
  modCore s k fun y => modSeat y t fun z =>
    { z with poisoned := if z.poisoned.contains (o / 128) then z.poisoned else (o / 128) :: z.poisoned }

/-- An uncorrectable error on a store: its bytes are written poisoned, and a record says so (R304, R319). -/
def storeError (s : State) (q : Req) : State :=
  let s := match q.loc with
    | .dev c => modLine s (lineOf c) fun y => { y with poison := true, unit := 11 }
    | .shared k t o => poisonShared s k t o
    | .host _ | .peer .. => s
  imprecise s q.ctx (reqBlame q) { cls := 0x10, rdie := destDie q.core q.loc, wisn := q.wisn, pc := q.pc, addr := q.va }

/-- HOME_WRITE: a store or an engine write performed (R196, R275, R304, R368). -/
def execHomeWrite (r : Nat) (s : State) : Out :=
  match reqAt s r with
  | none => .refused .notEnabled
  | some q =>
    let data? := match q.op with | .store d => some d | .engine _ d _ => some d | _ => none
    match data? with
    | none => .refused .notEnabled
    | some data =>
      if !canPerform s q then .refused .notEnabled
      else
        let copy := match q.op with | .engine c _ _ => copyAt s q.core c | _ => none
        let write := fun (s : State) =>
          let s := publishAt s q.loc q.len q.mark
          match q.loc with
          | .dev c =>
            match heldTag s q.team with
            | some (j, i) => (heldStore s j i c data, 0)
            | none => homeStore s c data
          | .host a => ({ s with host := memPut s.host a data }, 0)
          | .shared k t o => (sharedPut s k t o data, 0)
          | .peer .. => (s, 0)
        match copy with
        | some x =>
          if refused s q then .next (abandonCopy (refusalRecord s (destDie q.core q.loc) q) q.core x q.va)
          else if isSys q.loc && memberRunning s q.team then .next (abandonCopy s q.core x q.va)
          else if overBudget s q.team (match q.loc with | .dev c => linesOf c q.len | _ => []) then
            .next (modCopy s q.core x.id fun y => { y with budget := true })
          else
            let (s, w) := write s
            let bad := match q.op with | .engine _ _ b => b | _ => false
            let s := match q.loc, bad with
              | .dev c, true => engineRecord (modLine s (lineOf c) fun y => { y with poison := true, unit := 11 }) x.req 0x10 q.va
              | .shared k t o, true => engineRecord (poisonShared s k t o) x.req 0x10 q.va
              | _, true => engineRecord s x.req 0x10 q.va
              | _, false => s
            let s := if q.va.toNat / 4503599627370496 = 0 && watchHits s q.ctx .store q.va.toNat data.length then engineRecord s x.req 0x13 q.va else s
            .next (engineWritten (noteWrite (endReq s r) q w) q.core x.id q.loc data.length w)
        | none =>
          if refused s q then .next (refuse s (destDie q.core q.loc) q)
          else
            let (s, w) := write s
            let s := if q.bad then storeError s q else s
            .next (noteWrite (endReq s r) q w)

/-- An atomic's end: its completion tick, what it publishes, and its reply or its end. -/
def atomDone (s : State) (q : Req) (old : List Byte) (poison : Bool) (w : Nat) : State :=
  let s := noteWrite s q w
  let s := if returnsValue q then setReply s q.id old poison else endReq s q.id
  publishAt s q.loc q.len q.mark

/-- HOME_ATOMIC: the bank ALU performs an atomic; a packed one its low half and then its high half (R205 to R208,
R234, R275). -/
def execHomeAtomic (r : Nat) (s : State) : Out :=
  match reqAt s r with
  | none => .refused .notEnabled
  | some q =>
    let atom := match q.op with | .atomic .. | .cas .. => true | _ => false
    if !atom || !canPerform s q then .refused .notEnabled
    else if refused s q then .next (refuse s (destDie q.core q.loc) q)
    else
      match q.loc with
      | .peer .. => let (s, bs) := freeBytes s q.len; .next (atomDone s q bs false 0)
      | .host _ | .shared .. => .refused .notEnabled
      | .dev c =>
        let bad := linePoison s (lineOf c)
        let old := devBytes s c q.len
        let put := fun (s : State) (v : W64) => homeStore s c (bytesLE q.len v.toNat)
        match q.op with
        | .cas _ cmp new _ =>
          let (s, w) := if BitVec.ofNat 64 (natLE old) = cmp then put s new else (s, completion s (lineOf c))
          .next (atomDone s q old bad w)
        | .atomic op v parts _ =>
          match heldTag s q.team with
          | some (j, i) =>
            let (s, o) := heldAtomic s j i c op v parts
            .next (atomDone s q (bytesLE q.len o.toNat) bad 0)
          | none =>
            let o := BitVec.ofNat 32 (natLE old)
            match isPacked op, q.half with
            | true, none =>
              let (s, _) := put s (0#32 ++ lowHalf op o parts)
              .next (modReq s r fun x => { x with half := some o })
            | true, some lo =>
              let (s, w) := put s (0#32 ++ highHalf op o parts)
              .next (atomDone s q (bytesLE 4 (o.extractLsb' 16 16 ++ lo.extractLsb' 0 16).toNat) bad w)
            | false, _ =>
              let (s, w) := put s (atomNew op (BitVec.ofNat 64 (natLE old)) v parts)
              .next (atomDone s q old bad w)
        | _ => .refused .notEnabled

/-! ## Replies (R22, R162, R225) -/

/-- A returned value extended to `n` bits. -/
def extendLoad (n : Nat) (w : Width) (sx : Bool) (v : Nat) : Nat :=
  let bits := match w with | .b8 => 8 | .b16 => 16 | .b32 => 32 | .b64 => 64 | .b128 => 128
  if sx && bits < n && v / 2 ^ (bits - 1) % 2 = 1 then v % 2 ^ bits + (2 ^ n - 2 ^ bits) else v % 2 ^ bits

/-- The 32-bit registers that a returned value fills. -/
def loadWords (w : Width) (sx : Bool) (v : Nat) : List W32 :=
  match w with
  | .b8 | .b16 | .b32 => [BitVec.ofNat 32 (extendLoad 32 w sx v)]
  | .b64 => [BitVec.ofNat 32 v, BitVec.ofNat 32 (v / 2 ^ 32)]
  | .b128 => [BitVec.ofNat 32 v, BitVec.ofNat 32 (v / 2 ^ 32), BitVec.ofNat 32 (v / 2 ^ 64), BitVec.ofNat 32 (v / 2 ^ 96)]

/-- A 4-bit field of a lane's detecting units replaced. -/
def setPunit (v : BitVec 192) (r u : Nat) : BitVec 192 :=
  (v &&& ~~~(0xF#192 <<< (4 * r))) ||| (BitVec.ofNat 192 (u % 16) <<< (4 * r))

/-- A lane's registers from r on, with the poison of the bytes and the unit that detected it (R225, R304). -/
def landLane (x : LaneRegs) (r : Nat) (vs : List W32) (bad : Option Nat) : LaneRegs :=
  (vs.zip (List.range vs.length)).foldl (fun x p =>
    if h : r + p.2 < 48 then
      let bit := 1#48 <<< (r + p.2)
      let x := { x with v := x.v.set (r + p.2) p.1, poison := if bad.isSome then x.poison ||| bit else x.poison &&& ~~~bit }
      match bad with | some u => { x with punit := setPunit x.punit (r + p.2) u } | none => x
    else x) x

/-- The results that are due and name an S register leave the pending list before a load lands in it (R19). -/
def settleReg (st : Strand) (r : Reg) : Strand :=
  let hits := fun (p : Pend) => p.due ≤ st.clock && (match p.dst with | .sreg q _ => q == r | _ => false)
  { st with s := st.s.set r.toFin (viewS st r), pend := st.pend.filter fun p => !hits p }

/-- An S register written by a reply. -/
def landSreg (st : Strand) (r : Reg) (v : W64) (bad : Option Nat) : Strand :=
  let st := settleReg st r
  let bit := 1#64 <<< r.toNat
  { st with s := st.s.set r.toFin v, poison := if bad.isSome then st.poison ||| bit else st.poison &&& ~~~bit }

/-- The columns and rows of the words of a tile that `n` bytes at an offset touch (R297). -/
def spotOf (off n : Nat) : BitVec 48 :=
  (linesOf off n).foldl (fun m r =>
    (List.range 32).foldl (fun m c =>
      if 128 * r + 4 * c < off + n && off < 128 * r + 4 * c + 4 then m ||| (1#48 <<< (16 + c)) ||| (1#48 <<< (r % 16)) else m) m) 0

/-- Poison enters a tile at some of its bytes (R127, R304). -/
def poisonTile (bad : Option Nat) (off n : Nat) (x : Tile) : Tile :=
  match bad with
  | some u => { x with poison := true, unit := u, spot := x.spot ||| spotOf off n }
  | none => x

/-- The unit that detected the error of a request's poisoned bytes: shared memory, the line's, or the load path for a read that
was refused (R297, R304, R368; log entry 32). -/
def detectUnit (s : State) (l : Loc) (n : Nat) : Nat :=
  match l with
  | .shared .. => 10
  | .dev c => (((linesOf c n).filterMap (homeLine s)).find? (·.poison)).elim 9 (·.unit)
  | .host _ | .peer .. => 9

/-- The results that are due and name a tile land before a TLD does in it: they were due when it issued (R19, R23). -/
def settleTile (s : State) (who : AgentRef) (t : Nat) : State :=
  match who with
  | .frag .. => s
  | .strand k n =>
    match strandAt (coreAt s k) n with
    | none => s
    | some st =>
      let due := fun (p : Pend) => pendNames t p && decide (p.due ≤ st.clock)
      let s := modCore s k fun c => modTile c st.team t fun x => (landOrder (st.pend.filter due)).foldl (fun x p => (pendTile t x p).getD x) x
      onStrand s k n fun y => { y with pend := y.pend.filter fun p => !due p }

/-- A returned value written to its destination; `bad`: the unit that detected poison in it. -/
def landDest (s : State) (q : Req) (d : Dest) (bs : List Byte) (bad : Option Nat) : State :=
  let v := natLE bs
  match d with
  | .none => s
  | .lane l r w sx =>
    match q.place with
    | some (k, ix) =>
      onWarp s k ix fun x => { x with lanes := x.lanes.set l (landLane x.lanes[l] r.toNat (loadWords w sx v) bad) }
    | none => s
  | .sreg r w sx =>
    match q.who with
    | .strand k n => onStrand s k n fun st =>
        match w with
        | .b128 => landSreg (landSreg st r (BitVec.ofNat 64 v) bad) (r + 1) (BitVec.ofNat 64 (v / 2 ^ 64)) bad
        | _ => landSreg st r (BitVec.ofNat 64 (extendLoad 64 w sx v)) bad
    | .frag .. => s
  | .tile t off =>
    modCore s q.core fun c => modTile c q.team t fun x =>
      poisonTile bad off bs.length { x with data := tilePut x.data off bs, arrive := max x.arrive c.cycle }
  | .row t y l w sx =>
    let ws := loadWords w sx v
    modCore s q.core fun c => modTile c q.team t fun x =>
      (List.range ws.length).foldl (fun x i => poisonTile bad (128 * (y + i) + 4 * l.val) 4 x) { x with
        data := (ws.zip (List.range ws.length)).foldl (fun d p => tileSetWord d (y + p.2) l p.1) x.data,
        arrive := max x.arrive c.cycle }

/-- A tile that TLD overwrites loses its marks, and what was due in it has landed (R19, R305). -/
def clearMarks (s : State) (q : Req) : State :=
  match q.op with
  | .load _ _ (.tile t 0) => modCore (settleTile s q.who t) q.core fun c => modTile c q.team t fun x => { x with suspect := false, poison := false, spot := 0 }
  | _ => s

/-- One request's result lands, and the request is over. -/
def landReq (s : State) (q : Req) : State :=
  match q.reply with
  | none => s
  | some (bs, bad) =>
    let bs := putBytes bs q.ovr
    let bad := if bad then some (detectUnit s q.loc q.len) else none
    let s := q.issuers.foldl (fun s a => noteSeen s a q.seen) s
    let s := match q.op with
      | .load _ acq d =>
        let s := landDest s q d bs bad
        if acq then q.issuers.foldl (fun s a => acquireMarks s a q.seen) s else s
      | .cas w64 _ _ d =>
        landDest s q (match d with | .sreg r _ _ => .sreg r (if w64 then .b64 else .b32) false | d => d) bs bad
      | .atomic op _ _ rets =>
        let old := BitVec.ofNat 64 (natLE bs)
        rets.foldl (fun s p =>
          let v := match p.2.1 with | none => old | some x => atomNew op old x p.2.2
          landDest s q p.1 (bytesLE (atomLen op) v.toNat) bad) s
      | .fill | .store _ | .engine .. | .fence .. | .kick => s
    endReq s q.id

/-- The S registers that a destination of a strand's request names. -/
def destRegs : Dest → List Reg
  | .sreg r w _ => widthRegs false r w
  | .none | .lane .. | .tile .. | .row .. => []

/-- The destinations of a request. -/
def reqDests (r : Req) : List Dest :=
  match r.op with
  | .load _ _ d => [d]
  | .atomic _ _ _ rets => rets.map (·.1)
  | .cas _ _ _ d => [d]
  | .fill | .store _ | .engine .. | .fence .. | .kick => []

/-- An earlier request of the same strand writes one of the same registers, or the same tile: it lands first, so that the
higher slot's value remains (R15). -/
def landsBefore (r q : Req) : Bool :=
  r.id < q.id && r.who == q.who && (r.group != q.group || q.group == 0) &&
    (((reqDests r).flatMap destRegs).any ((reqDests q).flatMap destRegs).contains ||
      (reqDests r).any fun d => match d with
        | .tile t _ => (reqDests q).any fun e => match e with | .tile u _ => t == u | _ => false
        | _ => false)

/-- LOAD_REPLY: a reply lands; the lines of a TLD land together (R15, R22, R126, R162). -/
def execLoadReply (r : Nat) (s : State) : Out :=
  match reqAt s r with
  | none => .refused .notEnabled
  | some q =>
    let qs := if q.group = 0 then [q] else s.reqs.filter fun x => x.group == q.group
    if q.held || (qs.any fun x => x.reply.isNone) || s.reqs.any fun x => landsBefore x q then .refused .notEnabled
    else .next (qs.foldl landReq (qs.foldl clearMarks s))

/-! ## Evictions and tokens -/

/-- LINE_EVICTION: the line's expiry is folded into its slice's floor (R195). -/
def execLineEviction (line : Nat) (s : State) : Out :=
  match homeLine s line with
  | none => .refused .notEnabled
  | some x =>
    let left := leaveSlice s x
    if x.pend.isEmpty && !x.poison then .next left
    else .next { left with lines := { x with e := left.floors[sliceOf (128 * line)] } :: left.lines }

/-- A bucket's level after one tick, in 2^-8 token (R366). -/
def refill (word : W64) (level : Nat) : Nat :=
  min (256 * (word.extractLsb' 24 24).toNat) (level + (word.extractLsb' 0 24).toNat)

/-- TOKEN_REFILL: one tick of every bucket of every context; the words are read anew, but for one on an engine-pending line, whose
read waits (R193, R366). -/
def execTokenRefill (s : State) : Out :=
  let one := fun (x : Ctx) =>
    let words : Vector W64 3 := Vector.ofFn fun i =>
      let cell := pkgCell (x.record + 0x28 + 8 * i.val)
      if linePending s (lineOf cell) then x.buckets[i] else BitVec.ofNat 64 (devNat s cell 8)
    { x with buckets := words, levels := x.levels.map fun ls => Vector.ofFn fun i => refill words[i] ls[i] }
  .next { s with ctxs := s.ctxs.map fun x => x.map one }

/-- A remote request takes its tokens: none while the bucket holds too few (R366, R367). -/
def payTokens (s : State) (q : Req) : Option State :=
  match ctxAt s q.ctx with
  | none => some s
  | some x =>
    let cls := tokenClass q.op
    let d := coreDie q.core
    let size := 256 * bucketSize s q.ctx cls
    let level := x.levels[d][cls]
    let cost := 256 * q.cost
    if size = 0 || !isRemote q.core q.loc then some s
    else if level ≥ cost || (cost > size && level ≥ size) then
      some (setCtx s q.ctx (some { x with levels := x.levels.set d (x.levels[d].set cls (level - cost)) }))
    else none

/-- TOKEN_SEND: a held request takes its tokens, if it takes any, and is sent in the order of its core (R197, R367). -/
def execTokenSend (r : Nat) (s : State) : Out :=
  match reqAt s r with
  | none => .refused .notEnabled
  | some q =>
    if !sendable q || behind s q || kickWaits s q then .refused .notEnabled
    else
      match payTokens s q with
      | some s => .next (sendReq s r)
      | none => .refused .notEnabled

/-! ## Peers (R231, R368, R369) -/

/-- PEER_REFUSAL: a peer package refuses a request; the issuing die's peer port records it (R368). -/
def execPeerRefusal (d : DieId) (r : Nat) (s : State) : Out :=
  match reqAt s r with
  | some q =>
    match q.loc with
    | .peer p _ =>
      if q.held || q.reply.isSome || d.val ≠ p.val / 2 then .refused .notEnabled
      else
        match (match q.op with | .engine c _ _ => copyAt s q.core c | _ => none) with
        | some x => .next (abandonCopy (refusalRecord s d q) q.core x q.va)
        | none => .next (refuse s d q)
    | _ => .refused .notEnabled
  | none => .refused .notEnabled

/-- PEER_INBOUND_REQUEST: a peer's access, performed at the cell's home under the grants of its context; the answer
goes to the peer (R231, R368, R369). -/
def execPeerInboundRequest (_port : Fin 8) (c : CtxId) (cell : Nat) (what : PeerAccess) (s : State) : Out :=
  if cell ≥ 8 * Config.stackBytes then .fault .noSuchCell
  else if !granted s c cell then .next s
  else
    match what with
    | .load _ => if linePending s (lineOf cell) then .refused .notEnabled else .next s
    | .store data => .next (homeStore (publishAt s (.dev cell) data.length []) cell data).1
    | .atomic op v =>
      if halfDone s cell (atomLen op) || linePending s (lineOf cell) then .refused .notEnabled
      else
        let old := BitVec.ofNat 64 (devNat s cell (atomLen op))
        .next (homeStore (publishAt s (.dev cell) (atomLen op) []) cell
          (bytesLE (atomLen op) (atomNew op old v (laneParts op v)).toNat)).1
    | .cas w64 cmp new =>
      let n := if w64 then 8 else 4
      if halfDone s cell n || linePending s (lineOf cell) then .refused .notEnabled
      else .next (if BitVec.ofNat 64 (devNat s cell n) = cmp then (homeStore s cell (bytesLE n new.toNat)).1 else s)

end Sys2Proof.Machine
end

