-- ==== Sys2Proof/Machine/Memory.lean ====
section
/-! DEFINITION. Loads, stores, atomics, fences and prefetch, the kick register, and page walks (R212, R213, R218 to R236,
R240, R242). -/

namespace Sys2Proof.Machine

/-! ## Widths -/

/-- Bytes of a width, and log2 of its alignment (R220). -/
def widthLog : Width → Nat
  | .b8 => 0 | .b16 => 1 | .b32 => 2 | .b64 => 3 | .b128 => 4
/-- Bytes of a width. -/
def widthLen (w : Width) : Nat := 2 ^ widthLog w

/-- The addresses of the participating lanes: the pair A, plus an offset (R221). -/
def laneAccs (e : WarpEnv) (a : Reg) (off : W64) (len : Nat) : List Acc :=
  (allLanes.filter (laneIn e.parts)).map fun l => ⟨l, readPair e l a + off, len⟩

/-- Where a lane's loaded value goes: its registers, or its words of the window's rows (R161, R220). -/
def laneDest (e : WarpEnv) (l : Lane) (d : Reg) (w : Width) (sx : Bool) : Dest :=
  if isY d then .row (e.tile.elim 0 (·.1)) (d.toNat - 48) l w sx else .lane l d w sx

/-- The low bytes of a lane's registers. -/
def laneBytes (e : WarpEnv) (l : Lane) (rs : List Reg) (len : Nat) : List Byte :=
  (rs.flatMap fun r => bytesLE 4 (readReg e l r).toNat).take len

/-! ## The kick register and CPK (R240, R242) -/

/-- The kick register's address. -/
def kickAddr : W64 := 0x8200000000000000#64

/-- The faults of a request address, of some lanes (R242); one in another defined window reports reason 0 (DESIGN CHOICE, log entry
76). -/
def kickCheck (s : State) (q : Issue) (a : W64) (lanes : LaneMask) : Option TrapInfo :=
  match window s q.k q.team q.away a with
  | .shared _ off =>
    if a.toNat / 281474976710656 ≠ 0x8000 then some (trapMemv a 0 lanes q.unit)
    else if off ≥ teamShared s q.team then some (trapMemv a 1 lanes q.unit)
    else if off % 64 ≠ 0 then some (trapAlign a 6 q.unit)
    else if present s q.k q.team off 64 then none
    else some { cls := .pres, addr := a, unit := q.unit }
  | .bad r => some (trapMemv a r lanes q.unit)
  | _ => some (trapMemv a 0 lanes q.unit)

/-- A copy request is sent to the engine's queue, after what it must wait for: `rel`, a release's wait, and `after`,
accesses of an earlier slot (R227, R240, R242). -/
def kickSend (s : State) (q : Issue) (a : W64) (rel : Option Scope) (after : List Nat) : State :=
  newReq s q { loc := .shared q.k q.team (a.toNat % 281474976710656), len := 64, op := .kick, rel := rel, after := after, va := a }

/-- KICK: a store of a request address to the kick register, by whoever issues (R240). -/
def execKick (a : W64) (s : State) : Out :=
  match s.issuer with
  | .none => .refused .noIssuer
  | .frag k f =>
    match againEnv (.kick a) always k f s with
    | none => .refused .noIssuer
    | some e =>
      let q := warpIssue s e
      match kickCheck s q a (1#32 <<< (leadLane e.parts).val) with
      | some t => warpFault s e t
      | none => if queueRoom s k 1 then .next (kickSend s q a none []) else .refused .notEnabled
  | .strand k n slot =>
    match strandAt (startCore s k) n with
    | none => .refused .noIssuer
    | some st =>
      let e : StrandEnv := { i := .kick a, k := k, n := n, slot := slot, st := st, c := startCore s k, rep := none }
      let q := strandIssue s e
      match kickCheck s q a 1 with
      | some t => strandFault s e t
      | none => if queueRoom s k 1 then .next (kickSend s q a none (slotOrder s e)) else strandStall s e .copyQueue

/-! ## LD and LDO -/

/-- A load of a warp. -/
def warpLoad (d a : Reg) (sc : Scope) (ord : Order) (w : Width) (sx : Bool) (off : W64) (e : WarpEnv) (s : State) : Out :=
  warpMem e s .load (widthLog w) false none (pairOf true a) (widthRegs true d w) (laneAccs e a off (widthLen w))
    fun e s ps => (lineCosts ps).foldl (fun s p =>
      newLoad s (warpIssue s e) (ord != .strong) (ord == .sync) sc p.1 p.2 (laneDest e p.1.lane d w sx) [] 0 []) s

/-- A load of a strand. -/
def strandLoad (d a : Reg) (sc : Scope) (ord : Order) (w : Width) (sx : Bool) (off : W64) (e : StrandEnv) (s : State) : Out :=
  strandMem e s .load (widthLog w) false [⟨0, opA e a + off, widthLen w⟩] fun s ps =>
    let q := strandIssue s e
    .next ((lineCosts ps).foldl (fun s p =>
      newLoad s q (ord != .strong) (ord == .sync) sc p.1 p.2 (.sreg d w sx) (slotOrder s e) 0 (queuedBytes s e p.1.loc p.1.len)) s)

/-- LD (R218 to R227). -/
def execLd (g : Guard) (d a : Reg) (sc : Scope) (ord : Order) (w : Width) (sx : Bool) (s : State) : Out :=
  asOp (.ld g d a sc ord w sx) g s (warpLoad d a sc ord w sx 0) (strandLoad d a sc ord w sx 0)

/-- LDO: with a signed 32-bit byte offset (R219). -/
def execLdo (g : Guard) (d a : Reg) (sc : Scope) (ord : Order) (w : Width) (sx : Bool) (ext : W32) (s : State) : Out :=
  asOp (.ldo g d a sc ord w sx ext) g s (warpLoad d a sc ord w sx (ext.signExtend 64))
    (strandLoad d a sc ord w sx (ext.signExtend 64))

/-! ## ST and STO -/

/-- The mask of a lane. -/
def laneMask (l : Lane) : LaneMask := 1#32 <<< l.val

/-- The release that a store is. -/
def relOf (sc : Scope) (ord : Order) : Option Scope := match ord with | .sync => some sc | .weak | .strong => none

/-- A store of a warp, in ascending lane order (R225); lanes that name the kick register kick (R240). -/
def warpStore (d a : Reg) (sc : Scope) (ord : Order) (w : Width) (off : W64) (e : WarpEnv) (s : State) : Out :=
  let rs := widthRegs true d w
  let len := widthLen w
  let as := laneAccs e a off len
  let word := fun (l : Lane) => BitVec.ofNat 64 (natLE (laneBytes e l rs len))
  let kicks := as.filter fun x => x.va == kickAddr
  let run := warpMem e s .store (widthLog w) false (relOf sc ord) (pairOf true a ++ rs) [] as fun e s ps =>
    (lineCosts ps).foldl (fun s p =>
      if p.1.va == kickAddr then kickSend s (warpIssue s e) (word p.1.lane) none []
      else newReq s (warpIssue s e) { loc := p.1.loc, len := len, op := .store (laneBytes e p.1.lane rs len), lease := p.1.lease,
                                      cost := p.2, va := p.1.va, lanes := laneMask p.1.lane, isRel := ord == .sync }) s
  if kicks.isEmpty then run
  else
    let q := warpIssue s e
    match regTrap e (pairOf true a ++ rs) [], checkAccs s q e.i .store (widthLog w) false as with
    | none, none =>
      match kicks.findSome? fun x => kickCheck s q (word x.lane) (1#32 <<< x.lane.val) with
      | some t => warpFault s e t
      | none => if queueRoom s e.k kicks.length then run else waitFrag s e .copyQueue false
    | _, _ => run

/-- The bytes that a strand's store writes. -/
def strandBytes (e : StrandEnv) (d : Reg) (len : Nat) : List Byte :=
  (bytesLE 8 (opD e d).toNat ++ (if len = 16 then bytesLE 8 (opE e d).toNat else [])).take len

/-- A store of a strand: held in an open segment, otherwise sent (R227, R311). -/
def strandStore (d a : Reg) (sc : Scope) (ord : Order) (w : Width) (off : W64) (e : StrandEnv) (s : State) : Out :=
  let len := widthLen w
  let va := opA e a + off
  strandMem e s .store (widthLog w) false [⟨0, va, len⟩] fun s ps =>
    let q := strandIssue s e
    let bs := strandBytes e d len
    let rel := (relOf sc ord).bind fun sc => if waitDone s q.who sc (owned s q.who) then none else some sc
    if va == kickAddr then
      match kickCheck s q (opD e d) 1 with
      | some t => strandFault s e t
      | none =>
        if queueRoom s e.k 1 then .next (markFx (kickSend s q (opD e d) rel (slotOrder s e)) e fun x => { x with close := true })
        else strandStall s e .copyQueue
    else if ord != .sync && e.st.segOpen then
      segPush s e (ps.map fun p => { va := p.va, loc := p.loc, data := bs, lease := p.lease, pc := q.pc, wisn := q.wisn })
    else
      let s := (lineCosts ps).foldl (fun s p =>
        newReq s q { loc := p.1.loc, len := len, op := .store bs, lease := p.1.lease, cost := p.2, va := p.1.va,
                     after := slotOrder s e, rel := rel, isRel := ord == .sync }) s
      .next (if ord == .sync then markFx s e fun x => { x with close := true } else s)

/-- ST (R218 to R227). -/
def execSt (g : Guard) (d a : Reg) (sc : Scope) (ord : Order) (w : Width) (s : State) : Out :=
  asOp (.st g d a sc ord w) g s (warpStore d a sc ord w 0) (strandStore d a sc ord w 0)

/-- STO (R219). -/
def execSto (g : Guard) (d a : Reg) (sc : Scope) (ord : Order) (w : Width) (ext : W32) (s : State) : Out :=
  asOp (.sto g d a sc ord w ext) g s (warpStore d a sc ord w (ext.signExtend 64))
    (strandStore d a sc ord w (ext.signExtend 64))

/-! ## Atomics (R208, R229 to R234) -/

/-- A lane's operand. -/
def laneOperand (e : WarpEnv) (l : Lane) (b : Reg) (op : AtomOp) : W64 :=
  match op with
  | .add64 => readPair e l b
  | _ => 0#32 ++ readReg e l b

/-- The width of an atomic's result. -/
def atomWidth (op : AtomOp) : Width := match op with | .add64 => .b64 | _ => .b32

/-- One lane's part of a merged request: its operand, and its result's place when the op returns one. -/
structure AtomLane where
  p : Placed
  v : W64
  dst : Option Dest

/-- Lanes merged in ascending order: the merged operand, and each lane's result with the sum of the lower lanes
(R208). -/
def mergeLanes (op : AtomOp) (ls : List AtomLane) : (W64 × List W32) × List (Dest × Option W64 × List W32) :=
  match ls with
  | [] => ((0, []), [])
  | x :: xs =>
    let first := fun (d : Option Dest) (r : Option W64 × List W32) => (d.map fun y => (y, r.1, r.2)).toList
    xs.foldl (fun r y =>
      (combine op r.1 (y.v, laneParts op y.v), r.2 ++ first y.dst (some r.1.1, r.1.2)))
      ((x.v, laneParts op x.v), first x.dst (none, []))

/-- The merged requests of an op's lanes, one for each word (R208). -/
def sendAtoms (s : State) (q : Issue) (op : AtomOp) (ls : List AtomLane) (after : List Nat) : State :=
  let locs := (ls.map fun x => x.p.loc).eraseDups
  locs.foldl (fun s l =>
    let mine := ls.filter fun x => x.p.loc == l
    let ((v, parts), rets) := mergeLanes op mine
    match mine with
    | [] => s
    | x :: _ => newReq s q { loc := l, len := atomLen op, op := .atomic op v parts rets, lease := x.p.lease,
                             lanes := mine.foldl (fun m y => m ||| laneMask y.p.lane) 0,
                             cost := if isRemote q.k l then 1 else 0, after := after, va := x.p.va }) s

/-- An ATOM or RED of a warp. -/
def warpAtom (d : Option Reg) (a b : Reg) (op : AtomOp) (e : WarpEnv) (s : State) : Out :=
  let n := atomLen op
  warpMem e s .atomic (Nat.log2 n) (op == .exch) none (pairOf true a ++ atomRegs true b op)
    (d.elim [] fun d => atomRegs true d op) (laneAccs e a 0 n) fun e s ps =>
      sendAtoms s (warpIssue s e) op (ps.map fun p =>
        { p := p, v := laneOperand e p.lane b op, dst := d.map fun d => laneDest e p.lane d (atomWidth op) false }) []

/-- An ATOM or RED of a strand: one request; it closes the segment (R233, R309). -/
def strandAtom (d : Option Reg) (a b : Reg) (op : AtomOp) (e : StrandEnv) (s : State) : Out :=
  let n := atomLen op
  strandMem e s .atomic (Nat.log2 n) (op == .exch) [⟨0, opA e a, n⟩] fun s ps =>
    let v : W64 := match op with | .add64 => opB e b | _ => 0#32 ++ (opB e b).extractLsb' 0 32
    .next (markFx (sendAtoms s (strandIssue s e) op (ps.map fun p =>
      { p := p, v := v, dst := d.map fun d => .sreg d (atomWidth op) false }) (slotOrder s e)) e
        fun x => { x with close := true })

/-- ATOM (R229 to R233). -/
def execAtom (g : Guard) (d a b : Reg) (op : AtomOp) (s : State) : Out :=
  asOp (.atom g d a b op) g s (warpAtom (some d) a b op) (strandAtom (some d) a b op)

/-- RED: returns nothing (R229 to R233). -/
def execRed (g : Guard) (a b : Reg) (op : AtomOp) (s : State) : Out :=
  asOp (.red g a b op) g s (warpAtom none a b op) (strandAtom none a b op)

/-- ATCAS: separate atomics in ascending lane order (R234). -/
def execAtcas (g : Guard) (d a b : Reg) (w64 : Bool) (s : State) : Out :=
  let n := if w64 then 8 else 4
  let regs := fun (r : Reg) => if w64 then pairOf true r else [r]
  asOp (.atcas g d a b w64) g s
    (fun e s =>
      let val := fun (e : WarpEnv) (l : Lane) (r : Reg) => if w64 then readPair e l r else 0#32 ++ readReg e l r
      warpMem e s .atomic (Nat.log2 n) true none (pairOf true a ++ regs b ++ regs d) (regs d) (laneAccs e a 0 n)
        fun e s ps => ps.foldl (fun s p =>
          newReq s (warpIssue s e)
            { loc := p.loc, len := n, lease := p.lease, cost := if isRemote e.k p.loc then 1 else 0, va := p.va,
              lanes := laneMask p.lane, op := .cas w64 (val e p.lane d) (val e p.lane b)
                (laneDest e p.lane d (if w64 then .b64 else .b32) false) }) s)
    fun e s =>
      let cut := fun (v : W64) => if w64 then v else 0#32 ++ v.extractLsb' 0 32
      strandMem e s .atomic (Nat.log2 n) true [⟨0, opA e a, n⟩] fun s ps =>
        .next (markFx (ps.foldl (fun s p =>
          newReq s (strandIssue s e)
            { loc := p.loc, len := n, lease := p.lease, cost := if isRemote e.k p.loc then 1 else 0, va := p.va,
              op := .cas w64 (cut (opD e d)) (cut (opB e b)) (.sreg d .b64 false), after := slotOrder s e }) s) e
            fun x => { x with close := true })

/-! ## FENCE and TFENCE (R198, R213, R235) -/

/-- The cores of a core's cluster (R129). -/
def clusterCores (k : CoreId) : List CoreId :=
  let d := k.val / 64 / 2 * 2
  let q := k.val % 64 / 4
  (List.range 8).map fun i => Fin.ofNat 256 (64 * (d + i / 4) + 4 * q + i % 4)

/-- TFENCE's removal of a context's translations at a scope (R213). -/
def tlbRemove (s : State) (k : CoreId) (c : CtxId) (sc : Scope) : State :=
  let core := fun (s : State) (k : CoreId) => modCore s k fun x => { x with tlb := tlbClear x.tlb c 0 0 }
  let die := fun (s : State) (d : DieId) => modDie s d fun x => { x with tlb := tlbClear x.tlb c 0 0 }
  let d := coreDie k
  match sc with
  | .core => die (core s k) d
  | .clu => die (die ((clusterCores k).foldl core s) d) (Fin.ofNat 4 (d.val ^^^ 1))
  | .dev | .sys => (List.finRange 4).foldl die (allCores.foldl core s)

/-- The wait that a fence makes: TFENCE waits as DEV at every scope (R213). -/
def fenceScope (sc : Scope) (tlb : Bool) : Scope :=
  if tlb then (match sc with | .sys => .sys | .core | .clu | .dev => .dev) else sc

/-- A fence's end: the translations go, and the agent has acquired (R202, R213). -/
def fenceEnd (s : State) (who : AgentRef) (c : CtxId) (sc : Scope) (tlb : Bool) : State :=
  let s := if tlb then tlbRemove s (agentCore who) c sc else s
  acquireCore s who

/-- FENCE and TFENCE of either stream. -/
def fenceOp (i : Instr) (g : Guard) (sc : Scope) (tlb : Bool) (s : State) : Out :=
  asOp i g s
    (fun e s =>
      let q := warpIssue s e
      if waitDone s q.who (fenceScope sc tlb) (owned s q.who) then .next (warpAdvance (fenceEnd s q.who q.ctx sc tlb) e)
      else waitFrag s e (.fence sc tlb) false)
    fun e s =>
      let q := strandIssue s e
      let s := markFx s e fun x => { x with close := true }
      if waitDone s q.who (fenceScope sc tlb) (owned s q.who) then .next (fenceEnd s q.who q.ctx sc tlb)
      else .next (newReq s q { loc := .shared e.k e.st.team 0, len := 0, op := .fence sc tlb, rel := some (fenceScope sc tlb) })

/-- FENCE (R235). -/
def execFence (g : Guard) (sc : Scope) (s : State) : Out := fenceOp (.fence g sc) g sc false s

/-- TFENCE (R213, R235). -/
def execTfence (g : Guard) (sc : Scope) (s : State) : Out := fenceOp (.tfence g sc) g sc true s

/-- The first request of an agent that still makes its wait of R198, with the agent's earlier requests: the order of a
strand's accesses is that of their numbers (R227). -/
def firstWait (s : State) (who : AgentRef) (want : Req → Bool) : Option (Req × List Req) :=
  match s.reqs.find? fun r => r.who == who && r.rel.isSome && want r with
  | some r => some (r, s.reqs.filter fun x => x.id < r.id && x.owners.contains who)
  | none => none

/-- FENCE_COMPLETE: a fence's wait is over (R198, R235). -/
def execFenceComplete (who : AgentRef) (s : State) : Out :=
  match who with
  | .frag k f =>
    match fragAt (coreAt s k) f with
    | some { state := .wait _ (.fence sc tlb), warp := ix, .. } =>
      if !waitDone s who (fenceScope sc tlb) (owned s who) then .refused .notEnabled
      else
        let c := match warpAt (coreAt s k) ix with | some w => teamCtx s w.team | none => 0
        .next (onFrag (fenceEnd s who c sc tlb) k f fun x => { x with state := .ready, pc := x.pc + 4 })
    | _ => .refused .notEnabled
  | .strand .. =>
    match firstWait s who fun r => match r.op with | .fence .. => true | _ => false with
    | some (r, before) =>
      match r.op with
      | .fence sc tlb =>
        if waitDone s who (fenceScope sc tlb) before then .next (endReq (fenceEnd s who r.ctx sc tlb) r.id)
        else .refused .notEnabled
      | _ => .refused .notEnabled
    | none => .refused .notEnabled

/-! ## PFT (R236) -/

/-- The line that an address prefetches, with its lease: that of an address that a weak load would translate to device memory. An
address whose walk meets an engine-pending line is dropped, since PFT leaves nothing to wait for (DESIGN CHOICE, log entry 82). -/
def prefetchLine (s : State) (q : Issue) (va : W64) : Option (Nat × Nat) :=
  match window s q.k q.team q.away va with
  | .global a =>
    match translate s q.k q.ctx .read a with
    | .ok (.dev c) lease _ => some (128 * lineOf c, lease)
    | _ => none
  | _ => none

/-- The walk of a prefetched address: a valid leaf enters the TLBs (R212). -/
def prefetchWalk (s : State) (q : Issue) (va : W64) : State :=
  match window s q.k q.team q.away va with
  | .global a =>
    match translate s q.k q.ctx .read a with
    | .ok .. => noteWalk s q.k q.ctx a
    | _ => s
  | _ => s

/-- The addresses of a PFT: their walks, and a fill for each, which takes tokens line by line (R236, R365). -/
def prefetch (s : State) (q : Issue) (vas : List W64) : State :=
  let fills := vas.filterMap fun va => (prefetchLine s q va).map fun p => (va, p)
  (costsBy (fun p => Loc.dev p.2.1) fills).foldl (fun s p =>
    newReq s q { loc := .dev p.1.2.1, len := 128, op := .fill, lease := p.1.2.2, own := false, va := p.1.1,
                 cost := if isRemote q.k (.dev p.1.2.1) then p.2 else 0 }) (vas.foldl (fun s va => prefetchWalk s q va) s)

/-- PFT: asks for fills, and never faults beyond decode (R236). -/
def execPft (g : Guard) (a : Reg) (s : State) : Out :=
  asOp (.pft g a) g s
    (fun e s =>
      let ok := fun l => (windowTrap e [a, a + 1]).isNone && !poisoned e l a && !poisoned e l (a + 1)
      let vas := ((allLanes.filter fun l => laneIn e.parts l && ok l).map fun l => readPair e l a)
      .next (warpAdvance (prefetch s (warpIssue s e) vas) e))
    fun e s => .next (if e.st.poison.getLsbD a.toNat then s else prefetch s (strandIssue s e) [opA e a])

/-! ## PAGE_WALK (R209 to R212) -/

/-- PAGE_WALK: a walk may begin at any time; a leaf enters the TLBs, and nothing else does (R211, R212). -/
def execPageWalk (k : CoreId) (c : CtxId) (va : W64) (s : State) : Out :=
  if (ctxAt s c).isNone || va.toNat / 4503599627370496 ≠ 0 then .refused .notEnabled
  else .next (noteWalk s k c va.toNat)

end Sys2Proof.Machine
end

