-- ==== Sys2Proof/Machine/Convert.lean ====
section
/-! DEFINITION. Format records and the conversions that read one: groups and blocks (R38 to R50), and CVTN (R175). -/

namespace Sys2Proof.Machine

/-! ## The record (R44, R45) -/

/-- A format record. -/
structure FormatRec where
  eadj : Int
  men : Bool
  psen : Bool
  clen : Bool
  rnd : Nat
  src : Nat
  tgt : Nat
  seed : W32
  clamp : W32
  prescale : W32
  deriving DecidableEq, Repr, Inhabited

/-- The fields of the 64 bytes of a record. -/
def formatRec (raw : List Byte) : FormatRec :=
  let w := fun i => BitVec.ofNat 32 (natLE ((raw.drop (4 * i)).take 4))
  let c := w 0
  { eadj := (c.extractLsb' 16 4).toInt, men := c.getLsbD 12, psen := c.getLsbD 11, clen := c.getLsbD 10,
    rnd := (c.extractLsb' 8 2).toNat, src := (c.extractLsb' 4 4).toNat, tgt := (c.extractLsb' 0 4).toNat,
    seed := w 1, clamp := w 2, prescale := w 3 }

/-- A record that makes its op ILLOP (R45). -/
def formatBad (r : FormatRec) : Bool :=
  r.rnd == 3 || r.src > 2 || r.tgt > 8 || (r.clen && (unpack fp32 r.clamp.toNat).isNan) ||
    (r.psen && (match unpack fp32 r.prescale.toNat with | .fin _ m _ => m == 0 | _ => true))

/-- The format of a code 0 to 4 (R34). -/
def codeFmt : Nat → Fmt
  | 0 => fp32 | 1 => bf16 | 2 => fp16 | 3 => e4m3 | _ => e5m2

/-- The stochastic generator (R49). -/
def srBits (seed : W32) (n : Nat) : W32 :=
  let x := seed ^^^ (BitVec.ofNat 32 n * 0x9E3779B9#32)
  let x := x ^^^ (x <<< 13)
  let x := x ^^^ (x >>> 17)
  x ^^^ (x <<< 5)

/-- The rounding of element n under a record. -/
def recRnd (r : FormatRec) (n : Nat) : Rnd :=
  match r.rnd with
  | 0 => .rne
  | 1 => .rz
  | _ => .sr (srBits r.seed n).toNat

/-! ## Groups (R47, R48, R50) -/

/-- A value without its sign. -/
def valAbs : Val → Val
  | .nan q => .nan q
  | .inf _ => .inf false
  | .fin _ m e => .fin false m e

/-- A value with a sign. -/
def withSign (n : Bool) (v : Val) : Val := if n then valNeg (valAbs v) else valAbs v

/-- The clamp bound, when one applies. -/
def clampOf (r : FormatRec) : Option Val :=
  if r.clen then some (valAbs (unpack fp32 r.clamp.toNat)) else none

/-- The pre-scale and first clamp steps (R47). -/
def prepare (r : FormatRec) (x : Val) : Val :=
  let x := if r.psen && !x.isNan then valMul x (unpack fp32 r.prescale.toNat) else x
  match clampOf r with
  | some b => if valLt b (valAbs x) then withSign x.neg b else x
  | none => x

/-- One element of a target of codes 0 to 4 after the first steps, with the final clamp step; its flags in a warp op
(R47, R50, R52). -/
def roundElem (r : FormatRec) (x : Val) (n : Nat) : Nat × BitVec 5 :=
  let f := codeFmt r.tgt
  let m := recRnd r n
  match clampOf r, x with
  | some (.fin _ bm be), .fin neg xm xe =>
    let bound := if bm = 0 then 0 else min f.top (roundMag f .rz false bm be).1
    let mag := if xm = 0 then 0 else (roundMag f m neg xm xe).1
    if mag > bound then
      let v := unpack f bound
      (signBits f neg + bound, flagIf (!valEq v (.fin false xm xe)) fNX)
    else roundTo f m x
  | _, _ => roundTo f m x

/-- A group of one element: its code and flags (R47). -/
def convertOne (r : FormatRec) (x : Val) (n : Nat) : Nat × BitVec 5 :=
  let (v, fl) := roundElem r (prepare r x) n
  (v, fl ||| sigFlag [x])

/-- Elements of a block, magnitude bits of an HX element, and the elements' own format for MX targets. -/
def blockSize (tgt : Nat) : Nat := if tgt = 5 ∨ tgt = 6 then 32 else 16
/-- k of an HX target (R40). -/
def hxBits (tgt : Nat) : Nat := if tgt = 7 then 7 else 2
/-- The element format of an MX target (R38). -/
def mxFmt (tgt : Nat) : Fmt := if tgt = 5 then e4m3 else e2m1

/-- An encoded block: scale or E, MB, and element codes. -/
structure Block where
  scale : Nat
  mb : Nat
  elems : List Nat
  deriving DecidableEq, Repr, Inhabited

/-- The shared exponent of a block from its largest magnitude (R48). -/
def blockExponent (r : FormatRec) (a : Val) : Int :=
  let raw : Int := match a with
    | .fin _ m e =>
      if m = 0 then -127
      else
        let e0 := magLog m e
        match r.tgt with
        | 5 => e0 - 8
        | 6 => e0 - 2
        | t => if (roundAt .rne false m e (e0 - hxBits t + 1)).1 = 2 ^ hxBits t then e0 + 1 else e0
    | _ => -127
  max (-127) (min 127 (raw + r.eadj))

/-- One element of a block in units of 2^u, with the final clamp (R47). -/
def blockElem (r : FormatRec) (x : Val) (n : Nat) (u : Int) : Nat :=
  let bound := fun (top : Nat) (bits : Nat → Int → Nat) => match clampOf r with
    | some (.fin _ m e) => if m = 0 then 0 else min top (bits m (e - u))
    | _ => top
  match x with
  | .fin neg m e =>
    if r.tgt = 5 ∨ r.tgt = 6 then
      let f := mxFmt r.tgt
      let q := if m = 0 then 0 else (roundMag f (recRnd r n) neg m (e - u)).1
      signBits f neg + min q (bound f.top fun m e => (roundMag f .rz false m e).1)
    else
      let k := hxBits r.tgt
      let q := (roundAt (recRnd r n) neg m (e - u) 0).1
      (if neg then 2 ^ k else 0) + min q (bound (2 ^ k - 1) fun m e => (roundAt .rz false m e 0).1)
  | _ => 0

/-- A block of an MX or HX target (R47, R48). -/
def convertBlock (r : FormatRec) (xs : List Val) (n0 : Nat) : Block :=
  let xs := xs.map (prepare r)
  if xs.any fun x => match x with | .fin .. => false | _ => true then
    { scale := 0xFF, mb := 0, elems := xs.map fun _ => 0 }
  else
    let a := xs.foldl (fun a x => if valLt a (valAbs x) then valAbs x else a) (.fin false 0 0)
    let e := blockExponent r a
    let hx := r.tgt = 7 ∨ r.tgt = 8
    let low := fun (j : Nat) => match xs[j]? with
      | some x => valLt (valAbs x) (.fin false 1 (e - 1))
      | none => true
    let micro := fun (j : Nat) => hx && r.men && low (2 * j) && low (2 * j + 1)
    let mb := if hx then (List.range 8).foldl (fun n j => if micro j then n + 2 ^ j else n) 0 else 0
    let unit := fun (j : Nat) => if hx then e - (if micro (j / 2) then 1 else 0) - (hxBits r.tgt - 1 : Nat) else e
    { scale := (e + 127).toNat, mb := mb,
      elems := (xs.zip (List.range xs.length)).map fun p => blockElem r p.1 (n0 + p.2) (unit p.2) }

/-! ## The load of a record (R45) -/

/-- What the load of a record comes to. -/
inductive RecRes where
  | ok (s : State) (raw : List Byte)
  | trap (t : TrapInfo)
  | absent (ls : List Loc)
  | pager (va : W64)
  /-- Its line is pending, or its tokens are outstanding. -/
  | wait
  /-- The bytes are poisoned, or the access was refused; the unit that detected it (R297, R304, R368). -/
  | poison (s : State) (u : Nat)

/-- The lane mask of an op that is executed once. -/
def laneBits (q : Issue) : LaneMask := 1#32 <<< q.lane.val

/-- A weak load of an op at its issue, aligned to 2^log; `own`: the bytes that the issuer's own store queue holds (R311).
It waits for the issuer's earlier accesses to its bytes and for what its core has still to send, takes its tokens, and what it reads is
remembered for a later fence (R197, R201, R203, R365). -/
def readRecord (s : State) (q : Issue) (i : Instr) (va : W64) (log len : Nat) (own : Loc → List (Nat × Byte)) : RecRes :=
  let a : Acc := ⟨q.lane, va, len⟩
  match checkAccs s q i .load log false [a] with
  | some t => .trap t
  | none =>
    match (absentLines s q a).eraseDups with
    | l :: ls => .absent (l :: ls)
    | [] =>
      let r := locate s q .load [a]
      match r.bad, r.pager, r.ok with
      | (_, n) :: _, _, _ => .trap (q.memv va n)
      | [], _ :: _, _ => .pager va
      | [], [], [] => .wait
      | [], [], p :: _ =>
        let (s, hit) := observe (noteWalks s q r.ok) q .load r.ok
        let s := if hit then noteWatch s q.who else s
        let done := fun (s : State) (bs : List Byte) (ms : List Nat) => RecRes.ok (noteSeen s q.who ms) (putBytes bs (own p.loc))
        match l1Hit s q p.loc len with
        | some h => done s h.1 h.2
        | none =>
          let m : Req := { id := s.nextId, who := q.who, place := q.place, agent := q.agent, lanes := laneBits q, issuers := [q.who],
                           owners := [], core := q.k, team := q.team,
                           ctx := q.ctx, wisn := q.wisn, pc := q.pc, va := va, loc := p.loc, len := len,
                           op := .load true false .none, lease := p.lease, cost := 1 }
          if hitPasses s q p.loc len || waitsPending s m || behind s m || s.reqs.any (fun a => holdsBack s a m) then .wait
          else
            match payTokens s m with
            | none => .wait
            | some s =>
              let seen := marksAt s p.loc len
              if refused s m then .poison (refusalRecord s (destDie q.k p.loc) m) 9
              else
                match p.loc with
                | .shared k t off => if sharedPoison s k t off len then .poison s 10 else done s (sharedBytes s k t off len) seen
                | .dev c =>
                  let tag := heldTag s q.team
                  let bs := viewBytes s tag c len
                  if linePoison s (lineOf c) then .poison s (detectUnit s p.loc len)
                  else
                    let mine := match tag with
                      | some (j, n) => s.held.any fun h => h.join == j && h.member == n && h.word / 32 == lineOf c
                      | none => false
                    let (s, e) := grantLease s (lineOf c) p.lease
                    done (if mine then s else installL1 s q.k (lineOf c) e) bs seen
                | .host a => done s (memBytes s.host a len) seen
                | .peer .. => let (s, bs) := freeBytes s len; done s bs seen

/-- A warp op that reads a record once for the whole fragment: its faults stop every lane (R175). -/
def warpRecordOp (e : WarpEnv) (s : State) (va : W64) (log len : Nat) (body : State → List Byte → Out) : Out :=
  match readRecord s (warpIssue s e) e.i va log len fun _ => [] with
  | .ok s raw => body s raw
  | .trap t => warpFault s e t
  | .absent ls => parkFrag s e (.presence ls)
  | .pager va => parkFrag s e (.fault [(leadLane e.parts, va)] true)
  | .wait => .next (uncount s e)
  | .poison s u => warpFault s e { cls := .seh, code := 1, synd := (1#1 ++ 0#31 : W32) ++ e.parts, unit := u }

/-- A strand op that reads a record: its bundle waits until it can be read (R121). -/
def strandRecordOp (e : StrandEnv) (s : State) (va : W64) (log len : Nat) (body : State → List Byte → Out) : Out :=
  match readRecord s (strandIssue s e) e.i va log len fun l => queuedBytes s e l len with
  | .ok s raw => body s raw
  | .trap t => strandFault s e t
  | .absent ls => strandStall s e (.presence ls)
  | .pager va => strandPager s e va
  | .wait => strandStall s e .landing
  | .poison s u => strandPoison s e (poisonInfo u 0)

/-! ## CVTN (R175) -/

/-- The combinations that CVTN accepts. -/
def cvtnOk (r : FormatRec) (a : Reg) : Bool :=
  if r.src = 0 then r.tgt = 0 || (r.tgt ≤ 4 && !a.getLsbD 0) else 1 ≤ r.tgt && r.tgt ≤ 4

/-- One lane of CVTN: the value of D and the flags. -/
def cvtnLane (r : FormatRec) (l : Lane) (x y : W32) : W32 × BitVec 5 :=
  let f := codeFmt r.src
  let n := 2 * l.val
  if r.src = 0 ∧ r.tgt = 0 then
    let q := convertOne r (unpack f x.toNat) n
    (BitVec.ofNat 32 q.1, q.2)
  else
    let u := if r.src = 0 then unpack f x.toNat else unpack f (halfOf false x).toNat
    let v := if r.src = 0 then unpack f y.toNat else unpack f (halfOf true x).toNat
    let p := convertOne r u n
    let q := convertOne r v (n + 1)
    (BitVec.ofNat 32 (q.1 * (if r.tgt ≤ 2 then 65536 else 256) + p.1), p.2 ||| q.2)

/-- CVTN: the record is read once, with the lead lane's address (R175). -/
def execCvtn (g : Guard) (d a b : Reg) (s : State) : Out :=
  warpOp (.cvtn g d a b) g s fun e s =>
    match windowTrap e [a, b, b + 1, d] with
    | some t => warpFault s e t
    | none => once e s [b, b + 1] [] fun l =>
      warpRecordOp e s (readPair e l b) 6 64 fun s raw =>
        let r := formatRec raw
        if formatBad r || !cvtnOk r a then warpFault s e (trapIllop e.i.encode 8)
        else
          let pair := r.src = 0 && r.tgt ≠ 0
          perLane e s (if pair then [a, a + 1] else [a]) [d] [] 4 fun l =>
            let q := cvtnLane r l (readReg e l a) (if pair then readReg e l (a + 1) else 0)
            { regs := [(d, q.1)], flags := q.2 }

end Sys2Proof.Machine
end

