-- ==== Sys2Proof/Machine/Pager.lean ====
section
/-! DEFINITION. The hardware pager (R214 to R217), translation for the units that wait for it, and the resumption of
agents that wait for present lines (R224). -/

namespace Sys2Proof.Machine

/-! ## What a fill finds (R214 to R217) -/

/-- A fill's inputs when it can be made. -/
structure FillPlan where
  /-- The entry, its cell, and its new value. -/
  old : W64
  cell : Nat
  new : W64
  pool : Nat
  /-- HEAD, and the 4096 bytes of the page; none when they come from a peer's memory. -/
  head : Nat
  data : Option (List Byte)
  deriving DecidableEq, Repr, Inhabited

/-- What the pager finds at a page. -/
inductive FillRes where
  | ready (p : FillPlan)
  /-- The pool is empty; ticks to wait. -/
  | empty (pool timeout : Nat)
  /-- The fault cannot be resolved (R217). -/
  | unusable
  /-- The entry no longer faults to the pager. -/
  | gone
  /-- Something the pager reads lies on an engine-pending line (R193). -/
  | wait

/-- The pool of an entry's view: 0 PKG, 1 + d DIE(d). -/
def poolOf (pte : W64) : Nat := if pteIL pte = 0 then 0 else 1 + pteD pte

/-- The pager's entry with its frame: V set, C clear, the rest kept (R216). -/
def filledPte (old : W64) (frame : Nat) : W64 :=
  (old &&& ~~~(0x000FFFFFFFFFF011#64)) ||| BitVec.ofNat 64 (frame % 2 ^ 52) ||| 1#64

/-- What a unit's access comes to: what it reaches, a wait, or an end. -/
inductive Reach (α : Type) where
  | ok (a : α)
  | wait
  | dead (va : W64)

/-- Bytes that a unit reads at home; it waits at an engine-pending line (R193, R202). -/
def homeRead (s : State) (c : CtxId) (va : W64) (n : Nat) : Reach (List Byte) :=
  match translateWalk s c .read va.toNat with
  | .ok (.dev cell) _ _ => if (linesOf cell n).any (linePending s) then .wait else .ok (devBytes s cell n)
  | .ok l _ _ => match locBytes s l n with | some bs => .ok bs | none => .dead va
  | .wait => .wait
  | .pager _ | .bad _ => .dead va

/-- The bytes that a descriptor gives a page (R215): zeros, or a copy from host memory or a peer's; none when the copy fails at
the port (R217). -/
def backing (s : State) (bd : List Byte) (va : Nat) : Option (Option (List Byte)) :=
  let w := fun i => natLE ((bd.drop (8 * i)).take 8)
  if w 0 % 16 = 0 then some (some (List.replicate 4096 0))
  else
    let a := (w 3 + (va - w 1)) / 4096 * 4096
    match a / 2 ^ 48 % 16 with
    | 0 => if (List.finRange 4).any Config.cabled then some (some (memBytes s.host (a % 2 ^ 48) 4096)) else none
    | t => if t ≤ 8 then some none else none

/-- What the pager finds for a fault at an address. -/
def fillPlan (s : State) (c : CtxId) (va : Nat) : FillRes :=
  match ctxAt s c with
  | none => .gone
  | some x =>
    match walk s x va with
    | .leaf .. | .bad => .gone
    | .wait => .wait
    | .pager pte cell =>
      if pteIL pte ≥ 2 then .unusable
      else
        let v := poolOf pte
        match homeRead s c (x.pager + BitVec.ofNat 64 (16 * v)) 16, homeRead s c (x.pager + 0x50) 16 with
        | .wait, _ => .wait
        | _, .wait => .wait
        | .ok pool, .ok table =>
          let ring := natLE (pool.take 8)
          let w := natLE (pool.drop 8)
          let log := w / 2 ^ 32 % 16
          let head := w % 65536
          let tail := w / 65536 % 65536
          let bdt := natLE (table.take 8)
          let rest := natLE (table.drop 8)
          let timeout := if rest / 2 ^ 32 % 65536 = 0 then 1000 else rest / 2 ^ 32 % 65536
          if log < 4 || pteFrame pte ≥ rest % 2 ^ 32 then .unusable
          else
            match homeRead s c (BitVec.ofNat 64 (bdt + 32 * pteFrame pte)) 32 with
            | .wait => .wait
            | .dead _ => .unusable
            | .ok bd =>
              let base := natLE ((bd.drop 8).take 8)
              let len := natLE ((bd.drop 16).take 8)
              if natLE (bd.take 8) % 16 > 1 || va < base || base + len ≤ va then .unusable
              else if head = tail then .empty v (1000 * timeout)
              else
                match homeRead s c (BitVec.ofNat 64 (ring + 8 * (head % 2 ^ log))) 8, backing s bd va with
                | .wait, _ => .wait
                | .ok e, some data =>
                  .ready { old := pte, cell := cell, new := filledPte pte (natLE e / 4096 * 4096), pool := v, head := head, data := data }
                | _, _ => .unusable
        | _, _ => .unusable

/-! ## Units that wait for the pager -/

/-- The fill of a page failed while this unit waited for it, and the unit is to be told. The pager itself keeps no memory of it: an access
of any other unit, or a later one of this unit, starts a new fill (R217). -/
def fillFailed (s : State) (c : CtxId) (u : UnitRef) (va : Nat) : Bool :=
  (ctxAt s c).isNone || s.failed.contains { ctx := c, page := va / 4096, unit := u }

/-- Translation for a unit: a page whose fill failed while it waited is out of its reach (R217). -/
def translateUnit (s : State) (c : CtxId) (u : UnitRef) (acc : Access) (va : Nat) : Trans :=
  match translateWalk s c acc va with
  | .pager pte => if fillFailed s c u va then .bad 5 else .pager pte
  | t => t

/-- A unit has been told of the fills that failed. -/
def toldUnit (s : State) (u : UnitRef) : State :=
  { s with wants := s.wants.filter fun w => w.unit != u, failed := s.failed.filter fun w => w.unit != u }

/-- A fill of the page failed, and every unit that wants the page is still to be told of it. -/
def onlyFailed (s : State) (c : CtxId) (va : Nat) : Bool :=
  let here := fun (w : Want) => w.ctx == c && w.page == va / 4096
  s.failed.any here && (s.wants.filter here).all s.failed.contains

/-! ## Waiting agents -/

/-- Two addresses lie on one page of 4 KiB. -/
def samePage (a b : Nat) : Bool := a / 4096 == b / 4096

/-- The context of a fragment. -/
def fragCtx (s : State) (k : CoreId) (x : Frag) : Option CtxId :=
  match warpAt (coreAt s k) x.warp with
  | some w => (teamAt s w.team).map (·.ctx)
  | none => none

/-- Fragments of a context that are parked on a page. -/
def pageFrags (s : State) (c : CtxId) (va : Nat) : List (CoreId × FragId) :=
  allCores.flatMap fun k => (allFrags.filter fun f =>
    match fragAt (coreAt s k) f with
    | some x =>
      (match x.state with | .parked (.fault vs _) => vs.any (fun v => samePage v.2.toNat va) | _ => false) && fragCtx s k x == some c
    | none => false).map fun f => (k, f)

/-- Strands of a context whose bundle waits for a page. -/
def pageStrands (s : State) (c : CtxId) (va : Nat) : List (CoreId × StrandId) :=
  allCores.flatMap fun k => (allStrands.filter fun n =>
    match strandAt (coreAt s k) n with
    | some x =>
      (match x.stall with | some (.pager v) => samePage v.toNat va | _ => false) && (teamAt s x.team).map (·.ctx) == some c
    | none => false).map fun n => (k, n)

/-- Every waiting fragment and strand resumes: each re-issues for its own lanes; a fragment that could not split waits for
all of its pages (R216, R223). -/
def resumePage (s : State) (c : CtxId) (va : Nat) : State :=
  let s := (pageFrags s c va).foldl (fun s p => onFrag s p.1 p.2 fun x =>
    match x.state with
    | .parked (.fault vs whole) =>
      let left := vs.filter fun v => !samePage v.2.toNat va
      { x with state := if whole && !left.isEmpty then .parked (.fault left whole) else .ready }
    | _ => x) s
  (pageStrands s c va).foldl (fun s p => onStrand s p.1 p.2 fun x => { x with stall := none }) s

/-- The pager's record of a fault that it cannot resolve (R217). -/
def pagerRecord (s : State) (c : CtxId) (va : Nat) : State :=
  let r : ErrRec := { cls := 0x15, akind := 3, addr := BitVec.ofNat 64 va, synd := 0x500000000#64 }
  match pageFrags s c va, pageStrands s c va with
  | (k, f) :: _, _ =>
    match fragAt (coreAt s k) f with
    | some x =>
      match warpAt (coreAt s k) x.warp with
      | some w =>
        let slot := match w.away with | some o => o.ix.val | none => x.warp.val
        imprecise s c { who := .frag k f, place := some (k, x.warp), agent := slot, gone := false, team := w.team }
          { r with rdie := coreDie k, wisn := x.num, pc := tpcOf x.pc }
      | none => writeRecord s c r
    | none => writeRecord s c r
  | [], (k, n) :: _ =>
    match strandAt (coreAt s k) n with
    | some x => imprecise s c { who := .strand k n, place := none, agent := 64 + n.val, gone := false, team := x.team }
        { r with rdie := coreDie k, wisn := BitVec.ofNat 64 x.clock, pc := tpcSlot x.pc 0 }
    | none => writeRecord s c r
  | [], [] => writeRecord s c r

/-- Every waiting fragment and strand takes MEMV, reason 5, and the units that wait for the page are told (R217). -/
def pagerFail (s : State) (c : CtxId) (va : Nat) : State :=
  let s := (pageFrags s c va).foldl (fun s p =>
    match fragAt (coreAt s p.1) p.2 with
    | some x =>
      match x.state with
      | .parked (.fault vs _) =>
        let bad := vs.filter fun v => samePage v.2.toNat va
        let lanes : LaneMask := bad.foldl (fun m v => m ||| (1#32 <<< v.1.val)) 0
        warpTrap (onFrag s p.1 p.2 fun y => { y with state := .ready }) p.1 p.2
          (trapMemv ((bad.head?.map (·.2)).getD 0) 5 lanes 8)
      | _ => s
    | none => s) s
  let s := (pageStrands s c va).foldl (fun s p => onStrand s p.1 p.2 fun x => { x with stall := none, failed := some (va / 4096) }) s
  let told := s.wants.filter fun w => w.ctx == c && w.page == va / 4096
  { s with failed := told ++ s.failed.filter fun w => !told.contains w }

/-! ## The steps -/

/-- A fill of a page under way. -/
def fillOf (s : State) (c : CtxId) (va : Nat) : Option Fill := s.fills.find? fun f => f.ctx == c && f.page == va / 4096

/-- A fill's record ends. -/
def dropFill (s : State) (c : CtxId) (va : Nat) : State :=
  { s with fills := s.fills.filter fun f => !(f.ctx == c && f.page == va / 4096) }

/-- The bytes of a page written at its frame, with the largest completion tick. -/
def writePage (s : State) (pte : W64) (data : List Byte) : State × Nat :=
  homeStores s ((List.range 32).map fun i => (frameCell pte (128 * i), (data.drop (128 * i)).take 128))

/-- A fill's start: the frame is written, and the swap waits for its completion ticks (R216). A pool entry whose frame lies outside its
view has no bytes to write and no tick to wait for; it is swapped in all the same (DESIGN CHOICE, log entry 89). -/
def fillStart (s : State) (c : CtxId) (va : Nat) (p : FillPlan) : State :=
  let (s, data) := match p.data with | some bs => (s, bs) | none => freeBytes s 4096
  let (s, w) := if frameOk s p.new 4096 then writePage s p.new data else (s, 0)
  let f : Fill := { ctx := c, page := va / 4096, pool := p.pool,
                    start := some { old := p.old, cell := p.cell, frame := pteFrame p.new, head := p.head, w := w } }
  { dropFill s c va with fills := f :: (dropFill s c va).fills }

/-- A fill's end: the entry is compared with what was read and swapped, and HEAD advances; an entry that has changed keeps the
frame in its pool (R216). Either way the waiting agents walk again. -/
def fillEnd (s : State) (c : CtxId) (va v : Nat) (f : FillWork) : State :=
  if BitVec.ofNat 64 (devNat s f.cell 8) = f.old then
    let s := (homeStore s f.cell (bytesLE 8 (filledPte f.old (4096 * f.frame)).toNat)).1
    match ctxAt s c with
    | none => s
    | some x =>
      match unitWrite s c (x.pager + BitVec.ofNat 64 (16 * v + 8)) (bytesLE 2 (f.head + 1)) with
      | some (s, _) => resumePage s c va
      | none => resumePage s c va
  else resumePage s c va

/-- The die whose management controller the pager reports a fault to: that of a waiting agent, or of the context's port. While it is
exchanged the report waits (R217, R392). -/
def escalationHeld (s : State) (c : CtxId) (a : Nat) : Bool :=
  match pageFrags s c a, pageStrands s c a, ctxAt s c with
  | (k, _) :: _, _, _ | [], (k, _) :: _, _ => commandsHeld s (coreDie k)
  | [], [], some x => commandsHeld s x.port
  | [], [], none => false

/-- PAGER_FILL: the frame of a faulting page is taken and written, and then swapped into the entry; a fault that cannot be
resolved is recorded and ends its waiters (R216, R217). -/
def execPagerFill (c : CtxId) (va : W64) (s : State) : Out :=
  let a := va.toNat
  match fillOf s c a with
  | some { start := some f, pool := v, .. } =>
    if !(f.w = 0 || decide (f.w < s.tick)) || linePending s (lineOf f.cell) then .refused .notEnabled
    else .next (fillEnd (dropFill s c a) c a v f)
  | old =>
    let idle := (pageFrags s c a).isEmpty && (pageStrands s c a).isEmpty
    if idle && onlyFailed s c a then .refused .notEnabled
    else
      match fillPlan s c a with
      | .wait => .refused .notEnabled
      | .gone => if old.isNone && idle then .refused .notEnabled else .next (resumePage (dropFill s c a) c a)
      | .unusable => if escalationHeld s c a then .refused .notEnabled else .next (pagerFail (pagerRecord (dropFill s c a) c a) c a)
      | .empty v _ =>
        match old with
        | some _ => .refused .notEnabled
        | none =>
          if escalationHeld s c a then .refused .notEnabled else
          let s := pagerRecord s c a
          .next { s with fills := { ctx := c, page := a / 4096, pool := v, empty := some s.tick } :: s.fills }
      | .ready p =>
        if s.fills.any fun f => f.ctx == c && f.pool == p.pool && f.start.isSome then .refused .notEnabled
        else .next (fillStart s c a p)

/-- PAGER_POOL_TIMEOUT: the pool stayed empty for TIMEOUT microseconds; MEMV (R217). -/
def execPagerPoolTimeout (c : CtxId) (va : W64) (s : State) : Out :=
  match fillOf s c va.toNat with
  | some { empty := some since, start := none, .. } =>
    match fillPlan s c va.toNat with
    | .empty _ n => if s.tick < since + n then .refused .notEnabled else .next (pagerFail (dropFill s c va.toNat) c va.toNat)
    | _ => .refused .notEnabled
  | _ => .refused .notEnabled

/-- A resumption acquires what the engines that set the presence bits of some lines have published there (R202). -/
def acquireLines (s : State) (who : AgentRef) (ls : List Loc) : State := ls.foldl (fun s l => acquireAt s who l 128) s

/-- PRESENCE_RESUME: every line is present; the fragment re-issues its load, a bundle is tried again, and the resumption
acquires (R202, R224). -/
def execPresenceResume (who : AgentRef) (s : State) : Out :=
  let here := fun (l : Loc) => match l with | .shared k t off => present s k t off 1 | _ => true
  match who with
  | .frag k f =>
    match fragAt (coreAt s k) f with
    | some { state := .parked (.presence ls), .. } =>
      if ls.all here then .next (acquireLines (onFrag s k f fun x => { x with state := .ready }) who ls) else .refused .notEnabled
    | _ => .refused .notEnabled
  | .strand k n =>
    match strandAt (coreAt s k) n with
    | some { stall := some (.presence ls), .. } =>
      if ls.all here then .next (acquireLines (onStrand s k n fun x => { x with stall := none }) who ls) else .refused .notEnabled
    | _ => .refused .notEnabled

end Sys2Proof.Machine
end

