-- ==== Sys2Proof/Machine/Scalar.lean ====
section
/-! DEFINITION. Integer arithmetic, constants, comparisons and predicate logic (R78 to R93). -/

namespace Sys2Proof.Machine

/-! ## The values (R81 to R90), at any operand width w -/

/-- High w bits of the signed product (R81). -/
def mulHigh {w : Nat} (a b : BitVec w) : BitVec w := BitVec.ofInt w (a.toInt * b.toInt / 2 ^ w)
/-- High w bits of the unsigned product (R81). -/
def mulHighU {w : Nat} (a b : BitVec w) : BitVec w := BitVec.ofNat w (a.toNat * b.toNat / 2 ^ w)
/-- The smaller, signed. -/
def sMin {w : Nat} (a b : BitVec w) : BitVec w := if b.slt a then b else a
/-- The larger, signed. -/
def sMax {w : Nat} (a b : BitVec w) : BitVec w := if a.slt b then b else a
/-- The smaller, unsigned. -/
def uMin {w : Nat} (a b : BitVec w) : BitVec w := if b.ult a then b else a
/-- The larger, unsigned. -/
def uMax {w : Nat} (a b : BitVec w) : BitVec w := if a.ult b then b else a
/-- Left shift by a whole operand: a count of w or more gives 0 (R82). -/
def shiftL {w : Nat} (a : BitVec w) (n : Nat) : BitVec w := if n < w then a <<< n else 0
/-- Right shift, zeros entering (R82). -/
def shiftR {w : Nat} (a : BitVec w) (n : Nat) : BitVec w := if n < w then a >>> n else 0
/-- Right shift, copies of the sign entering (R82). -/
def shiftA {w : Nat} (a : BitVec w) (n : Nat) : BitVec w := a.sshiftRight (if n < w then n else w)
/-- Number of 1 bits (R83). -/
def popCount {w : Nat} (a : BitVec w) : BitVec w := BitVec.ofNat w ((List.range w).countP a.getLsbD)
/-- Zero bits above the highest 1 bit (R83). -/
def leadZeros {w : Nat} (a : BitVec w) : BitVec w :=
  BitVec.ofNat w (if a = 0 then w else w - 1 - Nat.log2 a.toNat)
/-- The bits in reverse (R83). -/
def bitReverse {w : Nat} (a : BitVec w) : BitVec w :=
  BitVec.ofNat w ((List.range w).foldl (fun n i => 2 * n + (a.getLsbD i).toNat) 0)
/-- Rotation left by B mod w (R83). -/
def rotLeft {w : Nat} (a b : BitVec w) : BitVec w := a.rotateLeft (b.toNat % w)
/-- The magnitude; the most negative value is its own (R83). -/
def absVal {w : Nat} (a : BitVec w) : BitVec w := if a.msb then 0 - a else a

/-- pos, len and sgn of a field descriptor, len limited to w (R85). -/
def bitField (w : Nat) (b : Nat) : Nat × Nat × Bool := (b % 256, min (b / 256 % 256) w, b / 65536 % 2 == 1)
/-- BFE (R85). -/
def fieldExtract {w : Nat} (a b : BitVec w) : BitVec w :=
  let (pos, len, sgn) := bitField w b.toNat
  if len = 0 ∨ pos ≥ w then 0
  else
    let f := a.toNat / 2 ^ pos % 2 ^ len
    if sgn && f / 2 ^ (len - 1) % 2 == 1 then BitVec.ofInt w ((f : Int) - 2 ^ len) else BitVec.ofNat w f
/-- BFI (R85). -/
def fieldInsert {w : Nat} (a b d : BitVec w) : BitVec w :=
  let (pos, len, _) := bitField w b.toNat
  let m : BitVec w := BitVec.ofNat w ((2 ^ len - 1) * 2 ^ pos)
  (d &&& ~~~m) ||| (BitVec.ofNat w (a.toNat * 2 ^ pos) &&& m)
/-- MOVH: bits [31:16] replaced, bit 31 extended upward (R90). -/
def moveHigh {w : Nat} (imm : BitVec 16) (d : BitVec w) : BitVec w :=
  BitVec.signExtend w (imm ++ d.extractLsb' 0 16)
/-- A comparison under a condition code (R92). -/
def condHolds {w : Nat} (cc : Cond) (a b : BitVec w) : Bool :=
  match cc with
  | .eq => a == b
  | .ne => a != b
  | .lt => a.slt b
  | .le => a.sle b
  | .gt => b.slt a
  | .ge => b.sle a
  | .ltn => a.ult b
  | .gen => b.ule a

/-! ## ALU (R81, R82) -/

/-- ADD (R81). -/
def execAdd (g : Guard) (d a b : Reg) (s : State) : Out :=
  alu (.add g d a b) g d a b [a, b] s fun _ a b _ => a + b

/-- SUB (R81). -/
def execSub (g : Guard) (d a b : Reg) (s : State) : Out :=
  alu (.sub g d a b) g d a b [a, b] s fun _ a b _ => a - b

/-- MUL (R81). -/
def execMul (g : Guard) (d a b : Reg) (s : State) : Out :=
  alu (.mul g d a b) g d a b [a, b] s fun _ a b _ => a * b

/-- MULH (R81). -/
def execMulh (g : Guard) (d a b : Reg) (s : State) : Out :=
  alu (.mulh g d a b) g d a b [a, b] s fun _ a b _ => mulHigh a b

/-- MULHN (R81). -/
def execMulhn (g : Guard) (d a b : Reg) (s : State) : Out :=
  alu (.mulhn g d a b) g d a b [a, b] s fun _ a b _ => mulHighU a b

/-- MIN (R81). -/
def execMin (g : Guard) (d a b : Reg) (s : State) : Out :=
  alu (.min g d a b) g d a b [a, b] s fun _ a b _ => sMin a b

/-- MAX (R81). -/
def execMax (g : Guard) (d a b : Reg) (s : State) : Out :=
  alu (.max g d a b) g d a b [a, b] s fun _ a b _ => sMax a b

/-- MINN (R81). -/
def execMinn (g : Guard) (d a b : Reg) (s : State) : Out :=
  alu (.minn g d a b) g d a b [a, b] s fun _ a b _ => uMin a b

/-- MAXN (R81). -/
def execMaxn (g : Guard) (d a b : Reg) (s : State) : Out :=
  alu (.maxn g d a b) g d a b [a, b] s fun _ a b _ => uMax a b

/-- AND (R81). -/
def execAnd (g : Guard) (d a b : Reg) (s : State) : Out :=
  alu (.and g d a b) g d a b [a, b] s fun _ a b _ => a &&& b

/-- OR (R81). -/
def execOr (g : Guard) (d a b : Reg) (s : State) : Out :=
  alu (.or g d a b) g d a b [a, b] s fun _ a b _ => a ||| b

/-- XOR (R81). -/
def execXor (g : Guard) (d a b : Reg) (s : State) : Out :=
  alu (.xor g d a b) g d a b [a, b] s fun _ a b _ => a ^^^ b

/-- ANDN (R81). -/
def execAndn (g : Guard) (d a b : Reg) (s : State) : Out :=
  alu (.andn g d a b) g d a b [a, b] s fun _ a b _ => a &&& ~~~b

/-- SHL (R81). -/
def execShl (g : Guard) (d a b : Reg) (s : State) : Out :=
  alu (.shl g d a b) g d a b [a, b] s fun _ a b _ => shiftL a b.toNat

/-- SHR (R81). -/
def execShr (g : Guard) (d a b : Reg) (s : State) : Out :=
  alu (.shr g d a b) g d a b [a, b] s fun _ a b _ => shiftR a b.toNat

/-- SAR (R81). -/
def execSar (g : Guard) (d a b : Reg) (s : State) : Out :=
  alu (.sar g d a b) g d a b [a, b] s fun _ a b _ => shiftA a b.toNat

/-! ## ALU2 (R83 to R87) -/

/-- MOV (R83). -/
def execMov (g : Guard) (d a : Reg) (s : State) : Out := alu (.mov g d a) g d a a [a] s fun _ a _ _ => a

/-- SEL: G selects, and the op always executes (R84). -/
def execSel (g : Guard) (d a b : Reg) (s : State) : Out :=
  asOp (.sel g d a b) always s
    (fun e s => perLane e s [a, b] [d] [] 2 fun l =>
      { regs := [(d, if guardOn g e.w.lanes[l].p then readReg e l a else readReg e l b)] })
    (fun e s => .next (pendAdd s e 1 (.sreg d (if opGuard e g then opA e a else opB e b))))

/-- MAC: D is also a source (R83). -/
def execMac (g : Guard) (d a b : Reg) (s : State) : Out :=
  alu (.mac g d a b) g d a b [a, b, d] s fun _ a b d => d + a * b

/-- POPC (R83). -/
def execPopc (g : Guard) (d a : Reg) (s : State) : Out :=
  alu (.popc g d a) g d a a [a] s fun _ a _ _ => popCount a

/-- CLZ (R83). -/
def execClz (g : Guard) (d a : Reg) (s : State) : Out :=
  alu (.clz g d a) g d a a [a] s fun _ a _ _ => leadZeros a

/-- BREV (R83). -/
def execBrev (g : Guard) (d a : Reg) (s : State) : Out :=
  alu (.brev g d a) g d a a [a] s fun _ a _ _ => bitReverse a

/-- ABS (R83). -/
def execAbs (g : Guard) (d a : Reg) (s : State) : Out :=
  alu (.abs g d a) g d a a [a] s fun _ a _ _ => absVal a

/-- NEG (R83). -/
def execNeg (g : Guard) (d a : Reg) (s : State) : Out :=
  alu (.neg g d a) g d a a [a] s fun _ a _ _ => 0 - a

/-- BFE (R85). -/
def execBfe (g : Guard) (d a b : Reg) (s : State) : Out :=
  alu (.bfe g d a b) g d a b [a, b] s fun _ a b _ => fieldExtract a b

/-- BFI: D is also a source (R85). -/
def execBfi (g : Guard) (d a b : Reg) (s : State) : Out :=
  alu (.bfi g d a b) g d a b [a, b, d] s fun _ a b d => fieldInsert a b d

/-- ROTL (R83). -/
def execRotl (g : Guard) (d a b : Reg) (s : State) : Out :=
  alu (.rotl g d a b) g d a b [a, b] s fun _ a b _ => rotLeft a b

/-- A 64-bit result as the register pair D:D+1 of a lane (R60). -/
def pairRes (d : Reg) (v : W64) : List (Reg × W32) := [(d, v.extractLsb' 0 32), (d + 1, v.extractLsb' 32 32)]

/-- MULW: the exact product of two signed 32-bit values (R86). -/
def execMulw (g : Guard) (d a b : Reg) (s : State) : Out :=
  asOp (.mulw g d a b) g s
    (fun e s => perLane e s [a, b] [d, d + 1] [] 2 fun l =>
      { regs := pairRes d ((readReg e l a).signExtend 64 * (readReg e l b).signExtend 64) })
    (fun e s => .next (pendAdd s e 1 (.sreg d
      (((opA e a).extractLsb' 0 32).signExtend 64 * ((opB e b).extractLsb' 0 32).signExtend 64))))

/-- LEA: a scaled address (R87). -/
def execLea (g : Guard) (d a b : Reg) (sh : BitVec 2) (s : State) : Out :=
  asOp (.lea g d a b sh) g s
    (fun e s => perLane e s [a, a + 1, b] [d, d + 1] [] 2 fun l =>
      { regs := pairRes d (readPair e l a + ((readReg e l b).signExtend 64 <<< sh.toNat)) })
    (fun e s => .next (pendAdd s e 1 (.sreg d (opA e a + (opB e b <<< sh.toNat)))))

/-! ## Immediates and constants (R89 to R91) -/

/-- ADDI: the immediate is sign-extended (R89). -/
def execAddi (g : Guard) (d a : Reg) (imm : BitVec 10) (s : State) : Out :=
  alu (.addi g d a imm) g d a a [a] s fun w a _ _ => a + imm.signExtend w

/-- ANDI: the immediate is sign-extended (R89). -/
def execAndi (g : Guard) (d a : Reg) (imm : BitVec 10) (s : State) : Out :=
  alu (.andi g d a imm) g d a a [a] s fun w a _ _ => a &&& imm.signExtend w

/-- ORI: the immediate is sign-extended (R89). -/
def execOri (g : Guard) (d a : Reg) (imm : BitVec 10) (s : State) : Out :=
  alu (.ori g d a imm) g d a a [a] s fun w a _ _ => a ||| imm.signExtend w

/-- XORI: the immediate is sign-extended (R89). -/
def execXori (g : Guard) (d a : Reg) (imm : BitVec 10) (s : State) : Out :=
  alu (.xori g d a imm) g d a a [a] s fun w a _ _ => a ^^^ imm.signExtend w

/-- SHLI (R82, R89). -/
def execShli (g : Guard) (d a : Reg) (n : BitVec 6) (s : State) : Out :=
  alu (.shli g d a n) g d a a [a] s fun _ a _ _ => shiftL a n.toNat

/-- SHRI (R82, R89). -/
def execShri (g : Guard) (d a : Reg) (n : BitVec 6) (s : State) : Out :=
  alu (.shri g d a n) g d a a [a] s fun _ a _ _ => shiftR a n.toNat

/-- SARI (R82, R89). -/
def execSari (g : Guard) (d a : Reg) (n : BitVec 6) (s : State) : Out :=
  alu (.sari g d a n) g d a a [a] s fun _ a _ _ => shiftA a n.toNat

/-- MOVI: the immediate is sign-extended (R90). -/
def execMovi (g : Guard) (d : Reg) (imm : BitVec 16) (s : State) : Out :=
  alu (.movi g d imm) g d d d [] s fun w _ _ _ => imm.signExtend w

/-- MOVH: D is also a source (R90). -/
def execMovh (g : Guard) (d : Reg) (imm : BitVec 16) (s : State) : Out :=
  alu (.movh g d imm) g d d d [d] s fun _ _ _ d => moveHigh imm d

/-- LIMM: the extension word in a lane, the 48-bit value I16:X sign-extended in a strand (R91). -/
def execLimm (g : Guard) (d : Reg) (imm : BitVec 16) (ext : W32) (s : State) : Out :=
  asOp (.limm g d imm ext) g s
    (fun e s => perLane e s [] [d] [] 2 fun _ => { regs := [(d, ext)] })
    (fun e s => .next (pendAdd s e 1 (.sreg d ((imm ++ ext).signExtend 64))))

/-! ## Comparisons and predicates (R92, R93) -/

/-- CMP of bits [31:0] (R92). -/
def execCmp (g : Guard) (pd : Pred) (cc : Cond) (a b : Reg) (s : State) : Out :=
  aluCmp (.cmp g pd cc a b) g pd a b [a, b] s (condHolds cc)
    fun x y => condHolds cc (x.extractLsb' 0 32) (y.extractLsb' 0 32)

/-- CMP.64 of a strand (R92). -/
def execCmp64 (g : Guard) (pd : Pred) (cc : Cond) (a b : Reg) (s : State) : Out :=
  aluCmp (.cmp64 g pd cc a b) g pd a b [a, b] s (condHolds cc) (condHolds cc)

/-- CMPI against the sign-extended immediate, at the stream's width (R92). -/
def execCmpi (g : Guard) (pd : Pred) (cc : Cond) (a : Reg) (imm : BitVec 10) (s : State) : Out :=
  aluCmp (.cmpi g pd cc a imm) g pd a a [a] s (fun x _ => condHolds cc x (imm.signExtend 32))
    fun x _ => condHolds cc x (imm.signExtend 64)

/-- A predicate op of both streams (R93). -/
def predOp (i : Instr) (g : Guard) (pd pa pb : Pred) (s : State) (f : Bool → Bool → Bool) : Out :=
  asOp i g s
    (fun e s => perLane e s [] [] [pd] 2 fun l =>
      { preds := [(pd, f (predGet e.w.lanes[l].p pa) (predGet e.w.lanes[l].p pb))] })
    (fun e s => .next (pendAdd s e 1 (.pred pd (f (opPred e (fun r => r.a) pa) (opPred e (fun r => r.b) pb)))))

/-- PAND (R93). -/
def execPand (g : Guard) (pd pa pb : Pred) (s : State) : Out :=
  predOp (.pand g pd pa pb) g pd pa pb s fun a b => a && b
/-- POR (R93). -/
def execPor (g : Guard) (pd pa pb : Pred) (s : State) : Out :=
  predOp (.por g pd pa pb) g pd pa pb s fun a b => a || b
/-- PXOR (R93). -/
def execPxor (g : Guard) (pd pa pb : Pred) (s : State) : Out :=
  predOp (.pxor g pd pa pb) g pd pa pb s fun a b => a != b
/-- PANDN (R93). -/
def execPandn (g : Guard) (pd pa pb : Pred) (s : State) : Out :=
  predOp (.pandn g pd pa pb) g pd pa pb s fun a b => a && !b

end Sys2Proof.Machine
end

