-- ==== Sys2Proof/Machine/Engine.lean ====
section
/-! DEFINITION. Copy engines, presence bits and rings (R241 to R253): CPK, PCLR, AWAIT, the ring ops, the acceptance,
movement and completion of copies, and the wakes of AWAIT and of the ring ops. -/

namespace Sys2Proof.Machine

/-! ## Addresses of engine and ring ops (R247, R252) -/

/-- The core and offset of a local or cluster shared address: MEMV, then ALIGN (R222). A global or control address reports reason 0
(DESIGN CHOICE, log entry 76). -/
def sharedTarget (s : State) (q : Issue) (a : W64) (log : Nat) (lanes : LaneMask) : Except TrapInfo (CoreId × Nat) :=
  match window s q.k q.team q.away a with
  | .shared k off =>
    if off ≥ teamShared s q.team then .error (trapMemv a 1 lanes q.unit)
    else if a.toNat % 2 ^ log ≠ 0 then .error (trapAlign a log q.unit)
    else .ok (k, off)
  | .bad r => .error (trapMemv a r lanes q.unit)
  | .global _ | .control _ => .error (trapMemv a 0 lanes q.unit)

/-- The single lane of a mask. -/
def laneBit (l : Lane) : LaneMask := 1#32 <<< l.val

/-- A fragment's op ends: the fragment is ready past it. -/
def warpEnd (s : State) (e : WarpEnv) : State :=
  warpAdvance (onFrag s e.k e.f fun x => { x with state := .ready }) e

/-! ## CPK, PCLR and AWAIT (R242, R247) -/

/-- CPK of a warp. -/
def warpCpk (a : Reg) (e : WarpEnv) (s : State) : Out :=
  once e s [a, a + 1] [] fun l =>
    let q := warpIssue s e
    let va := readPair e l a
    match kickCheck s q va (laneBit l) with
    | some t => warpFault s e t
    | none => if queueRoom s e.k 1 then .next (warpEnd (kickSend s q va none []) e) else waitFrag s e .copyQueue false

/-- A slot is left for a later turn, when the rest of its bundle has begun what it must come after (R199, R227). -/
def slotLater (s : State) (e : StrandEnv) : Out := .next (markFx s e fun x => { x with later := x.later ++ [e.slot] })

/-- Every access of an agent has been sent. -/
def allSent (s : State) (who : AgentRef) : Bool := !s.reqs.any fun r => r.held && r.issuers.contains who && !isEngine r.op

/-- Something that slot 6 of this bundle has begun comes before slot 7: an acquire, a release that waits, or an access that is still to
be sent (R16, R199, R227). -/
def slotBusy (s : State) (e : StrandEnv) : Bool := !(slotOrder s e).isEmpty || (e.slot == 7 && !allSent s (.strand e.k e.n))

/-- CPK (R242). -/
def execCpk (g : Guard) (a : Reg) (s : State) : Out :=
  asOp (.cpk g a) g s (warpCpk a) fun e s =>
    let q := strandIssue s e
    match kickCheck s q (opA e a) 1 with
    | some t => strandFault s e t
    | none =>
      if queueRoom s e.k 1 then .next (markFx (kickSend s q (opA e a) none (slotOrder s e)) e fun x => { x with close := true })
      else strandStall s e .copyQueue

/-- PCLR's effect: the presence bits of every line that overlaps the range, at the owning core. -/
def presenceClear (s : State) (q : Issue) (a : W64) (n : Nat) (lanes : LaneMask) : Except TrapInfo State :=
  match sharedTarget s q a 0 lanes with
  | .error t => .error t
  | .ok (k, off) =>
    if off + n > teamShared s q.team then .error (trapMemv a 1 lanes q.unit)
    else .ok (setPresence s k q.team (linesOf off n) false)

/-- PCLR (R247). -/
def execPclr (g : Guard) (a b : Reg) (s : State) : Out :=
  asOp (.pclr g a b) g s
    (fun e s => once e s [a, a + 1, b] [] fun l =>
      match presenceClear s (warpIssue s e) (readPair e l a) (readReg e l b).toNat (laneBit l) with
      | .error t => warpFault s e t
      | .ok s => .next (warpEnd s e))
    fun e s =>
      match presenceClear s (strandIssue s e) (opA e a) (opB e b).toNat 1 with
      | .error t => strandFault s e t
      | .ok t => if allSent s (.strand e.k e.n) && !slotBusy s e then .next (markFx t e fun x => { x with close := true }) else slotLater s e

/-- The word of an AWAIT has ended its wait: zero, or negative as a signed number. -/
def awaitDone (s : State) (k : CoreId) (team off : Nat) : Bool :=
  (BitVec.ofNat 32 (natLE (sharedBytes s k team off 4))).sle 0

/-- AWAIT of a warp. -/
def warpAwait (a : Reg) (e : WarpEnv) (s : State) : Out :=
  once e s [a, a + 1] [] fun l =>
    let q := warpIssue s e
    match sharedTarget s q (readPair e l a) 2 (laneBit l) with
    | .error t => warpFault s e t
    | .ok (k, off) =>
      if awaitDone s k q.team off then .next (warpEnd (acquireAt s q.who (.shared k q.team off) 4) e)
      else waitFrag s e (.await (.shared k q.team off)) true

/-- AWAIT (R247). In an open segment, which it does not close, it reads the word at the owning core alone: a store to it that the
strand's own queue still holds does not end its wait (R16, R311; DESIGN CHOICE, log entry 87). -/
def execAwait (g : Guard) (a : Reg) (s : State) : Out :=
  asOp (.await g a) g s (warpAwait a) fun e s =>
    let q := strandIssue s e
    match sharedTarget s q (opA e a) 2 1 with
    | .error t => strandFault s e t
    | .ok (k, off) =>
      if slotBusy s e then slotLater s e
      else if awaitDone s k q.team off then .next (acquireAt s q.who (.shared k q.team off) 4)
      else strandStall s e (.await (.shared k q.team off))

/-- A fragment's waiting op is done again at the end of its wait; an op that would wait on is not enabled. -/
def againOp (s : State) (k : CoreId) (f : FragId) (i : Instr) (g : Guard) (body : WarpEnv → State → Out) : Out :=
  withSel s k f fun s =>
    match againEnv i g k f s with
    | none => .refused .notEnabled
    | some e =>
      match body e s with
      | .next t =>
        match fragAt (coreAt t k) f with
        | some { state := .wait _ _, .. } => .refused .notEnabled
        | _ => .next t
      | r => r

/-- AWAIT_WAKE: the word has come to zero or below (R247). -/
def execAwaitWake (who : AgentRef) (s : State) : Out :=
  match who with
  | .frag k f =>
    match fragAt (coreAt s k) f with
    | some { state := .wait (.await g a) (.await _), .. } => againOp s k f (.await g a) g (warpAwait a)
    | _ => .refused .notEnabled
  | .strand k n =>
    match strandAt (coreAt s k) n with
    | some { stall := some (.await (.shared k' t off)), .. } =>
      if awaitDone s k' t off then .next (onStrand s k n fun x => { x with stall := none }) else .refused .notEnabled
    | _ => .refused .notEnabled

/-! ## Copies: acceptance (R241, R243, R245) -/

/-- The signed stride of a request, as a 64-bit step. -/
def strideOf (q : CopyReq) (lo : Nat) : W64 := (BitVec.ofNat 32 (reqField q 0x18 lo 32)).signExtend 64

/-- LEN, the elements, and KIND of a request. -/
def copyLen (q : CopyReq) : Nat := reqField q 0x10 0 32
/-- KIND. -/
def copyKind (q : CopyReq) : Nat := reqField q 0x30 0 4
/-- Elements of a request. -/
def copyCount (q : CopyReq) : Nat := if copyKind q = 0 then 1 else reqField q 0x10 32 32
/-- The completion scope. -/
def copyScope (q : CopyReq) : Scope :=
  match reqField q 0x30 4 2 with
  | 0 => .core | 1 => .clu | 2 => .dev | _ => .sys

/-- Indices of a request. -/
def copyIndices (q : CopyReq) : Nat := if copyKind q ≥ 2 then copyCount q else 0

/-- A request that breaks R241 in itself: only CNT is ignored by a kind. -/
def copyBad (s : State) (q : CopyReq) : Bool :=
  let size := teamShared s q.team
  let len := copyLen q
  let cnt := reqField q 0x10 32 32
  let aw := reqField q 0x28 0 32
  let rcb := reqField q 0x28 32 32
  copyKind q > 3 || reqField q 0x30 16 48 ≠ 0 || reqField q 0x30 7 1 ≠ 0 || reqField q 0x38 0 64 ≠ 0 ||
    len < 4 || len > 16777216 || len % 4 ≠ 0 || reqField q 0 0 64 % 4 ≠ 0 || reqField q 8 0 64 % 4 ≠ 0 ||
    (copyKind q ≠ 0 && (cnt = 0 || cnt > 65535)) ||
    reqField q 0x18 0 32 % 4 ≠ 0 || reqField q 0x18 32 32 % 4 ≠ 0 || reqField q 0x20 0 64 % 4 ≠ 0 ||
    (aw ≠ 0xFFFFFFFF && (aw % 4 ≠ 0 || aw + 4 > size)) ||
    (rcb ≠ 0xFFFFFFFF && (rcb % 64 ≠ 0 || rcb + 64 > size))

/-- Source and destination of element i (R241). -/
def copyElem (q : CopyReq) (i : Nat) : W64 × W64 :=
  let src := BitVec.ofNat 64 (reqField q 0 0 64)
  let dst := BitVec.ofNat 64 (reqField q 8 0 64)
  let n := BitVec.ofNat 64 i
  let len := BitVec.ofNat 64 (copyLen q)
  let x := BitVec.ofNat 64 (q.idx.getD i 0)
  match copyKind q with
  | 0 => (src, dst)
  | 1 => (src + n * strideOf q 0, dst + n * strideOf q 32)
  | 2 => (src + x * strideOf q 0, dst + n * len)
  | _ => (src + n * len, dst + x * strideOf q 32)

/-- The place of a destination address of a copy (R243, R245). -/
def copyDest (s : State) (k : CoreId) (q : CopyReq) (va : W64) (n : Nat) : Reach (Loc × Nat) :=
  match window s k q.team false va with
  | .shared k' off =>
    if off + n ≤ teamShared s q.team then .ok (.shared k' q.team off, 0) else .dead va
  | .global a =>
    match translateUnit s q.ctx (.copy q.id) .write a with
    | .ok l lease _ => .ok (l, lease)
    | .pager _ | .wait => .wait
    | .bad _ => .dead va
  | .control _ | .bad _ => .dead va

/-- The destination places of one element, line by line, each with its bytes in that line. -/
def elemLines (s : State) (k : CoreId) (q : CopyReq) (dst : W64) (len : Nat) : Reach (List (Loc × Nat)) :=
  let lo := dst.toNat % 128
  (linesOf lo len).foldl (fun r i =>
    match r with
    | .ok ls =>
      let at_ := if i = 0 then dst else BitVec.ofNat 64 (alignDown dst.toNat 128 + 128 * i)
      match copyDest s k q at_ 4 with
      | .ok (l, _) => .ok (ls ++ [(l, min (lo + len) (128 * i + 128) - max lo (128 * i))])
      | .wait => .wait
      | .dead va => .dead va
    | r => r) (.ok [])

/-- The place of a source address of a copy (R243, R245). -/
def copySource (s : State) (k : CoreId) (q : CopyReq) (va : W64) (n : Nat) : Reach Loc :=
  match window s k q.team false va with
  | .shared k' off => if off + n ≤ teamShared s q.team then .ok (.shared k' q.team off) else .dead va
  | .global a =>
    match translateUnit s q.ctx (.copy q.id) .read a with
    | .pager _ | .wait => .wait
    | .bad _ => .dead va
    | .ok l _ _ => .ok l
  | .control _ | .bad _ => .dead va

/-- A read of the copy engine as a request; a line that an element goes on in has its token already (R365). -/
def engineReq (k : CoreId) (q : CopyReq) (va : W64) (l : Loc) (n : Nat) (pay : Bool) : Req :=
  { id := q.id, who := q.who, place := q.place, issuers := [], owners := [], core := k, team := q.team, ctx := q.ctx,
    wisn := q.wisn, pc := q.pc, va := va, loc := l, len := n, op := .engine q.id [] false, cost := if pay then 1 else 0 }

/-- A read by the copy engine: at home, never from an L1 (R243), after what its core has sent there (R197); its own marks do
not hold it. A line costs a token, which `pay` asks for, and a write of the engine that waits for tokens comes first (R365,
R367). A shared line is read whether or not it is present: presence bits gate loads, TLD and MMAR (R246; log entry 44). -/
def engineRead (s : State) (k : CoreId) (q : CopyReq) (va : W64) (n : Nat) (pay : Bool) : Reach (State × List Byte × Bool) :=
  match copySource s k q va n with
  | .wait => .wait
  | .dead va => .dead va
  | .ok l =>
    let m := engineReq k q va l n pay
    let marked := match l with
      | .dev c => (match homeLine s (lineOf c) with | some x => x.pend.any fun o => o != q.id | none => false)
      | _ => false
    if marked || s.reqs.any (fun r => holdsBack s r m || (r.core == k && r.held && isEngine r.op)) then .wait
    else
      match payTokens s m with
      | none => .wait
      | some s =>
        if refused s m then .dead va
        else
          match l with
          | .dev c => .ok (s, viewBytes s (heldTag s q.team) c n, linePoison s (lineOf c))
          | .host a => .ok (s, memBytes s.host a n, false)
          | .shared k' t o => .ok (s, sharedBytes s k' t o n, sharedPoison s k' t o n)
          | .peer .. => let (s, bs) := freeBytes s n; .ok (s, bs, false)

/-- The address and the bytes of the next line of a request's indices. -/
def nextIndices (q : CopyReq) : W64 × Nat :=
  let a := BitVec.ofNat 64 (reqField q 0x20 0 64) + BitVec.ofNat 64 (4 * q.idx.length)
  (a, min (4 * (copyIndices q - q.idx.length)) (128 - a.toNat % 128))

/-- The next line of a request's indices read (R241). -/
def readIndices (s : State) (k : CoreId) (q : CopyReq) : Reach (State × CopyReq) :=
  let (a, n) := nextIndices q
  match engineRead s k q a n true with
  | .ok (s, bs, _) => .ok (s, { q with idx := q.idx ++ (List.range (n / 4)).map fun i => natLE ((bs.drop (4 * i)).take 4) })
  | .wait => .wait
  | .dead va => .dead va

/-- A read of the engine has come as far as its tokens, and the bucket holds too few (R367). -/
def readStarved (s : State) (k : CoreId) (q : CopyReq) (va : W64) (n : Nat) (pay : Bool) : Bool :=
  match copySource s k q va n with
  | .ok l => (payTokens s (engineReq k q va l n pay)).isNone
  | .wait | .dead _ => false

/-- The next piece of a copy: its source, its destination and its bytes, within one source line and one destination line. -/
def nextPiece (x : Copy) : W64 × W64 × Nat :=
  let off := BitVec.ofNat 64 x.off
  let src := (copyElem x.req x.elem).1 + off
  let dst := (copyElem x.req x.elem).2 + off
  (src, dst, min (copyLen x.req - x.off) (min (128 - src.toNat % 128) (128 - dst.toNat % 128)))

/-- A piece begins in a line, which then costs a token (R365). -/
def piecePays (x : Copy) (a : W64) : Bool := x.off == 0 || a.toNat % 128 == 0

/-- Another request of the engine waits for tokens: a write, a copy's next read, or the next line of the indices of the queue's head.
Later requests of the engine wait behind it (R367). -/
def engineStarved (s : State) (k : CoreId) (but : Option Nat) : Bool :=
  s.reqs.any (fun r => r.core == k && isEngine r.op && sendable r && needsTokens s r) ||
    ((coreAt s k).copies.any fun x => some x.id != but && !x.moved && !x.budget &&
      (let p := nextPiece x; readStarved s k x.req p.1 p.2.2 (piecePays x p.1))) ||
    (but.isSome && match (coreAt s k).copyQ with
      | q :: _ => decide (q.idx.length < copyIndices q) && !copyBad s q &&
          (let p := nextIndices q; readStarved s k q p.1 p.2 true)
      | [] => false)

/-- Every destination place of a request, with its bytes. -/
def allLines (s : State) (k : CoreId) (q : CopyReq) : Reach (List (Loc × Nat)) :=
  (List.range (copyCount q)).foldl (fun r i =>
    match r with
    | .ok ls =>
      match elemLines s k q (copyElem q i).2 (copyLen q) with
      | .ok new => .ok (ls ++ new)
      | r => r
    | r => r) (.ok [])

/-- Bytes added up by key. -/
def sumBytes {α : Type} [DecidableEq α] (ls : List (α × Nat)) : List (α × Nat) :=
  ls.foldl (fun r p => if r.any (fun q => q.1 = p.1) then r.map fun q => if q.1 = p.1 then (q.1, q.2 + p.2) else q else r ++ [p]) []

/-- Requests and fragments that wait for an entry of the queue are served in order while there is room (R240, R242). -/
def serveQueue (s : State) (k : CoreId) : State :=
  let kicks := s.reqs.filter fun r => r.core == k && (match r.op with | .kick => sendable r | _ => false)
  let s := kicks.foldl (fun s r => trySend s r.id) s
  allFrags.foldl (fun s f =>
    match fragAt (coreAt s k) f with
    | some { state := .wait i .copyQueue, .. } =>
      let r := match i with
        | .cpk g a => againOp s k f i g (warpCpk a)
        | .st g d a sc ord w => againOp s k f i g (warpStore d a sc ord w 0)
        | .sto g d a sc ord w ext => againOp s k f i g (warpStore d a sc ord w (ext.signExtend 64))
        | _ => .next s
      match r with
      | .next t => t
      | _ => s
    | _ => s) s

/-- COPY_ACCEPT: the head of the queue has the next line of its indices read, or is accepted, or abandoned. Acceptance clears
its presence bits and marks its lines; the marks' completion ticks join the issuer's horizon (R243, R245). -/
def execCopyAccept (k : CoreId) (s : State) : Out :=
  match (coreAt s k).copyQ with
  | [] => .refused .notEnabled
  | q :: rest =>
    let pop := fun (s : State) => modCore s k fun c => { c with copyQ := rest }
    let leave := fun (s : State) => serveQueue (endReq s q.id) k
    if engineStarved s k none then .refused .notEnabled else
    let dead := fun (s : State) (va : W64) => Host.Outcome.next (copyOver (leave (abandonReq (pop s) k q va)) q.team)
    if copyBad s q then dead s (BitVec.ofNat 64 (reqField q 0 0 64))
    else if q.idx.length < copyIndices q then
      match readIndices s k q with
      | .wait => .refused .notEnabled
      | .dead va => dead s va
      | .ok (s, q) => .next (modCore s k fun c => { c with copyQ := q :: rest })
    else
      match allLines s k q with
      | .wait => .refused .notEnabled
      | .dead va => dead s va
      | .ok ls =>
        let dev := sumBytes (ls.filterMap fun l => match l.1 with | .dev c => some (lineOf c, l.2) | _ => none)
        let shr := sumBytes (ls.filterMap fun l => match l.1 with | .shared k' _ o => some ((k', o / 128), l.2) | _ => none)
        let s := pop s
        let s := if reqField q 0x30 6 1 = 1 then shr.foldl (fun s x => setPresence s x.1.1 q.team [x.1.2] false) s else s
        let s := dev.foldl (fun s l =>
          let (s, w) := markLine s l.1 q.id
          match reqAt s q.id with | some r => noteWrite s r w | none => s) s
        let c : Copy := { id := q.id, req := q, marks := dev, lines := shr.map fun x => (x.1.1, x.1.2, x.2) }
        .next (leave (modCore s k fun x => { x with copies := x.copies ++ [c] }))

/-! ## Copies: movement (R241, R243) -/

/-- The copy engine moves the next piece of a copy: within one source line and one destination line. A line that an element
goes on in has its token already (R365). -/
def movePiece (k : CoreId) (c : Nat) (s : State) : Out :=
  match copyAt s k c with
  | none => .refused .notEnabled
  | some x =>
    if x.moved || x.budget || engineStarved s k (some c) then .refused .notEnabled
    else
      let q := x.req
      let (src, dst, n) := nextPiece x
      match engineRead s k q src n (piecePays x src), copyDest s k q dst n with
      | .dead va, _ => .next (abandonCopy s k x va)
      | _, .dead va => .next (abandonCopy s k x va)
      | .wait, _ => .refused .notEnabled
      | _, .wait => .refused .notEnabled
      | .ok (s, bs, bad), .ok (l, lease) =>
        let s := modCopy s k c fun y =>
          if y.off + n < copyLen q then { y with off := y.off + n }
          else if y.elem + 1 < copyCount q then { y with off := 0, elem := y.elem + 1 }
          else { y with moved := true }
        match l, isRemote k l with
        | .shared k' t o, false =>
          let s := publishAt (sharedPut s k' t o bs) l n []
          let s := if bad then engineRecord (poisonShared s k' t o) q 0x10 dst else s
          .next (engineWritten s k c l n 0)
        | l, _ =>
          let i : Issue := { who := q.who, place := q.place, k := k, team := q.team, ctx := q.ctx, away := false,
                             wisn := q.wisn, pc := q.pc, unit := 8, agent := q.agent }
          .next (newReq s i { loc := l, len := n, op := .engine c bs bad, lease := lease, cost := if piecePays x dst then 1 else 0,
                              own := false, va := dst })

/-! ## Copies: completions (R244, R253) -/

/-- The completions of a copy may be made: TICK has passed its writes, and the release at its scope has waited for what the
engine inherited from the issuer (R198, R202, R242). -/
def copyReady (s : State) (x : Copy) : Bool :=
  let past := fun h => h = 0 || decide (h < s.tick)
  let mine := s.reqs.filter fun r => r.marks.any x.req.mark.contains
  past x.hz &&
    (match copyScope x.req with
      | .core => mine.all fun r => !r.held && !returnsValue r
      | .clu | .dev | .sys => mine.isEmpty && x.req.mark.all fun m => past (markHz s m))

/-- ARRIVAL_WORD_UPDATE: the bytes written since the last update leave the arrival word (R244). -/
def execArrivalWordUpdate (k : CoreId) (c : Nat) (s : State) : Out :=
  match copyAt s k c with
  | none => .refused .notEnabled
  | some x =>
    let aw := reqField x.req 0x28 0 32
    if aw = 0xFFFFFFFF || x.written = x.counted || !copyReady s x then .refused .notEnabled
    else
      let old := BitVec.ofNat 32 (natLE (sharedBytes s k x.req.team aw 4))
      let s := sharedPut s k x.req.team aw (bytesLE 4 (old - BitVec.ofNat 32 (x.written - x.counted)).toNat)
      let s := publishMore s (.shared k x.req.team aw) 4 x.req.mark
      .next (copySettle (modCopy s k c fun y => { y with counted := y.written }) k c)

/-- PRESENCE_SET: the shared lines into which the request has written its last byte become present (R244). -/
def execPresenceSet (k : CoreId) (c : Nat) (s : State) : Out :=
  match copyAt s k c with
  | none => .refused .notEnabled
  | some x =>
    let full := x.lines.filter fun l => l.2.2 == 0
    if full.isEmpty || !copyReady s x then .refused .notEnabled
    else
      let s := full.foldl (fun s l =>
        publishMore (setPresence s l.1 x.req.team [l.2.1] true) (.shared l.1 x.req.team (128 * l.2.1)) 128 x.req.mark) s
      .next (copySettle (modCopy s k c fun y => { y with lines := y.lines.filter fun l => l.2.2 != 0 }) k c)

/-! ## Rings (R248 to R252) -/

/-- A ring control block that meets R248. -/
structure Ring where
  k : CoreId
  team : Nat
  off : Nat
  base : W64
  clu : Bool
  cap : Nat
  size : Nat
  head : BitVec 16
  peek : BitVec 16
  tail : BitVec 16
  deriving DecidableEq, Repr, Inhabited

/-- The ring of a control block; none when the block breaks R248. -/
def ringAt (s : State) (k : CoreId) (t off : Nat) : Option Ring :=
  let w := fun i => natLE (sharedBytes s k t (off + 8 * i) 8)
  let base := BitVec.ofNat 64 (w 0)
  let c := w 1
  let p := w 2
  let r : Ring := { k := k, team := t, off := off, base := base, clu := natBit c 12, cap := 2 ^ (c / 256 % 16),
                    size := c % 256, head := BitVec.ofNat 16 (p / 2 ^ 32), peek := BitVec.ofNat 16 (p / 2 ^ 16),
                    tail := BitVec.ofNat 16 p }
  let shared := match window s k t false base with | .shared .. => true | _ => false
  if c / 2 ^ 13 = 0 && p / 2 ^ 48 = 0 && w 3 = 0 && c / 256 % 16 ≤ 8 && r.size ≠ 0 && base.toNat % 128 = 0 && shared &&
      (r.peek - r.head).toNat ≤ (r.tail - r.head).toNat && (r.tail - r.head).toNat ≤ r.cap then some r
  else none

/-- The address of a slot number. -/
def slotAddr (r : Ring) (p : BitVec 16) : W64 := r.base + BitVec.ofNat 64 (p.toNat % r.cap * 128 * r.size)

/-- A CMAP bit. -/
def cmapBit (s : State) (r : Ring) (i : Nat) : Bool :=
  natBit (natLE (sharedBytes s r.k r.team (r.off + 0x20 + i / 8) 1)) (i % 8)

/-- A CMAP bit written. -/
def setCmap (s : State) (k : CoreId) (t off i : Nat) (v : Bool) : State :=
  let a := off + 0x20 + i / 8
  let old := natLE (sharedBytes s k t a 1)
  let bit := 2 ^ (i % 8)
  sharedPut s k t a (bytesLE 1 (if v then old ||| bit else old &&& (255 - bit)))

/-- A slot has a provisional bit of the team (R275). -/
def heldBit (s : State) (r : Ring) (i : Nat) : Bool :=
  s.heldCmap.any fun h => h.core == r.k && h.team == r.team && h.off == r.off && h.slot == i

/-- A slot index lies in [PEEK, TAIL), with its bit clear: ACQUIRED (R249). -/
def slotAcquired (s : State) (r : Ring) (i : Nat) : Bool :=
  i < r.cap && (i + r.cap - r.peek.toNat % r.cap) % r.cap < (r.tail - r.peek).toNat && !cmapBit s r i && !heldBit s r i

/-- A slot is committed: its bit is set, or held for the member's own view. -/
def commitSlot (s : State) (r : Ring) (i : Nat) : State :=
  match heldTag s r.team with
  | some (j, m) => { s with heldCmap := { join := j, member := m, core := r.k, team := r.team, off := r.off, slot := i } :: s.heldCmap }
  | none => setCmap s r.k r.team r.off i true

/-- HEAD, PEEK and TAIL written back. -/
def putRing (s : State) (r : Ring) : State :=
  sharedPut s r.k r.team (r.off + 0x10) (bytesLE 2 r.tail.toNat ++ bytesLE 2 r.peek.toNat ++ bytesLE 2 r.head.toNat)

/-- The ring ops. -/
inductive RingOp where
  | acquire
  | peek
  | commit (slot : W64)
  | release
  deriving DecidableEq, Repr, Inhabited

/-- What a ring op finds at its instant. -/
inductive RingRes where
  | done (s : State) (addr : W64)
  | wait
  | bad

/-- The byte of a CMAP bit. -/
def cmapPlace (r : Ring) (i : Nat) : Loc := .shared r.k r.team (r.off + 0x20 + i / 8)

/-- The index of a slot address. -/
def slotIndex (r : Ring) (a : W64) : Option Nat :=
  let d := (a - r.base).toNat
  if d % (128 * r.size) = 0 ∧ d / (128 * r.size) < r.cap then some (d / (128 * r.size)) else none

/-- A ring op performed at one instant (R250, R252). -/
def ringDo (s : State) (k : CoreId) (t off : Nat) (op : RingOp) : RingRes :=
  match ringAt s k t off with
  | none => .bad
  | some r =>
    match op with
    | .acquire =>
      if (r.tail - r.head).toNat < r.cap then .done (putRing s { r with tail := r.tail + 1 }) (slotAddr r r.tail) else .wait
    | .peek =>
      let i := r.peek.toNat % r.cap
      if r.peek ≠ r.tail && (cmapBit s r i || heldBit s r i) then
        .done (putRing s { r with peek := r.peek + 1 }) (slotAddr r r.peek)
      else .wait
    | .commit a =>
      match slotIndex r a with
      | some i => if slotAcquired s r i then .done (commitSlot s r i) 0 else .bad
      | none => .bad
    | .release =>
      if r.head = r.peek then .bad
      else
        let i := r.head.toNat % r.cap
        let s := setCmap s k t off i false
        let s := { s with heldCmap := s.heldCmap.filter fun h =>
          !(h.core == k && h.team == t && h.off == off && h.slot == i) }
        .done (putRing s { r with head := r.head + 1 }) 0

/-- Where a ring op's release is published, and where its acquire finds it: a slot's CMAP bit from RCMT to RPEK, HEAD from RREL
to RACQ (R202, R252). -/
def ringPlace (s : State) (k : CoreId) (t off : Nat) (op : RingOp) : Loc × Nat :=
  match op, ringAt s k t off with
  | .peek, some r => (cmapPlace r (r.peek.toNat % r.cap), 1)
  | .commit a, some r => (cmapPlace r ((slotIndex r a).getD 0), 1)
  | _, _ => (.shared k t (off + 0x14), 2)

/-- A ring op that acquires has its slot. -/
def ringAcquire (s : State) (who : AgentRef) (p : Loc × Nat) : State := acquireAt s who p.1 p.2

/-- The scope of a ring's acquires and releases: CLU, or CORE (R252). -/
def ringScope (s : State) (k : CoreId) (t off : Nat) : Scope :=
  match ringAt s k t off with
  | some r => if r.clu then .clu else .core
  | none => .core

/-- RACQ and RPEK of a warp: the slot's address, or the wait, or a false predicate; a block that breaks R248 raises MEMV with reason
0 (R252; log entry 76). -/
def warpRing (peek : Bool) (d a : Reg) (p : Option Pred) (e : WarpEnv) (s : State) : Out :=
  once e s [a, a + 1] [d, d + 1] fun l =>
    let q := warpIssue s e
    let va := readPair e l a
    match sharedTarget s q va 6 (laneBit l) with
    | .error t => warpFault s e t
    | .ok (k, off) =>
      let op := if peek then RingOp.peek else .acquire
      match ringDo s k q.team off op with
      | .bad => warpFault s e (trapMemv va 0 (laneBit l) q.unit)
      | .wait =>
        match p with
        | some p =>
          let s := writeLanes s e.k e.x.warp e.parts 1 fun _ => { preds := [(p, false)] }
          .next (warpEnd (setScore s e.k e.f [] [p] 1) e)
        | none => waitFrag s e (.ring (.shared k q.team off) peek) true
      | .done t addr =>
        let ps := match p with | some p => [p] | none => []
        let t := writeLanes (ringAcquire t q.who (ringPlace s k q.team off op)) e.k e.x.warp e.parts 1 fun _ =>
          { regs := pairRes d addr, preds := ps.map fun p => (p, true) }
        .next (warpEnd (setScore t e.k e.f [d, d + 1] ps 1) e)

/-- RACQ and RPEK of a strand. -/
def strandRing (peek : Bool) (d a : Reg) (p : Option Pred) (e : StrandEnv) (s : State) : Out :=
  let q := strandIssue s e
  let close := fun (s : State) => Host.Outcome.next (markFx s e fun x => { x with close := true })
  match sharedTarget s q (opA e a) 6 1 with
  | .error t => strandFault s e t
  | .ok (k, off) =>
    let op := if peek then RingOp.peek else .acquire
    if slotBusy s e then slotLater s e
    else
    match ringDo s k q.team off op with
    | .bad => strandFault s e (trapMemv (opA e a) 0 1 q.unit)
    | .wait =>
      match p with
      | some p => close (pendAdd s e 1 (.pred p false))
      | none => strandStall s e (.ring (.shared k q.team off) peek)
    | .done t addr =>
      let s := pendAdd (ringAcquire t q.who (ringPlace s k q.team off op)) e 1 (.sreg d addr)
      close (match p with | some p => pendAdd s e 1 (.pred p true) | none => s)

/-- RACQ (R252). -/
def execRacq (g : Guard) (d a : Reg) (s : State) : Out :=
  asOp (.racq g d a) g s (warpRing false d a none) (strandRing false d a none)

/-- RACQ.TRY. -/
def execRacqTry (g : Guard) (d a : Reg) (p : Pred) (s : State) : Out :=
  asOp (.racqTry g d a p) g s (warpRing false d a (some p)) (strandRing false d a (some p))

/-- RPEK (R252). -/
def execRpek (g : Guard) (d a : Reg) (s : State) : Out :=
  asOp (.rpek g d a) g s (warpRing true d a none) (strandRing true d a none)

/-- RPEK.TRY. -/
def execRpekTry (g : Guard) (d a : Reg) (p : Pred) (s : State) : Out :=
  asOp (.rpekTry g d a p) g s (warpRing true d a (some p)) (strandRing true d a (some p))

/-- RCMT and RREL of a warp: the wait of R198 at the ring's scope, then the op, which judges block and slot as it finds them. A MEMV
that is no window's reports reason 0 (R252; log entry 76). -/
def warpRingRel (a : Reg) (srcs : List Reg) (op : WarpEnv → Lane → RingOp) (e : WarpEnv) (s : State) : Out :=
  once e s (pairOf true a ++ srcs) [] fun l =>
    let q := warpIssue s e
    let va := readPair e l a
    match sharedTarget s q va 6 (laneBit l) with
    | .error t => warpFault s e t
    | .ok (k, off) =>
      let sc := ringScope s k q.team off
      if !waitDone s q.who sc (owned s q.who) then waitFrag s e (.release sc) false
      else
        match ringDo s k q.team off (op e l) with
        | .bad | .wait => warpFault s e (trapMemv va 0 (laneBit l) q.unit)
        | .done t _ =>
          let p := ringPlace s k q.team off (op e l)
          .next (warpEnd (releaseAt t q.who p.1 p.2) e)

/-- RCMT and RREL of a strand: the bundle waits for the accesses of earlier bundles, and the op, in a later turn, for those of
slot 6 (R198, R227). -/
def strandRingRel (a : Reg) (op : StrandEnv → RingOp) (e : StrandEnv) (s : State) : Out :=
  let q := strandIssue s e
  match sharedTarget s q (opA e a) 6 1 with
  | .error t => strandFault s e t
  | .ok (k, off) =>
    let sc := ringScope s k q.team off
    if !waitDone s q.who sc (ownedBefore s e) then strandStall s e .landing
    else if slotBusy s e || !waitDone s q.who sc (owned s q.who) then slotLater s e
    else
      match ringDo s k q.team off (op e) with
      | .bad | .wait => strandFault s e (trapMemv (opA e a) 0 1 q.unit)
      | .done t _ =>
        let p := ringPlace s k q.team off (op e)
        .next (markFx (releaseAt t q.who p.1 p.2) e fun x => { x with close := true })

/-- RCMT (R252). -/
def execRcmt (g : Guard) (a b : Reg) (s : State) : Out :=
  asOp (.rcmt g a b) g s (warpRingRel a [b, b + 1] fun e l => .commit (readPair e l b))
    (strandRingRel a fun e => .commit (opB e b))

/-- RREL (R252). -/
def execRrel (g : Guard) (a : Reg) (s : State) : Out :=
  asOp (.rrel g a) g s (warpRingRel a [] fun _ _ => .release) (strandRingRel a fun _ => .release)

/-- RING_WAKE: a waiting RACQ finds room, or a waiting RPEK a committed slot (R252). -/
def execRingWake (who : AgentRef) (s : State) : Out :=
  match who with
  | .frag k f =>
    match fragAt (coreAt s k) f with
    | some { state := .wait (.racq g d a) (.ring ..), .. } => againOp s k f (.racq g d a) g (warpRing false d a none)
    | some { state := .wait (.rpek g d a) (.ring ..), .. } => againOp s k f (.rpek g d a) g (warpRing true d a none)
    | _ => .refused .notEnabled
  | .strand k n =>
    match strandAt (coreAt s k) n with
    | some { stall := some (.ring (.shared k' t off) peek), .. } =>
      match ringDo s k' t off (if peek then .peek else .acquire) with
      | .wait => .refused .notEnabled
      | .bad | .done _ _ => .next (onStrand s k n fun x => { x with stall := none })
    | _ => .refused .notEnabled

/-- COMMIT_ON_ARRIVAL: the request's slot is committed, or a record says that it was not ACQUIRED (R253). -/
def execCommitOnArrival (k : CoreId) (c : Nat) (s : State) : Out :=
  match copyAt s k c with
  | none => .refused .notEnabled
  | some x =>
    let off := reqField x.req 0x28 32 32
    let i := reqField x.req 0x30 8 8
    if off = 0xFFFFFFFF || !copyWritten s k x || x.committed || !copyReady s x then .refused .notEnabled
    else
      let s := match ringAt s k x.req.team off with
        | some r =>
          if slotAcquired s r i then publishMore (commitSlot s r i) (cmapPlace r i) 1 x.req.mark
          else engineRecord s x.req 0x11 (0x8000000000000000 + BitVec.ofNat 64 off)
        | none => engineRecord s x.req 0x11 (0x8000000000000000 + BitVec.ofNat 64 off)
      .next (copySettle (modCopy s k c fun y => { y with committed := true }) k c)

end Sys2Proof.Machine
end

