-- ==== Sys2Proof/Machine/JoinUnit.lean ====
section
/-! DEFINITION. The join units (R267 to R288): a join's object, its members, commits and arrivals, the quorum point, kills,
retraction and failure; and how the agents of a team are stopped or removed. -/

namespace Sys2Proof.Machine

/-! ## Descriptors and objects (R267, R269) -/

/-- A field of a descriptor at a byte offset. -/
def descBits (d : BitVec 512) (off lo n : Nat) : Nat := (d.extractLsb' (8 * off + lo) n).toNat
/-- N. -/
def joinN (d : BitVec 512) : Nat := descBits d 0 0 16
/-- FILL. -/
def joinFill (d : BitVec 512) : Nat := descBits d 0 32 4
/-- The element format of the fill region. -/
def joinFmt (d : BitVec 512) : Fmt := if descBits d 0 36 1 = 1 then bf16 else fp32
/-- The element size of the fill region. -/
def joinElem (d : BitVec 512) : Nat := if descBits d 0 36 1 = 1 then 2 else 4
/-- WTAB. -/
def joinTable (d : BitVec 512) : Bool := descBits d 0 37 1 == 1
/-- UW. -/
def joinUw (d : BitVec 512) : W32 := BitVec.ofNat 32 (descBits d 8 0 32)
/-- The kill deadline in ticks. -/
def joinDeadline (d : BitVec 512) : Nat := if descBits d 8 32 32 = 0 then 2000 else descBits d 8 32 32
/-- The quorum count (R271). -/
def joinQuorum (d : BitVec 512) : Nat :=
  let q := if descBits d 0 16 16 = 0 then 65536 else descBits d 0 16 16
  max 1 ((q * joinN d + 65535) / 65536)

/-- The code of STATE. -/
def joinCode : JoinState → Nat
  | .opened => 0 | .quorum => 1 | .released => 2 | .failed => 3

/-- The code of a member's state (R274). -/
def memberCode : MemberState → Nat
  | .unbound => 0 | .running => 1 | .pledged => 2 | .arrived => 3 | .killing => 4 | .killed => 5 | .cancelled => 6

/-- The word of an object at 0x40 + 8 x sel. -/
def joinWord (j : Join) (live : Bool) (sel : Nat) : W64 :=
  match sel with
  | 0 => BitVec.ofNat 64 (2 ^ 50 * live.toNat + 2 ^ 48 * joinCode j.state + 2 ^ 32 * j.killed.toNat + 2 ^ 16 * j.bound.toNat + j.arrived.toNat)
  | 1 => j.wa ++ j.wt
  | 2 => j.q ++ j.pledged ++ j.f
  | 3 => j.qtick
  | _ => j.rtick

/-- Word i of the mask. -/
def maskWord (j : Join) (i : Nat) : W64 :=
  j.mask.foldl (fun m b => if b / 64 = i then m ||| (1#64 <<< (b % 64)) else m) 0

/-- The words at 0x40 to 0x60 and the mask written to the object, with the completion tick (R270). -/
def storeJoin (s : State) (j : Join) (live : Bool) : State × Nat :=
  let bs := (List.range 5).flatMap fun i => bytesLE 8 (joinWord j live i).toNat
  (List.range ((joinN j.desc + 63) / 64)).foldl (fun r i =>
    match unitWrite r.1 j.ctx (j.va + BitVec.ofNat 64 (0x80 + 8 * i)) (bytesLE 8 (maskWord j i).toNat) with
    | some (s, w) => (s, max r.2 w)
    | none => r) (homeStore s (j.cell + 0x40) bs)

/-- The object after a change of state. -/
def writeJoin (s : State) (cell : Nat) : State :=
  match joinAt s cell with
  | some j => (storeJoin s j true).1
  | none => s

/-! ## Weights (R273) -/

/-- The declared weight of a member. -/
def memberWeight (j : Join) (i : Nat) : W32 :=
  match j.members[i]? with
  | some m => m.weight
  | none => if joinTable j.desc then j.weights.getD i 0 else joinUw j.desc

/-- A value of FP32 bits. -/
def val32 (x : W32) : Val := unpack fp32 x.toNat
/-- FP32 bits of a value, rounded to nearest even. -/
def round32 (v : Val) : W32 := BitVec.ofNat 32 (roundTo fp32 .rne v).1

/-! ## Stopping agents (R285, R306) -/

/-- A wait that is a park, and so a kill point. -/
def waitParks (i : Instr) : WaitFor → Bool
  | .take _ | .await _ | .ring .. | .spill .. | .jwait .. | .arrive _ | .landing .. => true
  | .release _ => match i with | .jarr .. | .irrev .. | .migr .. => true | _ => false
  | .fence .. | .copyQueue | .launch _ | .jnew .. => false

/-- A fragment stands at a kill point; a halt is a park (R348). -/
def fragAtKill : FragState → Bool
  | .wait i c => waitParks i c
  | .convw | .barw .. | .parked _ | .halted .. => true
  | .ready | .fragw .. | .stopped => false

/-- A strand stands at a kill point. -/
def strandAtKill (x : Strand) : Bool :=
  (match x.state with | .bar _ | .rdv .. | .halted .. => true | _ => false) ||
    (match x.stall with
      | some (.take _) | some (.await _) | some (.ring ..) | some (.jwait _) | some (.presence _) | some (.pager _) | some .budget => true
      | some .landing | some (.unit _) | some .copyQueue | none => false) ||
    x.holds.any fun h => waitParks h.i h.cond

/-- A strand takes its kill: it issues nothing more, gives up the front end, and holds no partner (R147, R285, R313). -/
def killStrand (s : State) (k : CoreId) (n : StrandId) : State :=
  match strandAt (coreAt s k) n with
  | none => s
  | some x =>
    let s := onStrand s k n fun y => { y with state := .killed, stall := none, holds := [], fx := {} }
    let s := passRdv s x.team k n none
    modCore s k fun c => if c.front == some n then switchStrand c n else c

/-- A fragment of a warp waits in MIGR, so its others are suspended (R373). -/
def migrates (c : Core) (w : WarpIx) : Bool :=
  (liveFrags c w).any fun f => (fragAt c f).any fun x => match x.state with | .wait (.migr ..) _ => true | _ => false

/-- A kill request to every agent of a team; those at a kill point stop, and a migrating warp stops as a whole (R284, R285,
R373). -/
def killTeam (s : State) (t : Nat) : State :=
  match teamAt s t with
  | none => s
  | some tm =>
    let s := modTeam s t fun x => { x with image := x.image.map fun c =>
      { c with warps := c.warps.map fun p => (p.1, { p.2 with kill := true }),
               strand := c.strand.map fun y => { y with kill := true } } }
    let s := (teamWarpsAt s tm).foldl (fun s p =>
      (liveFrags (coreAt s p.1) p.2).foldl (fun s f => onFrag s p.1 f fun x =>
        if fragAtKill x.state || migrates (coreAt s p.1) p.2 then { x with state := .stopped } else x)
        (onWarp s p.1 p.2 fun w => { w with kill := true })) s
    (teamStrandsAt s tm).foldl (fun s p =>
      let s := onStrand s p.1 p.2 fun x => { x with kill := true }
      match strandAt (coreAt s p.1) p.2 with
      | some x => if strandAtKill x then killStrand s p.1 p.2 else s
      | none => s) s

/-- Every agent of a team has stopped. -/
def teamStopped (s : State) (tm : Team) : Bool :=
  ((teamWarpsAt s tm).all fun p => (liveFrags (coreAt s p.1) p.2).all fun f =>
    match fragAt (coreAt s p.1) f with | some x => x.state == .stopped | none => true) &&
  (teamStrandsAt s tm).all fun p => match strandAt (coreAt s p.1) p.2 with | some x => x.state == .killed | none => true

/-- An agent is one of a team's. -/
def agentOf (s : State) (t : Nat) : AgentRef → Bool
  | .frag k f => match fragAt (coreAt s k) f with
    | some x => (match warpAt (coreAt s k) x.warp with | some w => w.team == t | none => false)
    | none => false
  | .strand k n => match strandAt (coreAt s k) n with | some x => x.team == t | none => false

/-- The agents of a team removed where they stand; unperformed accesses and results in flight are dropped, the second
half of a packed atomic and the writes of accepted copies are not (R286, R324). -/
def removeAgents (s : State) (t : Nat) : State :=
  let s := mapAgents { s with
    reqs := s.reqs.filterMap fun r =>
      if r.team != t then some r
      else
        match r.op, r.half with
        | .engine .., _ => some r
        | .atomic op v ps _, some _ => some { r with place := none, op := .atomic op v ps [] }
        | _, _ => none } fun os => os.filter fun a => !agentOf s t a
  allCores.foldl (fun s k =>
    let c := coreAt s k
    let mine := fun w => match warpAt c w with | some x => x.team == t | none => false
    let ws := allWarps.filter mine
    let ns := allStrands.filter fun n => match strandAt c n with | some x => x.team == t | none => false
    if ws.isEmpty && ns.isEmpty then s
    else
      let c := (allFrags.filter fun f => match fragAt c f with | some x => mine x.warp | none => false).foldl
        (fun c f => setFrag c f none) c
      let c := ws.foldl (fun c w => setWarp c w none) c
      let c := ns.foldl (fun c n =>
        let c := setStrand c n none
        if c.front == some n then switchStrand c n else c) c
      setCore s k c) s

/-- A team's share of its cores is given back (R157). -/
def freeSeats (s : State) (tm : Team) : State :=
  tm.cores.foldl (fun s k => modCore s k fun c =>
    { c with seats := c.seats.filter fun x => x.team != tm.id, abandoned := c.abandoned.filter fun x => x.1 != tm.id }) s

/-- Every copy request of a team is discarded, without records (R286). -/
def discardCopies (s : State) (tm : Team) : State :=
  tm.cores.foldl (fun s k =>
    let s := modCore s k fun c => { c with copyQ := c.copyQ.filter fun q => q.team != tm.id }
    ((coreAt s k).copies.filter fun x => x.req.team == tm.id).foldl (fun s x => dropCopy s k x) s) s

/-- Agents that waited on the provisional budget go on (R278). -/
def wakeBudget (s : State) (t : Nat) : State :=
  match teamAt s t with
  | none => s
  | some tm =>
    let s := (teamWarpsAt s tm).foldl (fun s p => (liveFrags (coreAt s p.1) p.2).foldl (fun s f => onFrag s p.1 f fun x =>
      if x.state == .parked .budget then { x with state := .ready } else x) s) s
    let s := (teamStrandsAt s tm).foldl (fun s p => onStrand s p.1 p.2 fun x =>
      if x.stall == some .budget then { x with stall := none } else x) s
    tm.cores.foldl (fun s k => modCore s k fun c =>
      { c with copies := c.copies.map fun x => if x.req.team == t then { x with budget := false } else x }) s

/-! ## Retirement of teams and grids (R157) -/

/-- Teams of a grid's record. -/
def gridTeams (g : Grid) : Nat :=
  let d := fun lo => max 1 (recBits g.raw 0x20 lo 16)
  d 0 * d 16 * d 32

/-- The waiting queues of a context are read again (R260). -/
def lookAgain (s : State) (c : CtxId) : State :=
  { s with queues := s.queues.map fun q => q.map fun x => if x.ctx = c then { x with look := true } else x,
           dies := s.dies.map fun d => { d with
             children := d.children.map fun x => if x.ctx = c then { x with look := true } else x } }

/-- A grid all of whose teams have retired ends (R157). -/
def gridEnds (s : State) (gr : Nat) : State :=
  match gridAt s gr with
  | some g => if g.retired ≥ gridTeams g && !g.ended then lookAgain (modGrid s gr fun x => { x with ended := true }) g.ctx else s
  | none => s

/-- A save block's entry in the index of the region (R389). -/
def blockEntry (s : State) (c : CtxId) (n : Nat) (team core flags : W64) : State :=
  match ctxAt s c with
  | none => s
  | some x =>
    match unitWrite s c (x.savebase + BitVec.ofNat 64 (32 * n))
        (bytesLE 8 team.toNat ++ bytesLE 8 core.toNat ++ bytesLE 8 flags.toNat ++ bytesLE 8 0) with
    | some (s, _) => s
    | none => s

/-- A team gives its save blocks back (R389). -/
def freeBlocks (s : State) (tm : Team) : State :=
  let s := tm.blocks.foldl (fun s n => blockEntry s tm.ctx n 0 0 0) s
  let s := modCtx s tm.ctx fun x => { x with used := x.used.filter fun n => !tm.blocks.contains n }
  modTeam s tm.id fun x => { x with blocks := [] }

/-- Run ticks of a team up to now (R322). -/
def runTicks (s : State) (tm : Team) : Nat := s.tick - tm.placed

/-- A team retires; its grid may end with it (R157). -/
def retireTeam (s : State) (t : Nat) : State :=
  match teamAt s t with
  | none => s
  | some tm =>
    let s := freeBlocks s tm
    let s := modTeam s t fun x => { x with status := .retired }
    let s := modGrid s tm.grid fun g =>
      { g with retired := g.retired + 1, runSum := g.runSum + runTicks s tm, runNum := g.runNum + 1 }
    gridEnds s tm.grid

/-! ## Changes of a join's state (R270, R284 to R288) -/

/-- A member has arrived, or is killed or cancelled. -/
def memberDone (j : Join) (i : Nat) (m : Member) : Bool :=
  match m.state with
  | .arrived => match j.busy with | some (k, _) => k != i | none => true
  | .killed | .cancelled => true
  | .unbound | .running | .pledged | .killing => false

/-- Every bound member is done, with a further test of it. -/
def membersAll (j : Join) (p : Member → Bool) : Bool :=
  (j.members.zip (List.range j.members.length)).all fun x => memberDone j x.2 x.1 && p x.1

/-- Members that may still arrive, the unbound ones among them. -/
def membersLeft (j : Join) : Nat :=
  (if j.state = .opened then joinN j.desc - j.members.length else 0) +
    ((j.members.zip (List.range j.members.length)).filter fun x => !memberDone j x.2 x.1).length

/-- A join fails (R288). -/
def failJoin (s : State) (cell detail : Nat) (addr : W64) : State :=
  match joinAt s cell with
  | none => s
  | some j =>
    let lost := if j.state = .opened then joinN j.desc - j.members.length else 0
    let s := modJoin s cell fun j =>
      { j with state := .failed, f := 0x7FC00000, rtick := BitVec.ofNat 64 s.tick, killed := j.killed + BitVec.ofNat 16 lost }
    writeRecord s j.ctx { cls := 0x17, detail := detail, rdie := dieOf cell, akind := 5, addr := addr }

/-- What follows a change of a join's members: failure, the end of its life, and its object (R270, R288). -/
def joinCheck (s : State) (cell : Nat) : State :=
  match joinAt s cell with
  | none => s
  | some j =>
    let s := if j.state = .opened && j.arrived.toNat + membersLeft j < j.q.toNat then failJoin s cell 1 j.va else s
    match joinAt s cell with
    | none => s
    | some j =>
      if (j.state = .released || j.state = .failed) && membersAll j (·.retired) then
        { (storeJoin s j false).1 with joins := (storeJoin s j false).1.joins.filter fun x => x.cell != cell }
      else (storeJoin s j true).1

/-- The quorum point: running members are killed, unbound ones cancelled (R284). -/
def quorumPoint (s : State) (cell : Nat) : State :=
  match joinAt s cell with
  | none => s
  | some j =>
    let s := modJoin s cell fun j =>
      { j with
        state := .quorum, qtick := BitVec.ofNat 64 s.tick,
        killed := j.killed + BitVec.ofNat 16 (joinN j.desc - j.members.length),
        members := j.members.map fun m => if m.state = .running then { m with state := .killing } else m }
    j.members.foldl (fun s m =>
      match m.state, m.team with
      | .running, some t => killTeam s t
      | _, _ => s) s

/-- The held effects of a member committed, each word at one instant, with the largest completion tick (R282). -/
def commitHeld (s : State) (cell i : Nat) : State × Nat :=
  let mine := s.held.filter fun h => h.join == cell && h.member == i
  let bits := s.heldCmap.filter fun h => h.join == cell && h.member == i
  let s := { s with
    held := s.held.filter fun h => !(h.join == cell && h.member == i),
    heldCmap := s.heldCmap.filter fun h => !(h.join == cell && h.member == i) }
  let s := bits.foldl (fun s h => setCmap s h.core h.team h.off h.slot true) s
  mine.foldl (fun r h =>
    let (s, w) := match h.eff with
      | .bytes data => homeStore r.1 (4 * h.word) (bytesLE 4 data.toNat)
      | .delta op v parts =>
        let n := atomLen op
        homeStore r.1 (4 * h.word) (bytesLE n (atomNew op (BitVec.ofNat 64 (devNat r.1 (4 * h.word) n)) v parts).toNat)
    (s, max r.2 w)) (s, 0)

/-- A member's commit begins: from here on its agents write directly, and nothing else is counted (R282). -/
def beginCommit (s : State) (cell i : Nat) (goal : MemberState) : State × Nat :=
  let (s, w) := commitHeld s cell i
  let s := modMember s cell i fun m => { m with state := goal }
  (modJoin s cell fun j => { j with busy := some (i, w) }, w)

/-- The join unit counts the arrival or the pledge whose commit is over (R281, R282). -/
def countMember (s : State) (cell : Nat) : State :=
  match joinAt s cell with
  | none => s
  | some j =>
    match j.busy with
    | none => s
    | some (i, _) =>
      match j.members[i]? with
      | none => s
      | some m =>
        let s := modJoin s cell fun j =>
          if m.state = .arrived then
            { j with busy := none, wa := round32 (valAdd .rne (val32 j.wa) (val32 m.weight)), arrived := j.arrived + 1, mask := i :: j.mask }
          else { j with busy := none, pledged := j.pledged + 1 }
        let s := match joinAt s cell with
          | some j => if m.state = .arrived && j.state = .opened && j.q.toNat ≤ j.arrived.toNat then quorumPoint s cell else s
          | none => s
        let s := match m.team with | some t => wakeBudget s t | none => s
        joinCheck s cell

/-- A member is retracted (R286). -/
def retractMember (s : State) (cell i : Nat) : State :=
  { s with held := s.held.filter fun h => !(h.join == cell && h.member == i),
           heldCmap := s.heldCmap.filter fun h => !(h.join == cell && h.member == i) }

/-- A killed member's team that was flushed is not placed again: it retires in its place (R286, R324). -/
def dropAgain (s : State) (cell i : Nat) : State :=
  let mine := fun (x : Nat × List Nat × Option (Nat × Nat)) => x.2.2 == some (cell, i)
  let gs := (s.grids.filter fun g => g.again.any mine).map (·.id)
  gs.foldl (fun s id => gridEnds (modGrid s id fun g =>
    { g with again := g.again.filter fun x => !mine x, retired := g.retired + (g.again.filter mine).length }) id) s

/-- A member whose agents have all stopped is retracted and becomes KILLED; its team retires (R286). -/
def finishKill (s : State) (cell i : Nat) : State :=
  let t := match joinAt s cell with | some j => (j.members[i]?).bind (·.team) | none => none
  let s := dropAgain (retractMember s cell i) cell i
  let s := match t with
    | some t =>
      match teamAt s t with
      | some tm =>
        let s := retireTeam (freeSeats (removeAgents (discardCopies s tm) t) tm) t
        tm.cores.foldl serveQueue s
      | none => s
    | none => s
  let s := modMember s cell i fun m => { m with state := .killed, retired := true }
  joinCheck (modJoin s cell fun j => { j with killed := j.killed + 1 }) cell

/-! ## Binding (R272, R273) -/

/-- How a team is bound at its placement. -/
inductive Bind where
  | plain
  | member (cell i : Nat)
  | cancelled

/-- A team of a grid bound as it is placed; the record of a JOIN that binds nothing is DETAIL 0 (R272, R273, R319). -/
def bindTeam (s : State) (g : Grid) (t : Nat) : State × Bind :=
  let va := BitVec.ofNat 64 (recBits g.raw 0x40 0 64)
  if va = 0 then (s, .plain)
  else
    match s.joins.find? fun j => j.va == va && j.ctx == g.ctx && j.members.length < joinN j.desc with
    | none =>
      (writeRecord s g.ctx { cls := 0x17, rdie := g.die, akind := 4, addr := va, grid := g.number }, .plain)
    | some j =>
      let i := j.members.length
      let old := memberWeight j i
      let new := BitVec.ofNat 32 (recBits g.raw 0x48 0 32)
      if j.state = .opened then
        let m : Member := { state := .running, team := some t, weight := if new = 0 then old else new }
        let s := modJoin s j.cell fun j =>
          { j with
            bound := j.bound + 1, members := j.members ++ [m],
            wt := if new = 0 then j.wt else round32 (valSum [val32 j.wt, valNeg (val32 old), val32 new]) }
        (writeJoin s j.cell, .member j.cell i)
      else
        let m : Member := { state := .cancelled, team := none, weight := old, retired := true }
        let s := modJoin s j.cell fun j => { j with bound := j.bound + 1, members := j.members ++ [m] }
        (joinCheck s j.cell, .cancelled)

end Sys2Proof.Machine
end

