-- ==== Sys2Proof/Machine/Launch.lean ====
section
/-! DEFINITION. The launch engines (R129 to R133, R254 to R266, R389): launch records, queues, placement, events, LAUNCH and
the child queues, NXT, and the end of grids. -/

namespace Sys2Proof.Machine

/-! ## Launch records (R258, R259) -/

/-- Warps per core of a record; 0 without a warp entry. -/
def recWarps (raw : LineData) : Nat := if recBits raw 0 0 64 = 0 then 0 else recBits raw 0x28 0 8
/-- A record has a strand entry. -/
def recStrand (raw : LineData) : Bool := recBits raw 8 0 64 != 0
/-- An entry is 0, or aligned and inside the code region. -/
def entryOk (raw : LineData) (e align : Nat) : Bool :=
  e == 0 || (e % align == 0 && recBits raw 0x10 0 64 ≤ e && e < recBits raw 0x18 0 64)

/-- A record is invalid (R259). -/
def launchBad (raw : LineData) : Bool :=
  let w := fun off => recBits raw off 0 64
  let warps := recBits raw 0x28 0 8
  let tiles := recBits raw 0x28 8 9
  (w 0 = 0 && w 8 = 0) || (warps = 0 && w 0 ≠ 0) || warps > 64 || tiles > 320 || recBits raw 0x28 17 3 > 4 ||
    w 0x10 % 32 ≠ 0 || w 0x18 % 32 ≠ 0 || w 0x18 ≤ w 0x10 || !entryOk raw (w 0) 4 || !entryOk raw (w 8) 32 ||
    3 * recWarps raw + tiles > 512 || (recBits raw 0x28 25 1 = 1 && recBits raw 0x28 20 2 = 3) ||
    w 0x50 % 8 ≠ 0 || w 0x60 % 8 ≠ 0 || recBits raw 0x20 48 16 ≠ 0 || recBits raw 0x28 26 38 ≠ 0 ||
    recBits raw 0x38 48 16 ≠ 0 || recBits raw 0x48 32 32 ≠ 0 || w 0x78 ≠ 0

/-- PRIO of a record. -/
def recPrio (raw : LineData) : Nat := recBits raw 0x28 22 2

/-! ## Where a team fits (R129, R131, R256, R314) -/

/-- The core at position c of the cluster of quad q of the dies low and low + 1 (R129). -/
def clusterCore (low q c : Nat) : CoreId :=
  Fin.ofNat 256 (if c < 4 then 64 * low + 4 * q + c else 64 * (low + 1) + 4 * q + (c - 4))

/-- A warp slot of a seat still holds its warp, at home or away (R140, R375). -/
def slotLive (c : Core) (x : Seat) (w : WarpIx) : Bool := (warpAt c w).any fun y => y.team == x.team

/-- The slots of a proof core that its plate core's protected teams have (R130, R314). -/
def lentSlotsOf (s : State) (k : CoreId) : List WarpIx :=
  (lentSeats s k).flatMap fun p => ((p.2.slots.zip p.2.lentSlots).filter fun q => slotLive p.1 p.2 q.1).map (·.2)

/-- Free warp slots of a core, lowest first (R130). -/
def freeSlots (s : State) (k : CoreId) : List WarpIx :=
  let lent := lentSlotsOf s k
  allWarps.filter fun w => w.val < 64 && (warpAt (coreAt s k) w).isNone && !lent.contains w

/-- The lowest free strand of a core (R146). -/
def freeStrand (s : State) (k : CoreId) : Option StrandId :=
  let lent := (lentSeats s k).filterMap fun p => p.2.strand.bind fun n => if (strandAt p.1 n).any fun x => x.team == p.2.team then p.2.lentStrand else none
  allStrands.find? fun n => (strandAt (coreAt s k) n).isNone && !lent.contains n

/-- Tiles of a core's pool that are taken: quotas, the private tiles of its warps, and those of landed warps (R131,
R374). -/
def usedTiles (s : State) (k : CoreId) : Nat :=
  (takenSeats s k).foldl (fun n p => n + p.2.tiles.length + 3 * (p.2.slots.filter (slotLive p.1 p.2)).length) 0 +
    3 * (allWarps.filter fun w => 64 ≤ w.val && (warpAt (coreAt s k) w).isSome).length

/-- A core can supply what a team of a grid takes (R131); nothing more is placed beside a team that drains (R322). -/
def coreFits (s : State) (k : CoreId) (raw : LineData) : Bool :=
  let seats := takenSeats s k
  let draining := seats.any fun p => match teamAt s p.2.team with | some t => t.drain.isSome | none => false
  let shared := seats.foldl (fun n p => n + (match teamGrid s p.2.team with | some g => sharedSize g | none => 0)) 0
  !draining && recWarps raw ≤ (freeSlots s k).length && usedTiles s k + recBits raw 0x28 8 9 + 3 * recWarps raw ≤ 512 &&
    (!recStrand raw || (freeStrand s k).isSome) && shared + (recBits raw 0x28 17 3 + 1) * 131072 ≤ 655360

/-- The places of a team on a die, in order: first position and cores of the team, and all the cores that it takes. -/
def dieSpots (raw : LineData) (d : Nat) : List (Nat × List CoreId × List CoreId) :=
  let low := d / 2 * 2
  let span := 2 ^ recBits raw 0x28 20 2
  let prot := recBits raw 0x28 25 1 = 1
  let width := if prot then 2 * span else span
  let base := if width = 8 || d = low then 0 else 4
  (List.range 16).flatMap fun q =>
    (List.range ((if width = 8 then 8 else 4) / width)).map fun i =>
      let p := base + i * width
      let all := (List.range width).map fun j => clusterCore low q (p + j)
      ((if prot then 0 else p), (if prot then (List.range span).map fun j => clusterCore low q (p + 2 * j) else all), all)

/-- Free save blocks of a context, lowest first (R389). -/
def openBlocks (s : State) (c : CtxId) (n : Nat) : List Nat :=
  match ctxAt s c with
  | none => []
  | some x => ((((List.range (x.used.length + n)).map (· + 1)).filter fun b => b < x.savecnt && !x.used.contains b)).take n

/-- The first place whose cores can supply a team, searched from a die on: its first position and cores (R256). -/
def fitPlace (s : State) (raw : LineData) (d : DieId) : Option (Nat × List CoreId) :=
  ((List.range 4).flatMap fun i => dieSpots raw ((d.val + i) % 4)).findSome? fun x =>
    let first := coreDie (x.2.2.headD 0)
    if x.2.2.all fun k => routeOk s d (coreDie k) && routeOk s first (coreDie k) && coreFits s k raw then some (x.1, x.2.1) else none

/-- The first place that fits a team: its cores, and a free save block for each (R256, R389). -/
def findPlace (s : State) (raw : LineData) (c : CtxId) (d : DieId) : Option (Nat × List CoreId) :=
  let span := 2 ^ recBits raw 0x28 20 2
  if (openBlocks s c span).length < span then none else fitPlace s raw d

/-! ## The start of a team (R7, R132, R133, R261) -/

/-- The snapshot of a segment that opens before a strand's next bundle (R310). -/
def snapOf (x : Strand) : SegSnap :=
  { s := x.s, p := x.p, poison := x.poison, pc := x.pc, clock := x.clock, loops := x.loops, mxcfg := x.mxcfg, twb := x.twb, nxt := x.nxt }

/-- A segment opens (R310). -/
def openSegment (x : Strand) : Strand :=
  { x with segOpen := true, rewound := false, snap := some (snapOf x), undo := [], queue := [], segSets := [] }

/-- A strand's start state (R7, R309). -/
def strandStart (team : Nat) (raw : LineData) : Strand :=
  let x : Strand :=
    { team := team, s := (Vector.replicate 64 0).set 0 (BitVec.ofNat 64 (recBits raw 0x30 0 64)), pc := BitVec.ofNat 64 (recBits raw 8 0 64),
      busy := Vector.replicate 4 0, replay := Vector.replicate 8 none }
  if recBits raw 0x28 25 1 = 1 then openSegment x else x

/-- A warp's start state (R132). -/
def warpStart (team : Nat) (raw : LineData) (now : Nat) : Warp :=
  let p := BitVec.ofNat 64 (recBits raw 0x30 0 64)
  let lane := { LaneRegs.reset with v := ((Vector.replicate 48 0).set 0 (p.extractLsb' 0 32)).set 1 (p.extractLsb' 32 32) }
  { team := team, lanes := Vector.replicate 32 lane, born := now }

/-- The first fragment of a warp: all lanes, in the warp slot's home entry (R132). -/
def fragStart (w : WarpIx) (raw : LineData) (now : Nat) : Frag :=
  { warp := w, pc := BitVec.ofNat 64 (recBits raw 0 0 64), mask := 0xFFFFFFFF, lastSel := now, fetched := false }

/-- A warp put into its slot. -/
def putWarp (c : Core) (w : WarpIx) (team : Nat) (raw : LineData) : Core :=
  setFrag (setWarp c w (some (warpStart team raw c.cycle))) (Fin.ofNat 192 w.val) (some (fragStart w raw c.cycle))

/-- The proof core of a plate core. -/
def proofCore (k : CoreId) : CoreId := Fin.ofNat 256 (k.val + 1)

/-- A team's share of a core taken and its agents started; every tile zero, held by the strand if there is one. A protected team takes
the lowest free slots and strand of the proof core too (R130 to R133, R146, R314). -/
def seatTeam (s : State) (k : CoreId) (team : Nat) (raw : LineData) : State :=
  let prot := recBits raw 0x28 25 1 = 1
  let strandOf := fun (k : CoreId) => if recStrand raw then freeStrand s k else none
  let ws := (freeSlots s k).take (recWarps raw)
  let n := strandOf k
  let owner := match n with | some n => ownHeld (holderStrand n) | none => ownFree
  let seat : Seat :=
    { team := team, tiles := List.replicate (recBits raw 0x28 8 9) { owner := owner }, slots := ws, strand := n,
      lentSlots := if prot then (freeSlots s (proofCore k)).take (recWarps raw) else [],
      lentStrand := if prot then strandOf (proofCore k) else none }
  modCore s k fun c =>
    let c := ws.foldl (fun c w => putWarp c w team raw) { c with seats := c.seats ++ [seat] }
    match n with
    | some n => setStrand c n (some (strandStart team raw))
    | none => c

/-- The L1 of a core that a team has taken is fitted, and on a proof core too (R131, R314). -/
def fitCores (s : State) (k : CoreId) (prot : Bool) : State := if prot then fitL1 (fitL1 s k) (proofCore k) else fitL1 s k

/-- The agents that start on a core inherit from the events that the grid's start has acquired (R261). -/
def startMarks (s : State) (k : CoreId) (team : Nat) (ms : List Nat) : State :=
  if ms.isEmpty then s
  else
    match seatAt (coreAt s k) team with
    | none => s
    | some x =>
      let s := x.slots.foldl (fun s w => acquireMarks s (.frag k (Fin.ofNat 192 w.val)) ms) s
      match x.strand with
      | some n => acquireMarks s (.strand k n) ms
      | none => s

/-- The coordinates of a team of a grid, x fastest (R255). -/
def teamCoords (g : Grid) (n : Nat) : BitVec 16 × BitVec 16 × BitVec 16 :=
  let gx := max 1 (recBits g.raw 0x20 0 16)
  let gy := max 1 (recBits g.raw 0x20 16 16)
  (BitVec.ofNat 16 (n % gx), BitVec.ofNat 16 (n / gx % gy), BitVec.ofNat 16 (n / gx / gy))

/-- A team's linear number. -/
def teamLinear (g : Grid) (t : Team) : Nat :=
  t.x.toNat + max 1 (recBits g.raw 0x20 0 16) * (t.y.toNat + max 1 (recBits g.raw 0x20 16 16) * t.z.toNat)

/-- Save blocks taken for a placed team: the lowest free ones, by core (R389). -/
def takeBlocks (s : State) (t : Nat) : State :=
  match teamAt s t with
  | none => s
  | some tm =>
    let bs := openBlocks s tm.ctx tm.cores.length
    let s := modCtx s tm.ctx fun x => { x with used := bs ++ x.used }
    let s := modTeam s t fun x => { x with blocks := bs }
    (tm.cores.zip bs).foldl (fun s p =>
      blockEntry s tm.ctx p.2 (teamReg tm)
        ((match gridAt s tm.grid with | some g => g.number | none => 0) ++ (coreReg s t p.1 p.1).extractLsb' 0 32) 1) s

/-- A team of a grid placed on its cores: its linear number, the sets it is to receive again, and its binding. -/
def placeTeam (s : State) (g : Grid) (pos : Nat) (cores : List CoreId) (n : Nat) (again : List Nat)
    (member : Option (Nat × Nat)) : State :=
  let (s, id) := freshId s
  let (x, y, z) := teamCoords g n
  let t : Team := { id := id, grid := g.id, ctx := g.ctx, x := x, y := y, z := z, cores := cores, pos := pos,
                    bars := Vector.replicate 16 {}, member := member, placed := s.tick, again := again }
  let start := fun (s : State) (member : Option (Nat × Nat)) =>
    let s := takeBlocks { s with teams := s.teams ++ [{ t with member := member }] } id
    cores.foldl (fun s k => startMarks (fitCores (seatTeam s k id g.raw) k (teamProt g)) k id g.marks) s
  match member with
  | some (j, i) =>
    let killed := (joinAt s j).any fun x => (x.members[i]?).any fun m => m.state == .killing
    let s := start (modMember s j i fun m => { m with team := some id }) member
    if killed then killTeam s id else s
  | none =>
    match bindTeam s g id with
    | (s, .plain) => start s none
    | (s, .member j i) => start s (some (j, i))
    | (s, .cancelled) => gridEnds (modGrid s g.id fun x => { x with retired := x.retired + 1 }) g.id

/-! ## Queues (R254, R255, R263) -/

/-- What an engine or unit reads at an address, performed at home; a peer's bytes are free (R254, R260). -/
def unitLoad (s : State) (c : CtxId) (u : UnitRef) (va : W64) (n : Nat) : Reach (State × List Byte) :=
  if va.toNat / 4503599627370496 ≠ 0 then .dead va
  else
    match translateUnit s c u .read va.toNat with
    | .pager _ | .wait => .wait
    | .bad _ => .dead va
    | .ok (.peer ..) _ _ => let (s, bs) := freeBytes s n; .ok (s, bs)
    | .ok (.dev cell) _ _ => if linePending s (lineOf cell) then .wait else .ok (s, devBytes s cell n)
    | .ok l _ _ => match locBytes s l n with | some bs => .ok (s, bs) | none => .dead va

/-- The child queue of a context on a die. -/
def childAt (s : State) (d : DieId) (c : CtxId) : Option ChildQueue := (dieAt s d).children.find? fun q => q.ctx == c

/-- A child queue changed. -/
def modChild (s : State) (d : DieId) (c : CtxId) (g : ChildQueue → ChildQueue) : State :=
  modDie s d fun y => { y with children := y.children.map fun q => if q.ctx = c then g q else q }

/-- The hardware queue of a key. -/
def keyQueue (d : DieId) (key : Nat) : QueueId := Fin.ofNat 256 (64 * d.val + (key - 64))

/-- The grid of a queue with teams to place: flushed ones first, then the one that has started (R255, R324). -/
def queueGrid (s : State) (d : DieId) (key : Nat) : Option Grid :=
  let mine := s.grids.filter fun g => g.die == d && g.key == key && !g.ended
  match mine.find? fun g => !g.again.isEmpty with
  | some g => some g
  | none => mine.find? fun g => decide (g.next < gridTeams g)

/-- The context of a queue, its deficit and its quantum. -/
def queueInfo (s : State) (d : DieId) (key : Nat) : Option (CtxId × Nat × Nat) :=
  if key < 64 then (childAt s d (Fin.ofNat 64 key)).map fun q => (q.ctx, q.deficit, 1)
  else (queueAt s (keyQueue d key)).map fun q => (q.ctx, q.deficit, max 1 q.quantum)

/-- A queue's deficit written. -/
def setDeficit (s : State) (d : DieId) (key n : Nat) : State :=
  if key < 64 then modChild s d (Fin.ofNat 64 key) fun q => { q with deficit := n }
  else setQueue s (keyQueue d key) ((queueAt s (keyQueue d key)).map fun q => { q with deficit := n })

/-- The context is live, and no stop holds it (R308, R347). -/
def ctxRuns (s : State) (c : CtxId) : Bool := match ctxAt s c with | some x => !x.stopped && !x.dbg.stopall | none => false

/-- A record as the head of a queue, with the class, parent and depth of its grid. -/
structure Head where
  addr : W64
  raw : LineData
  cls : Nat
  parent : Option Nat
  depth : Nat

/-- What an engine finds at the head of a queue. -/
inductive HeadRes where
  | none
  | wait
  | bad (detail : Nat) (addr : W64)
  | ok (s : State) (h : Head)

/-- The class of a team's grid. -/
def teamClass (s : State) (t : Nat) : Nat := match teamGrid s t with | some g => g.cls | none => 0

/-- The head record of a queue (R254, R263). -/
def readHead (s : State) (d : DieId) (key : Nat) : HeadRes :=
  if key < 64 then
    match childAt s d (Fin.ofNat 64 key) with
    | some { recs := r :: _, .. } =>
      .ok s { addr := 0, raw := r.raw, cls := max (recPrio r.raw) (teamClass s r.parent), parent := some r.parent, depth := r.depth }
    | _ => .none
  else
    match queueAt s (keyQueue d key) with
    | none => .none
    | some q =>
      if q.closing || q.head = q.tail then .none
      else
        let addr := q.ring + BitVec.ofNat 64 (128 * (q.head.toNat % 2 ^ q.log2n))
        match unitLoad s q.ctx (.queue d key) addr 128 with
        | .wait => .wait
        | .dead _ => .bad 3 addr
        | .ok (s, bs) =>
          let raw := BitVec.ofNat 1024 (natLE bs)
          if launchBad raw then .bad 0 addr
          else .ok s { addr := addr, raw := raw, cls := max (recPrio raw) q.cls, parent := none, depth := 0 }

/-- Bytes written into device memory by a unit, at a PKG-view address. -/
def pkgPut (s : State) (a : Nat) (bs : List Byte) : State := (homeStore s (pkgCell a) bs).1

/-- OVCTL of a context written: SPSTOP, TAIL and HEAD (R264, R389). -/
def writeOvctl (s : State) (c : CtxId) : State :=
  match ctxAt s c with
  | none => s
  | some x =>
    pkgPut s (x.record + 0x20) (bytesLE 6 (x.ovhead.toNat + 2 ^ 16 * x.ovtail.toNat + 2 ^ 32 * x.ovlog + 2 ^ 40 * x.spstop.toNat))

/-- The address of a slot of the overflow ring. -/
def overflowSlot (x : Ctx) (p : BitVec 16) : W64 := x.ovbase + BitVec.ofNat 64 (128 * (p.toNat % 2 ^ x.ovlog))

/-- One record of the overflow ring returns to its child queue, if the queue has room; the dies whose records wait (R263). A
record that cannot be read is skipped as a queue's is (R254; DESIGN CHOICE, log entry 16). -/
def unspillOne (c : CtxId) (base : Ctx) (r : State × List DieId) (i : Nat) : State × List DieId :=
  match base.spilled[i]? with
  | none => r
  | some e =>
    let back := fun (s : State) => modCtx s c fun x => { x with spilled := x.spilled.set i { e with back := true } }
    if e.back || r.2.contains e.die then r
    else
      match childAt r.1 e.die c with
      | none => r
      | some q =>
        if q.recs.length ≥ Config.childQueue then (r.1, e.die :: r.2)
        else
          match unitLoad r.1 c (.ring c) (overflowSlot base (base.ovhead + BitVec.ofNat 16 i)) 128 with
          | .ok (s, bs) =>
            let n : Child := { raw := BitVec.ofNat 1024 (natLE bs), parent := e.parent, depth := e.depth }
            (back (modChild s e.die c fun q => { q with recs := q.recs ++ [n], look := q.look || q.recs.isEmpty }), r.2)
          | .wait => (r.1, e.die :: r.2)
          | .dead a => (back (writeRecord (toldUnit r.1 (.ring c)) c { cls := 0x16, detail := 3, rdie := e.die, akind := 4, addr := a }), r.2)

/-- Spilled records return to their child queues, each die's in order, while there is room; HEAD passes the records that have
returned (R263, R264). -/
def unspill (c : CtxId) (s : State) : State :=
  match ctxAt s c with
  | none => s
  | some x =>
    if x.spilled.isEmpty then s
    else
      let s := ((List.range x.spilled.length).foldl (unspillOne c x) (s, [])).1
      match ctxAt s c with
      | none => s
      | some y =>
        let n := (y.spilled.takeWhile (·.back)).length
        if n = 0 then s
        else writeOvctl (setCtx s c (some { y with spilled := y.spilled.drop n, ovhead := y.ovhead + BitVec.ofNat 16 n })) c

/-- A record in the overflow ring could return to its queue now. -/
def unspills (s : State) (c : CtxId) : Bool :=
  match ctxAt s c with
  | none => false
  | some x => x.spilled != ((ctxAt (unspill c s) c).map (·.spilled)).getD []

/-- The head record leaves its queue (R254, R263). -/
def popHead (s : State) (d : DieId) (key : Nat) : State :=
  let s := toldUnit s (.queue d key)
  if key < 64 then
    let c : CtxId := Fin.ofNat 64 key
    unspill c (modChild s d c fun q => { q with recs := q.recs.drop 1, look := true })
  else
    match queueAt s (keyQueue d key) with
    | none => s
    | some q =>
      pkgPut (setQueue s (keyQueue d key) (some { q with head := q.head + 1, look := true })) (q.block + 0xC)
        (bytesLE 2 (q.head + 1).toNat)

/-- A record is skipped, with its error record (R254, R259, R260). -/
def skipHead (s : State) (d : DieId) (key detail : Nat) (addr : W64) : State :=
  match queueInfo s d key with
  | none => s
  | some (c, _, _) => popHead (writeRecord s c { cls := 0x16, detail := detail, rdie := d, akind := 4, addr := addr }) d key

/-- How the wait events of a record stand. -/
inductive EventRes where
  | satisfied (s : State)
  | notYet
  | wait
  | bad (addr : W64)

/-- The marks of what the wait events of a record read: the start of the grid acquires them (R203, R261). -/
def eventMarks (s : State) (c : CtxId) (u : UnitRef) (raw : LineData) : List Nat :=
  [0x50, 0x60].flatMap fun off =>
    let a := recBits raw off 0 64
    if a = 0 then []
    else match translateUnit s c u .read a with
      | .ok l _ _ => marksAt s l 8
      | _ => []

/-- The wait events of a record, read as acquires at DEV (R260). -/
def readEvents (s : State) (c : CtxId) (u : UnitRef) (raw : LineData) : EventRes :=
  [0x50, 0x60].foldl (fun r off =>
    match r with
    | .satisfied s =>
      let a := BitVec.ofNat 64 (recBits raw off 0 64)
      if a = 0 then .satisfied s
      else
        match unitLoad s c u a 8 with
        | .wait => .wait
        | .dead a => .bad a
        | .ok (s, bs) => if recBits raw (off + 8) 0 64 ≤ natLE bs then .satisfied s else .notYet
    | r => r) (.satisfied s)

/-- A grid starts: it takes its number, and its record leaves the queue (R103, R156, R254). -/
def startGrid (s : State) (d : DieId) (key : Nat) (c : CtxId) (h : Head) : State :=
  let (s, id) := freshId s
  let num := match ctxAt s c with | some x => x.grids | none => 0
  let g : Grid := { id := id, number := num, depth := h.depth, ctx := c, raw := h.raw, cls := h.cls, die := d, key := key, parent := h.parent,
                    marks := eventMarks s c (.queue d key) h.raw }
  let s := modCtx s c fun x => { x with grids := x.grids + 1 }
  popHead { s with grids := s.grids ++ [g] } d key

/-- The waiting head of a queue has been read. -/
def notePoll (s : State) (d : DieId) (key : Nat) : State :=
  if key < 64 then modChild s d (Fin.ofNat 64 key) fun q => { q with polled := s.tick, look := false }
  else setQueue s (keyQueue d key) ((queueAt s (keyQueue d key)).map fun q => { q with polled := s.tick, look := false })

/-- The head of a queue is to be read now: at once, or 1024 ticks after it was last read (R260). -/
def pollDue (s : State) (d : DieId) (key : Nat) : Bool :=
  if key < 64 then match childAt s d (Fin.ofNat 64 key) with
    | some q => q.look || decide (q.polled + 1024 ≤ s.tick) | none => false
  else match queueAt s (keyQueue d key) with
    | some q => q.look || decide (q.polled + 1024 ≤ s.tick) | none => false

/-- One queue read: its grid starts, its record is skipped, or it waits on; none when nothing is read (R254, R260). -/
def pollQueue (s : State) (d : DieId) (key : Nat) : Option State :=
  match queueInfo s d key with
  | none => none
  | some (c, _, _) =>
    if !ctxRuns s c || (queueGrid s d key).isSome || !pollDue s d key then none
    else
      match readHead s d key with
      | .none | .wait => none
      | .bad detail addr => some (skipHead s d key detail addr)
      | .ok s h =>
        match readEvents s c (.queue d key) h.raw with
        | .wait => none
        | .bad addr => some (skipHead s d key 2 addr)
        | .notYet => some (notePoll s d key)
        | .satisfied s => some (startGrid s d key c h)

/-- The keys of a die's queues in the order of a round (R263). -/
def queueKeys : List Nat := List.range 128

/-- The launch engine controller of a die is quiesced and its tables do not place (R392). -/
def launchHeld (s : State) (d : DieId) : Bool :=
  match (dieAt s d).striking with
  | some x => x.ctl == 1 && !x.placeReady && !x.tables
  | none => false

/-- EVENT_POLL: the launch engine of a die reads the heads of its queues; spilled records return (R254, R260, R263). -/
def execEventPoll (d : DieId) (s : State) : Out :=
  if !dieReady s d || launchHeld s d then .refused .notEnabled
  else
    let back := (List.finRange 64).filter (unspills s)
    let r := queueKeys.foldl (fun (r : State × Bool) key =>
      match pollQueue r.1 d key with
      | some t => (t, true)
      | none => r) (back.foldl (fun s c => unspill c s) s, !back.isEmpty)
    if r.2 then .next r.1 else .refused .notEnabled

/-! ## Placement (R255, R256) -/

/-- The next team of a queue and its place, when it fits. -/
def nextPlace (s : State) (d : DieId) (key : Nat) : Option (Grid × Nat × List CoreId) :=
  match queueGrid s d key with
  | none => none
  | some g =>
    if !ctxRuns s g.ctx then none
    else (findPlace s g.raw g.ctx d).map fun p => (g, p.1, p.2)

/-- The class in which a queue is served. -/
def queueClass (s : State) (d : DieId) (key : Nat) : Option Nat := (queueGrid s d key).map (·.cls)

/-- The next team of a queue placed. -/
def placeNext (s : State) (d : DieId) (key : Nat) : Option State :=
  match nextPlace s d key with
  | none => none
  | some (g, pos, cores) =>
    match g.again with
    | (n, sets, m) :: rest => some (placeTeam (modGrid s g.id fun x => { x with again := rest }) g pos cores n sets m)
    | [] => some (placeTeam (modGrid s g.id fun x => { x with next := x.next + 1 }) g pos cores g.next [] none)

/-- A turn of a class: the queue whose turn it is places a team, or the turn passes on. A queue that is left with no startable
record loses its credit and its turn at once (R255). -/
def serveClass (d : DieId) (cls : Fin 4) : Nat → State → Option State
  | 0, _ => none
  | n + 1, s =>
    let t := (dieAt s d).turn[cls]
    let key := t / 2
    let pass := fun (s : State) =>
      let next := (key + 1) % 128
      let s := modDie s d fun y => { y with turn := y.turn.set cls (2 * next) }
      serveClass d cls n s
    let serve := fun (s : State) (deficit : Nat) =>
      if deficit = 0 then pass s
      else
        match placeNext s d key with
        | some u =>
          let u := (pollQueue u d key).getD u
          some (if (queueGrid u d key).isSome then setDeficit u d key (deficit - 1)
            else modDie (setDeficit u d key 0) d fun y => { y with turn := y.turn.set cls (2 * ((key + 1) % 128)) })
        | none => pass s
    match queueClass s d key, queueInfo s d key with
    | some c, some (_, deficit, quantum) =>
      if c ≠ cls.val then pass s
      else if t % 2 = 1 then serve s deficit
      else
        let new := min (deficit + quantum) (2 * quantum)
        let s := modDie s d fun y => { y with turn := y.turn.set cls (2 * key + 1) }
        serve (setDeficit s d key new) new
    | none, some _ => pass (setDeficit s d key 0)
    | _, none => pass s

/-- TEAM_PLACE: the launch engine of a die places one team, by class and deficit round robin (R255, R256). -/
def execTeamPlace (d : DieId) (s : State) : Out :=
  if !dieReady s d || launchHeld s d then .refused .notEnabled
  else
    let some? := (List.finRange 4).findSome? fun cls =>
      if queueKeys.any fun key => queueClass s d key == some cls.val && (nextPlace s d key).isSome then serveClass d cls 300 s
      else none
    match some? with
    | some t => .next t
    | none => .refused .notEnabled

/-- GRID_RETIRE_SIGNAL: the writes of every team of a retired grid are visible; SIGA advances by 1 (R260). -/
def execGridRetireSignal (gr : Nat) (s : State) : Out :=
  match s.grids.find? (fun x => x.id == gr) with
  | none => .refused .notEnabled
  | some g =>
    let mine := fun t => match teamAt s t with | some x => x.grid == gr | none => false
    let quiet := s.reqs.all fun r => !mine r.team
    let past := fun h => h = 0 || decide (h < s.tick)
    if !g.ended || !quiet || !past g.hz || !((s.teams.filter fun t => t.grid == gr).all fun t => past t.hz) || launchHeld s g.die then .refused .notEnabled
    else
      let done := fun (s : State) =>
        let left := s.teams.filter fun t => t.grid == gr && copiesLeft s t
        .next (lookAgain { s with teams := s.teams.filter fun t => t.grid != gr, grids := s.grids.filter fun x => x.id != gr,
                                  past := left ++ s.past, pastGrids := if left.isEmpty then s.pastGrids else g :: s.pastGrids } g.ctx)
      let siga := BitVec.ofNat 64 (recBits g.raw 0x70 0 64)
      let bad := fun (s : State) =>
        done (writeRecord s g.ctx { cls := 0x16, detail := 4, rdie := g.die, akind := 4, addr := siga, grid := g.number })
      if siga = 0 then done s
      else if siga.toNat / 4503599627370496 ≠ 0 then bad s
      else
        match translateUnit s g.ctx (.grid gr) .write siga.toNat with
        | .pager _ | .wait => .refused .notEnabled
        | .bad _ => bad s
        | .ok l _ _ =>
          match (match l with | .dev c => linePending s (lineOf c) | _ => false), locBytes s l 8 with
          | true, _ => .refused .notEnabled
          | false, none => done s
          | false, some bs =>
            match locPut s l (bytesLE 8 ((natLE bs + 1) % 2 ^ 64)) with
            | some (s, _) => done s
            | none => bad s

/-! ## LAUNCH (R262 to R264) -/

/-- What becomes of a record that LAUNCH enqueues. -/
inductive Enqueued where
  | done (s : State) (status : Nat)
  /-- The overflow ring is full. -/
  | full
  /-- The page of the ring's slot is to be filled. -/
  | fill

/-- The child queue of a context on a die, made when it is not there. -/
def withChild (s : State) (d : DieId) (c : CtxId) : State :=
  match childAt s d c with
  | some _ => s
  | none => modDie s d fun y => { y with children := y.children ++ [{ ctx := c }] }

/-- The issuer of an op that a record names. -/
def issueBlame (q : Issue) : Blame := { who := q.who, place := q.place, agent := q.agent, gone := false, team := q.team }

/-- A record enters the child queue of the issuer's die, or spills, or waits: for room in the ring, for its page, or, with
spilling stopped and room in the queue, for spilled records of the die that come first (R263, R264). -/
def enqueue (s : State) (q : Issue) (raw : LineData) : Enqueued :=
  let d := coreDie q.k
  let s := withChild s d q.ctx
  let depth := (match teamGrid s q.team with | some g => g.depth | none => 0) + 1
  match childAt s d q.ctx, ctxAt s q.ctx with
  | some cq, some x =>
    let r : Child := { raw := raw, parent := q.team, depth := depth }
    let behind := x.spilled.any fun y => y.die == d && !y.back
    if cq.recs.length < Config.childQueue && !behind then
      .done (modChild s d q.ctx fun c => { c with recs := c.recs ++ [r], look := c.look || c.recs.isEmpty }) 0
    else if x.spstop then if cq.recs.length < Config.childQueue then .fill else .done s 2
    else if x.spilled.length ≥ 2 ^ x.ovlog then .full
    else
      let va := overflowSlot x x.ovtail
      let stop := fun (s : State) =>
        let s := writeOvctl (modCtx s q.ctx fun y => { y with spstop := true }) q.ctx
        imprecise s q.ctx (issueBlame q) { cls := 0x14, rdie := d, akind := 4, wisn := q.wisn, pc := q.pc, addr := va }
      if va.toNat / 4503599627370496 ≠ 0 then .done (stop s) 2
      else
        match translateUnit s q.ctx (.spill q.ctx) .write va.toNat with
        | .pager _ | .wait => .fill
        | .bad _ => .done (stop s) 2
        | .ok l _ _ =>
          match locPut s l (bytesLE 128 raw.toNat) with
          | none => .done (stop s) 2
          | some (s, _) =>
            .done (writeOvctl (modCtx s q.ctx fun y =>
              { y with spilled := y.spilled ++ [{ die := d, parent := q.team, depth := depth }], ovtail := y.ovtail + 1 }) q.ctx) 0
  | _, _ => .done s 2

/-- The issuer may not launch: neither its team's leader nor its first core's strand, or depth 10 (R156). -/
def launchRefused (s : State) (q : Issue) : Bool :=
  let deep := match teamGrid s q.team with | some g => g.depth ≥ 10 | none => true
  let k0 := match teamAt s q.team with | some t => t.cores.head? | none => none
  deep || !(match q.who with
    | .strand k _ => k0 == some k
    | .frag k _ =>
      let (home, slot) := match q.place with
        | some (_, w) => (match warpAt (coreAt s k) w with
          | some { away := some o, .. } => (o.core, o.ix)
          | _ => (k, w))
        | none => (k, 0)
      k0 == some home && (match seatAt (coreAt s home) q.team with | some x => x.slots.head? == some slot | none => false))

/-- What LAUNCH decides before its wait. -/
inductive LaunchRes where
  | trap (t : TrapInfo)
  | status (n : Nat)
  | read

/-- The checks of LAUNCH before its record is read (R262). -/
def launchCheck (s : State) (q : Issue) (i : Instr) (va : W64) : LaunchRes :=
  match checkAccs s q i .load 7 true [⟨q.lane, va, 128⟩] with
  | some t => .trap t
  | none => if launchRefused s q then .status 3 else .read

/-- The status of a task op written to every participating lane; the fragment goes on (R262). -/
def warpStatus (s : State) (e : WarpEnv) (d : Reg) (v : Nat) : State :=
  let s := writeLanes s e.k e.x.warp e.parts 1 fun _ => { regs := [(d, BitVec.ofNat 32 v)] }
  warpEnd (setScore s e.k e.f [d] [] 1) e

/-- A fragment's record enters the child queue, or waits for the overflow ring; `since`: when the ring was first found full, or its wait
for a page or for earlier records was last seen, which is no wait for room (R264). -/
def warpEnqueue (d : Reg) (raw : LineData) (since : Nat) (e : WarpEnv) (s : State) : Out :=
  match enqueue s (warpIssue s e) raw with
  | .done s n => .next (warpStatus s e d n)
  | .full => waitFrag s e (.spill raw since) true
  | .fill => waitFrag s e (.spill raw s.tick) true

/-- LAUNCH of a warp. -/
def warpLaunch (d a : Reg) (e : WarpEnv) (s : State) : Out :=
  once e s [a, a + 1] [d] fun l =>
    let q := warpIssue s e
    let va := readPair e l a
    match launchCheck s q e.i va with
    | .trap t => warpFault s e t
    | .status n => .next (warpStatus s e d n)
    | .read =>
      warpRecordOp e s va 7 128 fun s bs =>
        let raw := BitVec.ofNat 1024 (natLE bs)
        if launchBad raw then .next (warpStatus s e d 4)
        else if waitDone s q.who .dev (owned s q.who) then warpEnqueue d raw s.tick e s
        else waitFrag s e (.launch raw) false

/-- A slot's op has issued and waits as a release over the accesses before it. -/
def holdStrand (s : State) (e : StrandEnv) (c : WaitFor) : State :=
  let (s, m) := makeMark s (.strand e.k e.n) s.nextId
  onStrand s e.k e.n fun x =>
    { x with holds := x.holds ++ [{ i := e.i, slot := e.slot, cond := c, pc := e.st.pc, clock := e.st.clock, mark := m }] }

/-- The issuer of a held op of a strand. -/
def holdIssue (s : State) (k : CoreId) (n : StrandId) (x : Strand) (h : Hold) : Issue :=
  { who := .strand k n, place := none, k := k, team := x.team, ctx := teamCtx s x.team, away := false,
    wisn := BitVec.ofNat 64 h.clock, pc := tpcSlot h.pc h.slot, unit := h.slot.val, agent := 64 + n.val }

/-- A held op is over; S[D] receives its value. -/
def endHold (s : State) (k : CoreId) (n : StrandId) (h : Hold) (d : Option (Reg × W64)) : State :=
  onStrand s k n fun x =>
    let x := { x with holds := x.holds.erase h }
    match d with
    | some (r, v) => landSreg x r v none
    | none => x

/-- LAUNCH (R262). -/
def execLaunch (g : Guard) (d a : Reg) (s : State) : Out :=
  asOp (.launch g d a) g s (warpLaunch d a) fun e s =>
    let q := strandIssue s e
    let close := fun (s : State) => Host.Outcome.next (markFx s e fun x => { x with close := true })
    let status := fun (s : State) (n : Nat) => close (pendAdd s e 1 (.sreg d (BitVec.ofNat 64 n)))
    match launchCheck s q e.i (opA e a) with
    | .trap t => strandFault s e t
    | .status n => status s n
    | .read =>
      strandRecordOp e s (opA e a) 7 128 fun s bs =>
        let raw := BitVec.ofNat 1024 (natLE bs)
        if launchBad raw then status s 4
        else if waitDone s q.who .dev (owned s q.who) then
          match enqueue s q raw with
          | .done s n => status s n
          | .full | .fill => close (holdStrand s e (.spill raw s.tick))
        else close (holdStrand s e (.launch raw))

/-- SPILL_TIMEOUT: the overflow ring stayed full for 2000 ticks; status 1 (R264). -/
def execSpillTimeout (who : AgentRef) (s : State) : Out :=
  let full := fun (s : State) (q : Issue) (raw : LineData) => match enqueue s q raw with | .full => true | _ => false
  match who with
  | .frag k f =>
    match fragAt (coreAt s k) f with
    | some { state := .wait (.launch g d a) (.spill raw since), .. } =>
      match againEnv (.launch g d a) g k f s with
      | some e =>
        if since + 2000 ≤ s.tick && full s (warpIssue s e) raw then .next (warpStatus s e d 1) else .refused .notEnabled
      | none => .refused .notEnabled
    | _ => .refused .notEnabled
  | .strand k n =>
    match strandAt (coreAt s k) n with
    | some x =>
      let late := fun (h : Hold) =>
        match h.i, h.cond with
        | .launch _ d _, .spill raw since =>
          if since + 2000 ≤ s.tick && full s (holdIssue s k n x h) raw then some (Host.Outcome.next (endHold s k n h (some (d, 1)))) else none
        | _, _ => none
      (x.holds.findSome? late).getD (.refused .notEnabled)
    | none => .refused .notEnabled

/-! ## NXT (R265, R266) -/

/-- The coordinate set of a number of a grid's tile queue. -/
def tileSet (g : Grid) (c : Nat) : W64 :=
  let tx := recBits g.raw 0x38 0 16
  let ty := max 1 (recBits g.raw 0x38 16 16)
  BitVec.ofNat 64 (c % tx + 2 ^ 16 * (c / tx % ty) + 2 ^ 32 * (c / (tx * ty)))

/-- The sets of a grid's tile queue; 0 without one. -/
def tileSets (g : Grid) : Nat :=
  recBits g.raw 0x38 0 16 * max 1 (recBits g.raw 0x38 16 16) * max 1 (recBits g.raw 0x38 32 16)

/-- The next set for a strand: one to be replayed after a rewind, one to be delivered again, or a new one (R265, R266). -/
def takeSet (s : State) (k : CoreId) (n : StrandId) (x : Strand) : State × Option Nat :=
  let note := fun (s : State) (c : Nat) => onStrand s k n fun y => { y with segSets := if y.segOpen then y.segSets ++ [c] else [] }
  match x.replaySets, teamAt s x.team, teamGrid s x.team with
  | c :: rest, _, _ => (note (onStrand s k n fun y => { y with replaySets := rest }) c, some c)
  | [], some t, some g =>
    match t.again with
    | c :: rest => (note (modTeam s x.team fun y => { y with again := rest, sets := y.sets ++ [c] }) c, some c)
    | [] =>
      if g.tq < tileSets g then
        let s := modGrid s g.id fun y => { y with tq := y.tq + 1 }
        (note (modTeam s x.team fun y => { y with sets := y.sets ++ [g.tq] }) g.tq, some g.tq)
      else (s, none)
  | [], _, _ => (s, none)

/-- NXT (R265). -/
def execNxt (g : Guard) (sel : BitVec 16) (s : State) : Out :=
  strandOp (.nxt g sel) g s fun e s =>
    let r := if sel = 0 then takeSet s e.k e.n e.st else (s, none)
    let v := match r.2, teamGrid s e.st.team with
      | some c, some gr => tileSet gr c
      | _, _ => 0x8000000000000000#64
    let s := onStrand r.1 e.k e.n fun x => { x with nxt := x.nxt + 1 }
    .next (pendAdd s e 32 (.sreg (BitVec.ofNat 6 (56 + e.st.nxt.toNat)) v))

end Sys2Proof.Machine
end

