-- ==== Sys2Proof/Machine/Joins.lean ====
section
/-! DEFINITION. Quorum joins (R267 to R291): JNEW, IRREV, JARR, JWAIT, JQRY, the deadline flush, release with its fill, and
the retirement of teams. -/

namespace Sys2Proof.Machine

/-! ## JNEW (R271) -/

/-- A weight that no descriptor may hold: negative, infinite or NaN (R271). -/
def badWeight (x : W32) : Bool :=
  match val32 x with
  | .nan _ | .inf _ => true
  | .fin n m _ => n && m != 0

/-- A descriptor is invalid in itself (R271). -/
def descBad (d : BitVec 512) : Bool :=
  let a := joinElem d
  descBits d 0 38 26 ≠ 0 || descBits d 0x38 0 64 ≠ 0 || joinFill d > 2 || joinN d = 0 ||
    (!joinTable d && badWeight (joinUw d)) || (joinFill d ≠ 0 && descBits d 0x20 0 32 = 0) ||
    descBits d 0x18 0 64 % a ≠ 0 || descBits d 0x28 0 64 % a ≠ 0 || (joinTable d && descBits d 0x10 0 64 % 4 ≠ 0)

/-- The total declared weight: the table's, in index order, or N times UW (R271). -/
def totalWeight (d : BitVec 512) (ws : List W32) : W32 :=
  if joinTable d then ws.foldl (fun a w => round32 (valAdd .rne (val32 a) (val32 w))) 0
  else round32 (valMul (.fin false (joinN d) 0) (val32 (joinUw d)))

/-- The total weight is zero or infinite. -/
def totalBad (w : W32) : Bool :=
  match val32 w with
  | .nan _ | .inf _ => true
  | .fin _ m _ => m == 0

/-- The weights of a table, each read as a weak load (R271). -/
def readWeights (s : State) (q : Issue) (i : Instr) (base : W64) : Nat → RecRes × List W32
  | 0 => (.ok s [], [])
  | n + 1 =>
    match readWeights s q i base n with
    | (.ok s _, ws) =>
      match readRecord s q i (base + BitVec.ofNat 64 (4 * n)) 2 4 fun _ => [] with
      | .ok s bs => (.ok s [], ws ++ [BitVec.ofNat 32 (natLE bs)])
      | r => (r, ws)
    | r => r

/-- The pages of an object: each writable and with a home in the package (R270, R271). -/
inductive ObjectRes where
  | ok (cell : Nat)
  | pager (va : W64)
  | wait
  | bad (va : W64) (reason : Nat)

/-- The places of an object of `n` bytes. -/
def objectPlace (s : State) (q : Issue) (va : W64) (n : Nat) : ObjectRes :=
  let at_ := fun (a : W64) =>
    match translate s q.k q.ctx .write a.toNat with
    | .ok (.dev c) _ _ => ObjectRes.ok c
    | .ok .. => .bad a 8
    | .pager _ => .pager a
    | .wait => .wait
    | .bad r => .bad a r
  let pages := ((List.range ((n + 4095) / 4096 + 1)).map fun i => va + BitVec.ofNat 64 (min (4096 * i) (n - 1)))
  match pages.findSome? fun a => (match at_ a with | .ok _ => none | r => some r) with
  | some r => r
  | none => at_ va

/-- The window and alignment checks of JNEW's two addresses, and its PROV check (R271, R279). -/
def jnewCheck (s : State) (q : Issue) (i : Instr) (obj dsc : W64) : Option TrapInfo :=
  if obj.toNat / 4503599627370496 ≠ 0 then
    some (q.memv obj (match window s q.k q.team q.away obj with | .control _ => 6 | .bad r => r | _ => 0))
  else
    match windowReason s q .load false dsc 64 with
    | some r => some (q.memv dsc r)
    | none =>
      if obj.toNat % 128 ≠ 0 then some (trapAlign obj 7 q.unit)
      else if dsc.toNat % 64 ≠ 0 then some (trapAlign dsc 6 q.unit)
      else if memberRunning s q.team then some (trapProv i false q.unit)
      else none

/-- What JNEW comes to before its wait. -/
inductive JnewRes where
  | trap (t : TrapInfo)
  | status (s : State) (n : Nat)
  | absent (ls : List Loc)
  | pager (va : W64)
  | wait
  | poison (s : State) (u : Nat)
  | stored (s : State) (c : WaitFor)

/-- The live joins of a die. -/
def dieJoins (s : State) (d : DieId) : Nat := (s.joins.filter fun j => dieOf j.cell == d).length

/-- JNEW up to the store of its object (R271). -/
def jnewDo (s : State) (q : Issue) (i : Instr) (obj dsc : W64) : JnewRes :=
  match jnewCheck s q i obj dsc with
  | some t => .trap t
  | none =>
    match objectPlace s q obj 128 with
    | .bad a r => .trap (q.memv a r)
    | .pager a => .pager a
    | .wait => .wait
    | .ok _ =>
      match readRecord s q i dsc 6 64 fun _ => [] with
      | .trap t => .trap t
      | .absent ls => .absent ls
      | .pager a => .pager a
      | .wait => .wait
      | .poison s u => .poison s u
      | .ok s bs =>
        let d := BitVec.ofNat 512 (natLE bs)
        if descBad d then .status s 4
        else
          match readWeights s q i (BitVec.ofNat 64 (descBits d 0x10 0 64)) (if joinTable d then joinN d else 0) with
          | (.trap t, _) => .trap t
          | (.absent ls, _) => .absent ls
          | (.pager a, _) => .pager a
          | (.wait, _) => .wait
          | (.poison s u, _) => .poison s u
          | (.ok s _, ws) =>
            let wt := totalWeight d ws
            if ws.any badWeight || totalBad wt then .status s 4
            else
              let n := 128 + 8 * ((joinN d + 63) / 64)
              match objectPlace s q obj n with
              | .bad a r => .trap (q.memv a r)
              | .pager a => .pager a
              | .wait => .wait
              | .ok cell =>
                let lines := linesOf cell n
                if (joinAt s cell).isSome then .status s 5
                else if dieJoins s (dieOf cell) ≥ Config.liveJoins then .status s 1
                else if (owned s q.who).any fun r => (match r.loc with | .dev c => lines.contains (lineOf c) | _ => false) then .wait
                else
                  let j : Join := { cell := cell, va := obj, ctx := q.ctx, desc := d, wt := wt, q := BitVec.ofNat 16 (joinQuorum d) }
                  let (s, hit) := observe s q .store (lines.map fun n =>
                    ⟨q.lane, obj + BitVec.ofNat 64 (128 * (n - lineOf cell)), 128, .dev (128 * n), 0⟩)
                  let s := if hit then noteWatch s q.who else s
                  let (s, w) := storeJoin s j false
                  let (s, v) := homeStores s [(cell, bytesLE 64 d.toNat), (cell + 0x68, bytesLE 24 0)]
                  .stored (dropL1 s q.k lines) (.jnew cell obj d wt ws (max w v))

/-- JNEW's wait is over: the join is registered, OPEN and LIVE, with its status (R271). -/
def jnewEnd (s : State) (c : CtxId) (cell : Nat) (va : W64) (d : BitVec 512) (wt : W32) (ws : List W32) : State × Nat :=
  if (joinAt s cell).isSome then (s, 5)
  else if dieJoins s (dieOf cell) ≥ Config.liveJoins then (s, 1)
  else
    let j : Join := { cell := cell, va := va, ctx := c, desc := d, wt := wt, q := BitVec.ofNat 16 (joinQuorum d), weights := ws }
    (writeJoin { s with joins := s.joins ++ [j] } cell, 0)

/-- JNEW (R271). -/
def execJnew (g : Guard) (d a b : Reg) (s : State) : Out :=
  asOp (.jnew g d a b) g s
    (fun e s => once e s [a, a + 1, b, b + 1] [d] fun l =>
      match jnewDo s (warpIssue s e) e.i (readPair e l a) (readPair e l b) with
      | .trap t => warpFault s e t
      | .status s n => .next (warpStatus s e d n)
      | .absent ls => parkFrag s e (.presence ls)
      | .pager va => parkFrag s e (.fault [(l, va)] true)
      | .wait => .next (uncount s e)
      | .poison s u => warpFault s e { cls := .seh, code := 1, synd := (1#1 ++ 0#31 : W32) ++ laneBit l, unit := u }
      | .stored s c => waitFrag s e c false)
    fun e s =>
      match jnewDo s (strandIssue s e) e.i (opA e a) (opB e b) with
      | .trap t => strandFault s e t
      | .status s n => .next (markFx (pendAdd s e 1 (.sreg d (BitVec.ofNat 64 n))) e fun x => { x with close := true })
      | .absent ls => strandStall s e (.presence ls)
      | .pager va => strandPager s e va
      | .wait => strandStall s e .landing
      | .poison s u => strandPoison s e (poisonInfo u 0)
      | .stored s c => .next (markFx (holdStrand s e c) e fun x => { x with close := true })

/-! ## JARR and IRREV (R280, R281) -/

/-- What the join unit does with an arrival or a pledge. -/
inductive UnitRes where
  /-- The unit is between a commit and its count, or the release is not over. -/
  | wait
  | kill
  | status (s : State) (n : Nat)
  /-- The commit is done; its ticks must pass. -/
  | commit (s : State) (after : Nat)

/-- A commit waits for an atomic that is between its halves in a word that it adds to (R207, R282). -/
def commitWaits (s : State) (cell i : Nat) : Bool :=
  s.held.any fun h => h.join == cell && h.member == i && (match h.eff with
    | .delta op _ _ => halfDone s (4 * h.word) (atomLen op)
    | .bytes _ => false)

/-- A commit made, and counted at once when no tick has to pass. -/
def commitMember (s : State) (cell i : Nat) (goal : MemberState) : UnitRes :=
  if commitWaits s cell i then .wait else
  let (s, w) := beginCommit s cell i goal
  if w = 0 then .status (countMember s cell) 0 else .commit s w

/-- JARR at the join unit, after its wait as a DEV release (R281). -/
def jarrDo (s : State) (q : Issue) : UnitRes :=
  match memberOf s q.team with
  | none => .status s 3
  | some (j, i, m) =>
    if !waitDone s q.who .dev (owned s q.who) then .wait
    else
      match m.state with
      | .killing | .killed | .cancelled => .kill
      | .arrived => if j.busy.isSome then .wait else .status s 2
      | .running | .pledged | .unbound => if j.busy.isSome then .wait else commitMember s j.cell i .arrived

/-- IRREV at the join unit (R280). -/
def irrevDo (s : State) (q : Issue) : UnitRes :=
  match memberOf s q.team with
  | none => .status s 0
  | some (j, i, m) =>
    match m.state with
    | .killing => .kill
    | .running =>
      if !waitDone s q.who .dev (owned s q.who) || j.busy.isSome then .wait else commitMember s j.cell i .pledged
    | .unbound | .pledged | .arrived | .killed | .cancelled => .status s 0

/-- A fragment's arrival or pledge: its end, or its wait, which is a park (R280, R281). -/
def warpUnit (f : State → Issue → UnitRes) (fin : State → WarpEnv → Nat → State) (e : WarpEnv) (s : State) : Out :=
  if warpKill s e then .next (takeKill s e)
  else
    match f s (warpIssue s e) with
    | .wait => waitFrag s e (.release .dev) true
    | .kill => .next (takeKill s e)
    | .status s n => .next (fin s e n)
    | .commit s w => waitFrag s e (.arrive w) true

/-- A strand's arrival or pledge: a kill point that closes the segment; its wait holds the next bundle. -/
def strandUnit (f : State → Issue → UnitRes) (fin : State → Nat → State) (e : StrandEnv) (s : State) : Out :=
  let s := markFx s e fun x => { x with close := true, killPoint := true }
  if e.st.kill then .next s
  else
    match f s (strandIssue s e) with
    | .wait => .next (holdStrand s e (.release .dev))
    | .kill => .next (onStrand s e.k e.n fun x => { x with kill := true })
    | .status s n => .next (fin s n)
    | .commit s w => .next (holdStrand s e (.arrive w))

/-- JARR of a warp. -/
def warpJarr (d : Reg) (e : WarpEnv) (s : State) : Out :=
  once e s [] [d] fun _ => warpUnit jarrDo (fun s e n => warpStatus s e d n) e s

/-- JARR (R281). -/
def execJarr (g : Guard) (d : Reg) (s : State) : Out :=
  asOp (.jarr g d) g s (warpJarr d) fun e s =>
    strandUnit jarrDo (fun s n => pendAdd s e 1 (.sreg d (BitVec.ofNat 64 n))) e s

/-- IRREV of a warp: one participating lane suffices (R280). -/
def warpIrrev (e : WarpEnv) (s : State) : Out := warpUnit irrevDo (fun s e _ => warpEnd s e) e s

/-- IRREV (R280). -/
def execIrrev (g : Guard) (s : State) : Out :=
  asOp (.irrev g) g s warpIrrev fun e s => strandUnit irrevDo (fun s _ => s) e s

/-! ## JWAIT and JQRY (R289) -/

/-- Where an object address leads. -/
inductive JoinAddr where
  | trap (t : TrapInfo)
  | absent (ls : List Loc)
  | pager (va : W64)
  | wait
  | ok (l : Loc)

/-- The checks of an address of an object, as for a load (R289). -/
def objectAddr (s : State) (q : Issue) (i : Instr) (va : W64) (log len : Nat) : JoinAddr :=
  let a : Acc := ⟨q.lane, va, len⟩
  match checkAccs s q i .load log false [a] with
  | some t => .trap t
  | none =>
    match (absentLines s q a).eraseDups with
    | l :: ls => .absent (l :: ls)
    | [] =>
      let r := locate s q .load [a]
      match r.bad, r.pager, r.ok with
      | (_, n) :: _, _, _ => .trap (q.memv va n)
      | [], _ :: _, _ => .pager va
      | [], [], p :: _ => .ok p.loc
      | [], [], [] => .wait

/-- The checks of the object's address itself. -/
def joinAddr (s : State) (q : Issue) (i : Instr) (va : W64) : JoinAddr := objectAddr s q i va 7 128

/-- The live join at a place. -/
def liveJoin (s : State) : Loc → Option Join
  | .dev c => joinAt s c
  | _ => none

/-- An 8-byte word of an object as the issuer's team sees memory, read at home; none while its line is pending, or a write of the issuer
to it is to be performed (R201, R276). An acquire inherits from the releases that it reads (R203, R289). -/
def objectWord (s : State) (q : Issue) (acq : Bool) (l : Loc) : Option (State × W64) :=
  let word := fun (bs : List Byte) => BitVec.ofNat 64 (natLE bs)
  if hitPasses s q l 8 then none
  else
    let s := if acq then acquireAt s q.who l 8 else s
    match l with
    | .dev c => if linePending s (lineOf c) then none else some (s, word (viewBytes s (heldTag s q.team) c 8))
    | l =>
      match locBytes s l 8 with
      | some bs => some (s, word bs)
      | none => let (s, bs) := freeBytes s 8; some (s, word bs)

/-- The debugger's and the sampler's view of some 8-byte words that an op has read in memory (R349, R357). -/
def seeWords (s : State) (q : Issue) (vas : List W64) : State :=
  let (s, hit) := observe s q .load (vas.map fun va => ⟨q.lane, va, 8, .dev 0, 0⟩)
  if hit then noteWatch s q.who else s

/-- A place some bytes on. -/
def locPlus (n : Nat) : Loc → Loc
  | .dev c => .dev (c + n)
  | .host a => .host (a + n)
  | .peer p a => .peer p (a + n)
  | .shared k t o => .shared k t (o + n)

/-- What JWAIT returns, F and the first mask word; or why it does not yet (R289). -/
inductive JoinRes where
  | ok (s : State) (f m : W32)
  /-- No result: the join goes on, or a line is pending. -/
  | wait
  /-- The mask word's address faults, as a load's would. -/
  | fault (a : JoinAddr) (va : W64)

/-- JWAIT's result at an object's place (R289). -/
def joinResult (s : State) (q : Issue) (i : Instr) (l : Loc) (va : W64) : JoinRes :=
  match liveJoin s l with
  | some j => if j.state = .released || j.state = .failed then .ok s j.f ((maskWord j 0).extractLsb' 0 32) else .wait
  | none =>
    match objectWord s q true (locPlus 0x40 l) with
    | none => .wait
    | some (s, st) =>
      if st.toNat / 2 ^ 48 % 4 < 2 then .ok (seeWords s q [va + 0x40]) 0x7FC00000 0
      else
        match objectWord s q true (locPlus 0x50 l), objectAddr s q i (va + 0x80) 3 8 with
        | some (s, f), .ok p =>
          match objectWord s q true p with
          | some (s, m) => .ok (seeWords s q [va + 0x40, va + 0x50, va + 0x80]) (f.extractLsb' 0 32) (m.extractLsb' 0 32)
          | none => .wait
        | none, _ => .wait
        | _, .wait => .wait
        | _, a => .fault a (va + 0x80)

/-- The cell of a place, for a wait. -/
def locCell : Loc → Nat
  | .dev c => c
  | _ => 0

/-- A fragment's object address that leads nowhere yet. -/
def warpAddr (e : WarpEnv) (s : State) (l : Lane) (a : JoinAddr) (go : Loc → Out) : Out :=
  match a with
  | .trap t => warpFault s e t
  | .absent ls => parkFrag s e (.presence ls)
  | .pager va => parkFrag s e (.fault [(l, va)] true)
  | .wait => .next (uncount s e)
  | .ok p => go p

/-- A strand's. -/
def strandAddr (e : StrandEnv) (s : State) (a : JoinAddr) (go : Loc → Out) : Out :=
  match a with
  | .trap t => strandFault s e t
  | .absent ls => strandStall s e (.presence ls)
  | .pager va => strandPager s e va
  | .wait => strandStall s e .landing
  | .ok p => go p

/-- JWAIT of a warp. -/
def warpJwait (d a : Reg) (e : WarpEnv) (s : State) : Out :=
  once e s [a, a + 1] [d, d + 1] fun l =>
    let q := warpIssue s e
    let va := readPair e l a
    warpAddr e s l (joinAddr s q e.i va) fun p =>
      match joinResult s q e.i p va with
      | .wait => waitFrag s e (.jwait (locCell p) va) true
      | .fault a _ => warpAddr e s l a fun _ => .next s
      | .ok s f m =>
        let s := writeLanes s e.k e.x.warp e.parts 1 fun _ => { regs := [(d, f), (d + 1, m)] }
        .next (warpEnd (setScore s e.k e.f [d, d + 1] [] 1) e)

/-- JWAIT (R289). What the release of a live join follows is performed, and TICK has passed it, so that acquire inherits nothing. -/
def execJwait (g : Guard) (d a : Reg) (s : State) : Out :=
  asOp (.jwait g d a) g s (warpJwait d a) fun e s =>
    let q := strandIssue s e
    strandAddr e s (joinAddr s q e.i (opA e a)) fun p =>
      match joinResult s q e.i p (opA e a) with
      | .wait => strandStall s e (.jwait (opA e a))
      | .fault a _ => strandAddr e s a fun _ => .next s
      | .ok s f m => .next (pendAdd s e 1 (.sreg d (m ++ f)))

/-- A strand whose bundle waits in slot 1, as an issuer. -/
def waitIssue (s : State) (k : CoreId) (n : StrandId) (x : Strand) : Issue :=
  { who := .strand k n, place := none, k := k, team := x.team, ctx := teamCtx s x.team, away := false,
    wisn := BitVec.ofNat 64 x.clock, pc := tpcSlot x.pc 1, unit := 1, agent := 64 + n.val }

/-- JWAIT_WAKE: the join has been released or has failed (R287 to R289); a strand's bundle is tried again. -/
def execJwaitWake (who : AgentRef) (s : State) : Out :=
  match who with
  | .frag k f =>
    match fragAt (coreAt s k) f with
    | some { state := .wait (.jwait g d a) (.jwait ..), .. } => againOp s k f (.jwait g d a) g (warpJwait d a)
    | _ => .refused .notEnabled
  | .strand k n =>
    match strandAt (coreAt s k) n with
    | some x =>
      match x.stall with
      | some (.jwait va) =>
        let q := waitIssue s k n x
        let i := Instr.jwait always 0 0
        let still := match joinAddr s q i va with
          | .ok p => (match joinResult s q i p va with | .wait => true | .ok .. | .fault .. => false)
          | _ => false
        if still then .refused .notEnabled else .next (onStrand s k n fun y => { y with stall := none })
      | _ => .refused .notEnabled
    | none => .refused .notEnabled

/-- The issuer's membership of the join at a place: sel 5 of JQRY. -/
def membership (s : State) (team : Nat) (l : Loc) : W64 :=
  match memberOf s team with
  | some (j, i, m) => if l = .dev j.cell then BitVec.ofNat 64 (2 ^ 31 + 2 ^ 16 * memberCode m.state + i) else 0
  | none => 0

/-- JQRY's value; none while a line of the object is pending (R289). -/
def queryWord (s : State) (q : Issue) (l : Loc) (va : W64) (sel : BitVec 6) : Option (State × W64) :=
  if sel = 5 then some (s, membership s q.team l)
  else
    match liveJoin s l with
    | some j => some (s, joinWord j true sel.toNat)
    | none => (objectWord s q false (locPlus (0x40 + 8 * sel.toNat) l)).map fun r =>
        (seeWords r.1 q [va + BitVec.ofNat 64 (0x40 + 8 * sel.toNat)], r.2)

/-- JQRY: a snapshot (R289). -/
def execJqry (g : Guard) (d a : Reg) (sel : BitVec 6) (s : State) : Out :=
  asOp (.jqry g d a sel) g s
    (fun e s => once e s [a, a + 1] [d, d + 1] fun l =>
      let q := warpIssue s e
      warpAddr e s l (joinAddr s q e.i (readPair e l a)) fun p =>
        match queryWord s q p (readPair e l a) sel with
        | none => .next (uncount s e)
        | some (s, v) =>
          let s := writeLanes s e.k e.x.warp e.parts 1 fun _ => { regs := pairRes d v }
          .next (warpEnd (setScore s e.k e.f [d, d + 1] [] 1) e))
    fun e s =>
      let q := strandIssue s e
      strandAddr e s (joinAddr s q e.i (opA e a)) fun p =>
        match queryWord s q p (opA e a) sel with
        | none => strandStall s e .landing
        | some (s, v) => .next (pendAdd s e 1 (.sreg d v))

/-! ## Kills (R286) -/

/-- JOIN_DEADLINE_FLUSH: members of the join whose agents have all stopped are retracted; once DEADLINE ticks have passed
since the quorum point, the others are flushed where they stand and retracted too (R286, R290), and so are those that a stop of their
context kills (R274; log entry 83). -/
def execJoinDeadlineFlush (cell : Nat) (s : State) : Out :=
  match joinAt s cell with
  | none => .refused .notEnabled
  | some j =>
    let late := j.state != .opened && decide (j.qtick.toNat + joinDeadline j.desc ≤ s.tick)
    let ready := fun (t : Nat) =>
      match teamAt s t with
      | none => true
      | some tm => ((tm.status == .placed || tm.status == .record) && teamStopped s tm && s.reqs.all fun r => r.team != t)
    let is := (List.range j.members.length).filter fun i =>
      match j.members[i]? with
      | some m => m.state == .killing && (m.stop || late || (match m.team with | some t => ready t | none => true))
      | none => false
    if is.isEmpty then .refused .notEnabled else .next (is.foldl (fun s i => finishKill s cell i) s)

/-! ## Release and fill (R287) -/

/-- The members that are killed or cancelled, in order. -/
def lostMembers (j : Join) : List Nat :=
  (List.range (joinN j.desc)).filter fun i =>
    match j.members[i]? with
    | some m => m.state == .killed || m.state == .cancelled
    | none => true

/-- A quotient rounded once to FP32, with the rules of R36 for NaN and infinities. -/
def quotient (x y : Val) : W32 :=
  let neg := x.neg != y.neg
  let sign : W32 := if neg then 0x80000000 else 0
  match x, y with
  | .nan _, _ | _, .nan _ | .inf _, .inf _ => 0x7FC00000
  | .inf _, .fin .. => sign ||| 0x7F800000
  | .fin .., .inf _ => sign
  | .fin _ a ea, .fin _ b eb =>
    let sh := 64 + Nat.log2 b
    round32 (.fin neg (2 * (a * 2 ^ sh / b) + (if a * 2 ^ sh % b = 0 then 0 else 1)) (ea - eb - sh - 1))

/-- The fill factor: 1.0 under SUBSTITUTE and when WA is 0, and otherwise WT / WA (R287). -/
def fillFactor (j : Join) : W32 :=
  if joinFill j.desc = 2 || (val32 j.wa).isZero then 0x3F800000 else quotient (val32 j.wt) (val32 j.wa)

/-- The progress of a fill: the largest completion tick, the first address out of reach, and whether a page is waited
for. -/
structure Fills where
  s : State
  hz : Nat := 0
  lost : Option W64 := none
  wait : Bool := false

/-- A place of a fill's element for the bank ALUs, and its value; a peer's value is free. An update waits for an atomic that is between
its halves in the element's word (R207, R287). -/
def fillRead (s : State) (c : CtxId) (u : UnitRef) (acc : Access) (va : W64) (n : Nat) : Reach (State × Loc × Nat) :=
  if va.toNat / 4503599627370496 ≠ 0 then .dead va
  else
    match translateUnit s c u acc va.toNat with
    | .pager _ | .wait => .wait
    | .bad _ => .dead va
    | .ok l _ _ =>
      let held : Bool := match l with | .dev cell => linePending s (lineOf cell) || (acc == .write && halfDone s cell n) | _ => false
      if held then .wait
      else match locBytes s l n with
        | some bs => .ok (s, l, natLE bs)
        | none => let (s, bs) := freeBytes s n; .ok (s, l, natLE bs)

/-- One element updated: the value of the element, and the one it is combined with, rounded once to FTYPE. -/
def fillElem (j : Join) (r : Fills) (k : Nat) (other : Option W64) (f : Val → Val → Val) : Fills :=
  if r.wait then r
  else
    let n := joinElem j.desc
    let fmt := joinFmt j.desc
    let va := BitVec.ofNat 64 (descBits j.desc 0x18 0 64) + BitVec.ofNat 64 (n * k)
    let dead := fun (a : W64) => { r with lost := some (r.lost.getD a) }
    let put := fun (s : State) (y : Val) =>
      match fillRead s j.ctx (.join j.cell) .write va n with
      | .wait => { r with wait := true }
      | .dead a => dead a
      | .ok (s, l, x) =>
        match locPut s l (bytesLE n (roundTo fmt .rne (f (unpack fmt x) y)).1) with
        | some (s, w) => { r with s := s, hz := max r.hz w }
        | none => { r with s := s }
    match other with
    | none => put r.s (val32 (fillFactor j))
    | some a =>
      match fillRead r.s j.ctx (.join j.cell) .read a n with
      | .wait => { r with wait := true }
      | .dead a => dead a
      | .ok (s, _, x) => put s (unpack fmt x)

/-- The updates of a join's fill (R287). -/
def fillJoin (s : State) (j : Join) : Fills :=
  let count := descBits j.desc 0x20 0 32
  let n := joinElem j.desc
  match joinFill j.desc with
  | 1 =>
    if (val32 j.wa).isZero then { s := s }
    else (List.range count).foldl (fun r k => fillElem j r k none valMul) { s := s }
  | 2 =>
    (lostMembers j).foldl (fun r i =>
      (List.range count).foldl (fun r k =>
        let a := BitVec.ofNat 64 (descBits j.desc 0x28 0 64) + BitVec.ofNat 64 i * BitVec.ofNat 64 (descBits j.desc 0x30 0 64) +
          BitVec.ofNat 64 (n * k)
        fillElem j r k (some a) fun x y => valAdd .rne x (valMul (val32 (memberWeight j i)) y)) r) { s := s }
  | _ => { s := s }

/-- The join is released: F, RTICK, and its waiters may go on (R287). -/
def releaseJoin (s : State) (j : Join) : State :=
  joinCheck (modJoin s j.cell fun j => { j with state := .released, f := fillFactor j, rtick := BitVec.ofNat 64 s.tick }) j.cell

/-- JOIN_RELEASE: the fill is made; when TICK has passed its updates the join is released, or fails when an element was out
of reach (R287, R288). -/
def execJoinRelease (cell : Nat) (s : State) : Out :=
  match joinAt s cell with
  | none => .refused .notEnabled
  | some j =>
    if j.state != .quorum || j.busy.isSome || !membersAll j (fun _ => true) then .refused .notEnabled
    else
      match j.filled with
      | some (hz, ok) =>
        if !(hz < s.tick) then .refused .notEnabled
        else if ok then .next (releaseJoin s j)
        else .next (joinCheck (failJoin s cell 2 (BitVec.ofNat 64 (descBits j.desc 0x18 0 64))) cell)
      | none =>
        let r := fillJoin s j
        if r.wait then .refused .notEnabled
        else
          match r.lost with
          | some a =>
            if r.hz < s.tick then .next (joinCheck (failJoin r.s cell 2 a) cell)
            else .next (modJoin r.s cell fun j => { j with filled := some (r.hz, false) })
          | none =>
            if r.hz = 0 then .next (releaseJoin r.s j)
            else .next (modJoin r.s cell fun j => { j with filled := some (r.hz, true) })

/-! ## Retirement (R157, R283) -/

/-- A grid launched by a team has not retired. -/
def childrenLeft (s : State) (t : Nat) : Bool :=
  (s.grids.any fun g => g.parent == some t && !g.ended) ||
    (s.dies.toList.any fun d => d.children.any fun q => q.recs.any fun r => r.parent == t) ||
    s.ctxs.toList.any fun c => match c with | some x => x.spilled.any fun y => y.parent == t && !y.back | none => false

/-- A team's membership ends with it (R283). -/
def memberRetired (s : State) (cell i t : Nat) : State :=
  retireTeam (joinCheck (modMember s cell i fun m => { m with retired := true }) cell) t

/-- TEAM_RETIRE: a team with no live agent and no live child grid retires; a RUNNING or PLEDGED member arrives first, as by
JARR (R157, R283). -/
def execTeamRetire (t : Nat) (s : State) : Out :=
  match teamAt s t with
  | none => .refused .notEnabled
  | some tm =>
    if tm.status != .record || childrenLeft s t then .refused .notEnabled
    else
      match memberOf s t with
      | none => .next (retireTeam s t)
      | some (j, i, m) =>
        match m.state with
        | .running | .pledged | .unbound =>
          let quiet := s.reqs.all (fun r => r.team != t) && (tm.hz = 0 || decide (tm.hz < s.tick))
          if !quiet || j.busy.isSome then .refused .notEnabled
          else
            match commitMember s j.cell i .arrived with
            | .status s _ => .next (memberRetired s j.cell i t)
            | .commit s _ => .next s
            | .wait | .kill => .refused .notEnabled
        | .arrived =>
          match j.busy with
          | some (k, w) =>
            if k ≠ i then .next (memberRetired s j.cell i t)
            else if w < s.tick then .next (memberRetired (countMember s j.cell) j.cell i t)
            else .refused .notEnabled
          | none => .next (memberRetired s j.cell i t)
        | .killing => .next (finishKill s j.cell i)
        | .killed | .cancelled => .next (retireTeam s t)

end Sys2Proof.Machine
end

