-- ==== Sys2Proof/Machine/Migrate.lean ====
section
/-! DEFINITION. Warp migration (R370 to R376): MHOME, MIGR, the landing of a warp, and the wait for a landing slot. -/

namespace Sys2Proof.Machine

/-! ## MHOME (R370) -/

/-- The leaf entry of a global address, from a TLB or a walk; the pager is never started, and a pager-managed entry must keep the reserved
rules of R210 and R211 too (R370). -/
def leafEntry (s : State) (k : CoreId) (c : CtxId) (va : Nat) : Option W64 :=
  match tlbLookup s k c va with
  | some e => some e.pte
  | none =>
    match (ctxAt s c).map fun x => walk s x va with
    | some (.leaf pte _) => some pte
    | some (.pager pte _) => if pteLease pte = 3 || pteIL pte = 3 || !pteLeaf pte then none else some pte
    | some .bad | some .wait | none => none

/-- The walk of an address waits at an engine-pending line (R193). -/
def entryWaits (s : State) (k : CoreId) (c : CtxId) (va : Nat) : Bool :=
  (tlbLookup s k c va).isNone && ((ctxAt s c).map fun x => walk s x va) == some .wait

/-- The die of a DIE entry. -/
def entryDie (pte : W64) : Option DieId := if pteIL pte = 1 then some (Fin.ofNat 4 (pteD pte)) else none

/-- MHOME: the die of each lane's page, or all ones (R370). -/
def execMhome (g : Guard) (d a : Reg) (s : State) : Out :=
  warpOp (.mhome g d a) g s fun e s =>
    match regTrap e [a, a + 1] [d] with
    | some t => warpFault s e t
    | none =>
      let q := warpIssue s e
      let as := laneAccs e a 0 1
      match as.filter fun x => x.va.toNat / 4503599627370496 ≠ 0 with
      | x :: xs => warpFault s e (trapMemv x.va 0 (accLanes (x :: xs)) q.unit)
      | [] =>
        let entry := fun (x : Acc) => leafEntry s e.k q.ctx x.va.toNat
        if as.any fun x => entryWaits s e.k q.ctx x.va.toNat then .next (uncount s e)
        else
        let s := (as.filter fun x => (entry x).isSome).foldl (fun s x => noteWalk s e.k q.ctx x.va.toNat) s
        let go := fun (s : State) (e : WarpEnv) =>
          let s := writeLanes s e.k e.x.warp e.parts 1 fun l =>
            let pte := (as.find? fun x => x.lane == l).bind entry
            { regs := [(d, match pte.bind entryDie with | some t => BitVec.ofNat 32 t.val | none => 0xFFFFFFFF#32)] }
          warpEnd (setScore s e.k e.f [d] [] 1) e
        match as.filter fun x => (entry x).isNone with
        | [] => .next (go s e)
        | bad =>
          match faultSplit s e q { bad := bad.map fun x => (x, 4) } with
          | (s, none) => .next s
          | (s, some e') => .next (go s e')

/-! ## MIGR (R371 to R375) -/

/-- Every fragment of a warp place. -/
def placeFrags (s : State) (k : CoreId) (w : WarpIx) : List (FragId × Frag) :=
  (liveFrags (coreAt s k) w).filterMap fun f => (fragAt (coreAt s k) f).map fun x => (f, x)

/-- A fragment's MIGR is under way, so the others of its warp are suspended (R373). -/
def migrating (s : State) (k : CoreId) (w : WarpIx) : Bool :=
  migrates (coreAt s k) w

/-- What keeps a warp from migrating: bit 0 tiles, bit 1 loads and waits (R298, R373). -/
def migrBlocked (s : State) (k : CoreId) (f : FragId) (w : WarpIx) (team : Nat) : W64 :=
  let h := holderWarp w
  let tiles := w.val < 64 && (match seatAt (coreAt s k) team with
    | some x => x.tiles.any fun y => y.owner == ownHeld h || y.owner == ownOffered h
    | none => false)
  let others := (placeFrags s k w).filter fun p => p.1 != f
  let taking := others.any fun p => match p.2.state with | .wait _ (.take _) => true | _ => false
  let loads := (s.reqs.any fun r => r.place == some (k, w) && returnsValue r) ||
    others.any fun p => match p.2.state with
      | .parked _ => true
      | .wait _ (.take _) | .wait _ .copyQueue => false
      | .wait .. => true
      | .ready | .convw | .barw .. | .fragw .. | .halted .. | .stopped => false
  BitVec.ofNat 64 ((tiles || taking).toNat + 2 * loads.toNat)

/-- The die that a MIGR targets: the home of the address's page, or the origin (R372); none when the walk fails. -/
def migrTarget (s : State) (k : CoreId) (c : CtxId) (w : Warp) (va : Nat) : Option DieId :=
  (leafEntry s k c va).map fun pte => (entryDie pte).getD (coreDie (match w.away with | some o => o.core | none => k))

/-- The free landing slot that a die gives a warp with `n` fragments, searched from a core on (R374). -/
def landingSlot (s : State) (d : DieId) (k : CoreId) (n : Nat) : Option (CoreId × WarpIx) :=
  ((List.range 64).map fun i => (Fin.ofNat 256 (64 * d.val + (k.val + i) % 64) : CoreId)).findSome? fun k =>
    let c := coreAt s k
    let pool := (allFrags.filter fun f => 64 ≤ f.val && (fragAt c f).isNone).length
    if usedTiles s k + 3 ≤ 512 && n ≤ pool then
      (allWarps.find? fun w => 64 ≤ w.val && (warpAt c w).isNone).map fun w => (k, w)
    else none

/-- A warp goes back to its origin die. -/
def migrHome (x : Warp) (d : DieId) : Bool := x.away.any fun o => coreDie o.core == d

/-- Where a migrating warp goes: its origin slot, once the origin's home entry and pool can take its fragments (DESIGN CHOICE, log
entry 91), or a landing slot (R373, R374). -/
def migrDest (s : State) (k : CoreId) (w : WarpIx) (x : Warp) (d : DieId) : Option (CoreId × WarpIx) :=
  match x.away with
  | some o =>
    let n := (liveFrags (coreAt s k) w).length
    if coreDie o.core = d then (if n ≤ (freeEntries (coreAt s o.core) o.ix).length then some (o.core, o.ix) else none)
    else landingSlot s d k n
  | none => landingSlot s d k (liveFrags (coreAt s k) w).length

/-- A cycle of one core's clock as the same distance on another's. -/
def shiftCycle (from_ toward n : Nat) : Nat := toward + n - from_

/-- A fragment as it is carried to a place whose core's clock differs (R373). -/
def carryFrag (from_ toward : Nat) (w : WarpIx) (x : Frag) : Frag :=
  { x with
    warp := w, lastSel := toward, score := x.score.map fun p => (p.1, shiftCycle from_ toward p.2),
    state := match x.state with
      | .barw i n t => .barw i n (shiftCycle from_ toward t)
      | .fragw t n => .fragw (shiftCycle from_ toward t) n
      | .wait _ .copyQueue => .ready
      | st => st }

/-- The barriers of a team whose phase is open. -/
def openPhases (s : State) (t : Nat) : BitVec 16 :=
  match teamAt s t with
  | some tm => (List.finRange 16).foldl (fun m i => if tm.bars[i].phase then m ||| (1#16 <<< i.val) else m) 0
  | none => 0

/-- What names a warp's agents after it has moved: requests and copies still under way, and a debugger's command (R318, R341). -/
def moveIssuer (s : State) (k : CoreId) (w : WarpIx) (k' : CoreId) (w' : WarpIx) (ids : List (FragId × FragId)) : State :=
  let who := fun (a : AgentRef) => match a with
    | .frag c f => if c == k then ((ids.find? fun p => p.1 == f).map fun p => AgentRef.frag k' p.2).getD a else a
    | a => a
  let place := fun (p : Option (CoreId × WarpIx)) => if p == some (k, w) then some (k', w') else p
  let req := fun (q : CopyReq) => if q.place == some (k, w) then { q with who := who q.who, place := place q.place } else q
  let s := followTarget { s with reqs := s.reqs.map fun r => if r.place == some (k, w) then { r with who := who r.who, place := place r.place } else r } who
  modCore s k fun c => { c with copyQ := c.copyQ.map req, copies := c.copies.map fun x => { x with req := req x.req } }

/-- A warp shipped from one place to another: fragments by their lowest lane, into the home entry of an origin slot and
then the pool (R373, R374). One that comes back counts at a barrier from the next phase on (R144). -/
def shipWarp (s : State) (k : CoreId) (w : WarpIx) (k' : CoreId) (w' : WarpIx) : State :=
  match warpAt (coreAt s k) w with
  | none => s
  | some x =>
    let fs := placeFrags s k w
    let low := fun (p : FragId × Frag) => (leadLane p.2.mask).val
    let sorted := allLanes.flatMap fun l => fs.filter fun p => low p == l.val
    let c := fs.foldl (fun c p => setFrag c p.1 none) (coreAt s k)
    let back := x.away.any fun o => o.core == k' && o.ix == w'
    let gone := x.away.isNone
    let c := if gone then setWarp c w (some { x with gone := true }) else setWarp c w none
    let s := setCore s k c
    let c := coreAt s k'
    let origin : Origin := x.away.getD { core := k, ix := w }
    let y := { x with sel := none, born := c.cycle, away := if back then none else some origin, gone := false,
                      uncounted := if back then openPhases s x.team else 0 }
    let ids := (freeEntries c w').take sorted.length
    let s := moveIssuer s k w k' w' ((sorted.map (·.1)).zip ids)
    let c := coreAt s k'
    let y := { y with haltReq := x.haltReq.filterMap fun p =>
      ((sorted.zip ids).find? fun q => q.1.1 == p.1).map fun q => (q.2, p.2) }
    let c := setWarp c w' (some y)
    setCore s k' ((sorted.zip ids).foldl (fun c p => setFrag c p.2 (some (carryFrag (coreAt s k).cycle c.cycle w' p.1.2))) c)

/-- A MIGR's end in its fragment: Pd in the lanes that take part, and the next op (R373). -/
def migrEnd (s : State) (k : CoreId) (f : FragId) (i : Instr) (ok : Bool) : State :=
  match i with
  | .migr g pd _ =>
    match againEnv i g k f s with
    | some e =>
      let s := writeLanes s k e.x.warp e.parts 2 fun _ => { preds := [(pd, ok)] }
      warpEnd (setScore s k f [] [pd] 2) e
    | none => s
  | _ => s

/-- A kill ends the MIGR and the whole warp (R373). -/
def stopWarp (s : State) (e : WarpEnv) : State :=
  (liveFrags (coreAt s e.k) e.x.warp).foldl (fun s f => onFrag s e.k f fun x => { x with state := .stopped }) s

/-- A warp's wait for its accesses is over, for every fragment (R373). -/
def migrQuiet (s : State) (k : CoreId) (w : WarpIx) : Bool :=
  (liveFrags (coreAt s k) w).all fun f => waitDone s (.frag k f) .dev (owned s (.frag k f))

/-- MIGR: its checks, and the start of its wait (R371 to R373). -/
def execMigr (g : Guard) (pd : Pred) (a : Reg) (s : State) : Out :=
  warpOp (.migr g pd a) g s fun e s => once e s [a, a + 1] [] fun l =>
    let q := warpIssue s e
    let va := readPair e l a
    let prot := match teamGrid s e.w.team with | some g => teamProt g | none => false
    if va.toNat / 4503599627370496 ≠ 0 then warpFault s e (trapMemv va 0 (laneBit l) q.unit)
    else if memberRunning s e.w.team then warpFault s e (trapProv e.i false q.unit)
    else if entryWaits s e.k q.ctx va.toNat then .next (uncount s e)
    else
      match migrTarget s e.k q.ctx e.w va.toNat with
      | none => warpFault s e (trapMemv va 4 (laneBit l) q.unit)
      | some d =>
        let s := noteWalk s e.k q.ctx va.toNat
        if d = coreDie e.k || prot then .next (migrEnd s e.k e.f e.i (d = coreDie e.k))
        else if warpKill s e then .next (stopWarp s e)
        else
          let syn := migrBlocked s e.k e.f e.x.warp e.w.team
          if syn ≠ 0 then warpFault s e { cls := .migx, synd := syn }
          else if migrQuiet s e.k e.x.warp then waitFrag s e (.landing d s.tick) true
          else waitFrag s e (.release .dev) false

/-- MIGRATION_LANDING: a place is free; the warp is shipped, and its fragments go on there (R373, R374). -/
def execMigrationLanding (k : CoreId) (f : FragId) (s : State) : Out :=
  match fragAt (coreAt s k) f with
  | some { state := .wait i (.landing d _), warp := w, .. } =>
    match warpAt (coreAt s k) w with
    | none => .refused .notEnabled
    | some x =>
      match migrDest s k w x d with
      | some (k', w') => .next (barriersCheck (shipWarp (migrEnd s k f i true) k w k' w') x.team)
      | none => .refused .notEnabled
  | _ => .refused .notEnabled

/-- LANDING_SLOT_TIMEOUT: no landing slot came free in 10,000 ticks; Pd is false and the warp goes on in place (R373). -/
def execLandingSlotTimeout (k : CoreId) (f : FragId) (s : State) : Out :=
  match fragAt (coreAt s k) f with
  | some { state := .wait i (.landing d since), warp := w, .. } =>
    match warpAt (coreAt s k) w with
    | none => .refused .notEnabled
    | some x =>
      if since + 10000 ≤ s.tick && !migrHome x d && (migrDest s k w x d).isNone then .next (migrEnd s k f i false) else .refused .notEnabled
  | _ => .refused .notEnabled

end Sys2Proof.Machine
end

