-- ==== Sys2Proof/Machine/Waits.lean ====
section
/-! DEFINITION. The ends of waits (R18 to R23, R137, R198, R227, R313, R353), and ILLOP (R64). -/

namespace Sys2Proof.Machine

/-! ## Results (R18, R19, R23) -/

/-- A pending result written to its place. -/
def landPend (s : State) (k : CoreId) (n : StrandId) (p : Pend) : State :=
  match p.dst with
  | .sreg r v => onStrand s k n fun x => { x with s := x.s.set r.toFin v, poison := x.poison &&& ~~~(1#64 <<< r.toNat) }
  | .pred i v => onStrand s k n fun x => { x with p := predSet x.p i v }
  | .twb v => onStrand s k n fun x => { x with twb := v }
  | .mxcfg v => onStrand s k n fun x => { x with mxcfg := v }
  | .tile t _ _ | .bytes t _ _ =>
    match strandAt (coreAt s k) n with
    | some x => modCore s k fun c => modTile c x.team t fun y => (pendTile t y p).getD y
    | none => s

/-- A result lands: it is due by the strand's bundle clock and physically there, and so is every earlier one of its
destination (R19, R23). -/
def landsNow (x : Strand) (now : Nat) (p : Pend) : Bool :=
  p.due ≤ x.clock && p.arrive ≤ now && x.pend.all fun q => !(sameDst q p && q.due ≤ p.due) || q.arrive ≤ now

/-- The results of a strand that have landed. -/
def landDue (s : State) (k : CoreId) (n : StrandId) : State :=
  match strandAt (coreAt s k) n with
  | none => s
  | some x =>
    let now := (coreAt s k).cycle
    let due := landsNow x now
    let s := onStrand s k n fun y => { y with pend := y.pend.filter fun p => !due p }
    (landOrder (x.pend.filter due)).foldl (fun s p => landPend s k n p) s

/-- RESULT_LANDING: the results that are due land (R19). -/
def execResultLanding (k : CoreId) (n : StrandId) (s : State) : Out :=
  match strandAt (coreAt s k) n with
  | none => .refused .notEnabled
  | some x =>
    if x.pend.any (landsNow x (coreAt s k).cycle) then .next (landDue s k n)
    else .refused .notEnabled

/-! ## Stalls and timeouts -/

/-- UNIT_STALL_END: the unit is physically free (R21, R148). -/
def execUnitStallEnd (k : CoreId) (n : StrandId) (s : State) : Out :=
  match strandAt (coreAt s k) n with
  | some { stall := some (.unit slot), .. } =>
    let c := coreAt s k
    if c.unitFree[(Fin.ofNat 4 (slot.val - 2))] ≤ c.cycle then .next (onStrand s k n fun x => { x with stall := none })
    else .refused .notEnabled
  | _ => .refused .notEnabled

/-- FRAGX_TIMEOUT: 4096 cycles in FRAGW; the op traps (R137, R298). -/
def execFragxTimeout (k : CoreId) (f : FragId) (s : State) : Out :=
  match fragAt (coreAt s k) f with
  | some { state := .fragw since groups, warp := w, .. } =>
    if (coreAt s k).cycle < since + 4096 then .refused .notEnabled
    else
      let live := (liveFrags (coreAt s k) w).length
      .next (warpTrap s k f { cls := .fragx, synd := BitVec.ofNat 64 (groups % 16 + 2 ^ 8 * (live % 16)) })
  | _ => .refused .notEnabled

/-- RDV_RELEASE: no partner that was behind is waited for any more (R313). -/
def execRdvRelease (k : CoreId) (n : StrandId) (s : State) : Out :=
  match strandAt (coreAt s k) n with
  | some { state := .rdv m [], team := t, .. } =>
    .next (passRdv (onStrand s k n fun x => { x with state := .ready, behind := false }) t k n (some m))
  | _ => .refused .notEnabled

/-- INSTRUCTION_FETCH_ARRIVAL: the fragment's next op has reached the instruction cache (R353). -/
def execInstructionFetchArrival (k : CoreId) (f : FragId) (s : State) : Out :=
  match fragAt (coreAt s k) f with
  | some { fetched := false, .. } => .next (onFrag s k f fun x => { x with fetched := true })
  | _ => .refused .notEnabled

/-- ILLOP: a word that is not an instruction reaches issue (R64, R298). -/
def execIllop (w : W32) (s : State) : Out :=
  match s.issuer with
  | .none => .refused .noIssuer
  | .frag k f =>
    match fragAt (coreAt s k) f with
    | none => .refused .noIssuer
    | some x =>
      match warpAt (coreAt s k) x.warp with
      | none => .refused .noIssuer
      | some y =>
        let s := onFrag (onWarp s k x.warp fun w => { w with wisn := w.wisn + 1 }) k f fun x => { x with num := y.wisn }
        .next (warpTrap s k f (trapIllop w 8))
  | .strand k n slot => .next (slotFault s k n slot (trapIllop w slot.val))

/-! ## RELEASE_SEND (R198, R227) -/

/-- A fragment's waiting op is tried again; not enabled when it waits on as before. -/
def retryOp (s : State) (k : CoreId) (f : FragId) (i : Instr) (g : Guard) (body : WarpEnv → State → Out) : Out :=
  withSel s k f fun s =>
    match fragAt (coreAt s k) f, againEnv i g k f s with
    | some x, some e =>
      match body e s with
      | .next t => if (fragAt (coreAt t k) f).map (·.state) = some x.state then .refused .notEnabled else .next t
      | r => r
    | _, _ => .refused .notEnabled

/-- The end of a JNEW in a fragment (R271). -/
def warpJnewEnd (d : Reg) (c : WaitFor) (e : WarpEnv) (s : State) : Out :=
  let q := warpIssue s e
  match c with
  | .jnew cell va desc wt ws after =>
    if waitDone s q.who .dev (owned s q.who) && decide (after < s.tick) then
      let (s, n) := jnewEnd s q.ctx cell va desc wt ws
      .next (warpStatus s e d n)
    else .refused .notEnabled
  | _ => .refused .notEnabled

/-- The member's arrival or pledge is still to be counted by its join unit. -/
def uncountedMember (s : State) (team : Nat) : Option Nat :=
  match memberOf s team with
  | some (j, i, _) => if j.busy.any fun b => b.1 == i then some j.cell else none
  | none => none

/-- The commit of an arrival or pledge is over, and counted (R282). -/
def commitOver (s : State) (team after : Nat) : Option State :=
  if after < s.tick then (memberOf s team).map fun _ => match uncountedMember s team with
    | some cell => countMember s cell
    | none => s
  else none

/-- A halted fragment's arrival or pledge is counted when its time comes, since join units continue; its wait ends when it resumes
(R347). -/
def haltedCommit (k : CoreId) (w : WarpIx) (after : Nat) (s : State) : Out :=
  match (warpAt (coreAt s k) w).bind fun x => uncountedMember s x.team with
  | some cell => if after < s.tick then .next (countMember s cell) else .refused .notEnabled
  | none => .refused .notEnabled

/-- The wait of a fragment's release is over: its op is performed (R198, R262, R271, R280, R281, R373). -/
def releaseFrag (k : CoreId) (f : FragId) (i : Instr) (c : WaitFor) (s : State) : Out :=
  match i, c with
  | .st g d a sc ord w, .release _ => retryOp s k f i g (warpStore d a sc ord w 0)
  | .sto g d a sc ord w ext, .release _ => retryOp s k f i g (warpStore d a sc ord w (ext.signExtend 64))
  | .rcmt g a b, .release _ => retryOp s k f i g (warpRingRel a [b, b + 1] fun e l => .commit (readPair e l b))
  | .rrel g a, .release _ => retryOp s k f i g (warpRingRel a [] fun _ _ => .release)
  | .launch g d _, .launch raw =>
    retryOp s k f i g fun e s =>
      if waitDone s (.frag k f) .dev (owned s (.frag k f)) then warpEnqueue d raw s.tick e s else .refused .notEnabled
  | .launch g d _, .spill raw since => retryOp s k f i g (warpEnqueue d raw since)
  | .jnew g d _ _, c => retryOp s k f i g (warpJnewEnd d c)
  | .jarr g d, .release _ => retryOp s k f i g (warpJarr d)
  | .jarr g d, .arrive after =>
    retryOp s k f i g fun e s =>
      match commitOver s e.w.team after with
      | some s => .next (warpStatus s e d 0)
      | none => .refused .notEnabled
  | .irrev g, .release _ => retryOp s k f i g warpIrrev
  | .irrev g, .arrive after =>
    retryOp s k f i g fun e s =>
      match commitOver s e.w.team after with
      | some s => .next (warpEnd s e)
      | none => .refused .notEnabled
  | .give g a b, .release _ => retryOp s k f i g (warpGive a b)
  | .migr g _ a, .release _ =>
    retryOp s k f i g fun e s =>
      if entryWaits s k (warpIssue s e).ctx (readPair e (leadLane e.parts) a).toNat then .refused .notEnabled
      else
      match migrTarget s k (warpIssue s e).ctx e.w (readPair e (leadLane e.parts) a).toNat with
      | some d => if migrQuiet s k e.x.warp then waitFrag s e (.landing d s.tick) true else .refused .notEnabled
      | none => .next (warpTrap (onFrag s k f fun x => { x with state := .ready }) k f
          (trapMemv (readPair e (leadLane e.parts) a) 4 (laneBit (leadLane e.parts)) 8))
  | _, _ => .refused .notEnabled

/-- What a strand's held op does when its wait is over (R262, R271, R280, R281). -/
def releaseHold (k : CoreId) (n : StrandId) (x : Strand) (h : Hold) (s : State) : Out :=
  let q := holdIssue s k n x h
  let quiet := marksQuiet s h.mark
  let hold := fun (s : State) (c : WaitFor) => Host.Outcome.next (onStrand s k n fun y =>
    { y with holds := y.holds.map fun g => if g = h then { g with cond := c } else g })
  let end_ := fun (s : State) (d : Option (Reg × W64)) => Host.Outcome.next (endHold s k n h d)
  let unit := fun (r : UnitRes) (d : Option Reg) =>
    match r with
    | .wait => .refused .notEnabled
    | .kill => .next (killStrand s k n)
    | .status s v => end_ s (d.map fun r => (r, BitVec.ofNat 64 v))
    | .commit s w => hold s (.arrive w)
  match h.i, h.cond with
  | .launch _ d _, .launch raw =>
    if quiet then
      match enqueue s q raw with
      | .done s v => end_ s (some (d, BitVec.ofNat 64 v))
      | .full | .fill => hold s (.spill raw s.tick)
    else .refused .notEnabled
  | .launch _ d _, .spill raw since =>
    match enqueue s q raw with
    | .done s v => end_ s (some (d, BitVec.ofNat 64 v))
    | .fill => if since = s.tick then .refused .notEnabled else hold s (.spill raw s.tick)
    | .full => .refused .notEnabled
  | .jnew _ d _ _, .jnew cell va desc wt ws after =>
    if quiet && decide (after < s.tick) then
      let (s, v) := jnewEnd s q.ctx cell va desc wt ws
      end_ s (some (d, BitVec.ofNat 64 v))
    else .refused .notEnabled
  | .jarr _ d, .release _ => unit (jarrDo s q) (some d)
  | .irrev _, .release _ => unit (irrevDo s q) none
  | .jarr _ d, .arrive after =>
    match commitOver s x.team after with
    | some s => end_ s (some (d, 0))
    | none => .refused .notEnabled
  | .irrev _, .arrive after =>
    match commitOver s x.team after with
    | some s => end_ s none
    | none => .refused .notEnabled
  | _, _ => .refused .notEnabled

/-- A strand's release store or copy request whose wait is over is sent (R198, R227). -/
def releaseReq (k : CoreId) (n : StrandId) (s : State) : Out :=
  let who := AgentRef.strand k n
  match firstWait s who fun r => match r.op with | .fence .. => false | _ => true with
  | none => .refused .notEnabled
  | some (r, before) =>
    match r.rel with
    | none => .refused .notEnabled
    | some sc =>
      if waitDone s who sc before then .next (trySend (modReq s r.id fun x => { x with rel := none }) r.id) else .refused .notEnabled

/-- RELEASE_SEND: the wait of R198 that comes before an agent's op is over, and the op is performed or sent. -/
def execReleaseSend (who : AgentRef) (s : State) : Out :=
  match who with
  | .frag k f =>
    match fragAt (coreAt s k) f with
    | some { state := .wait i c, .. } => releaseFrag k f i c s
    | some { state := .halted _ (.wait _ (.arrive after)), warp := w, .. } => haltedCommit k w after s
    | _ => .refused .notEnabled
  | .strand k n =>
    match strandAt (coreAt s k) n with
    | none => .refused .notEnabled
    | some x =>
      let tried := x.holds.findSome? fun h => match releaseHold k n x h s with | .next t => some (Host.Outcome.next t) | _ => none
      tried.getD (releaseReq k n s)

end Sys2Proof.Machine
end

