-- ==== Sys2Proof/Machine/Save.lean ====
section
/-! DEFINITION. Pre-emption (R290, R322 to R328): the choice, the flush of a team, save blocks, save and restore. -/

namespace Sys2Proof.Machine

/-! ## Bytes of a context's memory -/

/-- Bytes written by a unit from an address on, line by line; what is out of reach is left. -/
def unitPut (c : CtxId) : Nat → State → W64 → List Byte → State
  | 0, s, _, _ => s
  | _, s, _, [] => s
  | n + 1, s, va, bs =>
    let k := 128 - va.toNat % 128
    let s := match unitWrite s c va (bs.take k) with | some (s, _) => s | none => s
    unitPut c n s (va + BitVec.ofNat 64 k) (bs.drop k)

/-- Bytes read by a unit from an address on, line by line. -/
def unitGet (s : State) (c : CtxId) : Nat → W64 → Nat → Option (List Byte)
  | 0, _, n => if n = 0 then some [] else none
  | f + 1, va, n =>
    if n = 0 then some []
    else
      let k := min n (128 - va.toNat % 128)
      match unitRead s c va k, unitGet s c f (va + BitVec.ofNat 64 k) (n - k) with
      | some a, some b => some (a ++ b)
      | _, _ => none

/-- A part of a save block: an offset and its bytes. -/
abbrev Part := Nat × List Byte

/-- The address of a save block (R389). -/
def blockBase (s : State) (c : CtxId) (n : Nat) : W64 :=
  match ctxAt s c with | some x => x.savebase + BitVec.ofNat 64 (0x200000 * n) | none => 0

/-- Parts written to a save block. -/
def putParts (s : State) (c : CtxId) (n : Nat) (ps : List Part) : State :=
  ps.foldl (fun s p => unitPut c (p.2.length + 1) s (blockBase s c n + BitVec.ofNat 64 p.1) p.2) s

/-- A number of a save block; the given one when it cannot be read. -/
def blockNat (s : State) (c : CtxId) (n off len old : Nat) : Nat :=
  match unitGet s c (len + 1) (blockBase s c n + BitVec.ofNat 64 off) len with
  | some bs => natLE bs
  | none => old

/-- What reads a save block or a debug access window: the number at an offset, of a length, given the number as the machine
has it. -/
abbrev Reader := Nat → Nat → Nat → Nat

/-- A 64-bit word through a reader. -/
def readWord (rd : Reader) (off : Nat) (old : W64) : W64 := BitVec.ofNat 64 (rd off 8 old.toNat)

/-! ## The strand state (R327) -/

/-- A word as a part. -/
def wordPart (off : Nat) (v : W64) : Part := (off, bytesLE 8 v.toNat)

/-- The loop stack, outermost entry first, and LDEPTH. -/
def loopParts (off : Nat) (ls : List LoopEntry) : List Part :=
  ((ls.reverse.zip (List.range 4)).flatMap fun p =>
    [wordPart (off + 24 * p.2) p.1.start, wordPart (off + 24 * p.2 + 8) p.1.stop, wordPart (off + 24 * p.2 + 16) p.1.count]) ++
    [wordPart (off + 0x60) (BitVec.ofNat 64 ls.length)]

/-- The loop stack of a block: LDEPTH entries; one that was not there is 0 but for what the block gives it. -/
def readLoops (rd : Reader) (off : Nat) (old : List LoopEntry) : List LoopEntry :=
  ((List.range (min 4 (rd (off + 0x60) 8 old.length))).map fun i =>
    let e := old.reverse.getD i { start := 0, stop := 0, count := 0 }
    { start := readWord rd (off + 24 * i) e.start, stop := readWord rd (off + 24 * i + 8) e.stop,
      count := readWord rd (off + 24 * i + 16) e.count : LoopEntry }).reverse

/-- The pending S and predicate writes of a strand, in order of due clock. -/
def flightRegs (x : Strand) : List Pend := x.pend.filter fun p => match p.dst with | .sreg .. | .pred .. => true | _ => false
/-- The pending tile writes of a strand, in order of due clock. -/
def flightTiles (x : Strand) : List Pend := x.pend.filter fun p => match p.dst with | .tile .. | .bytes .. => true | _ => false

/-- A flight S entry. -/
def flightParts (off : Nat) (b : Nat) (p : Option Pend) : List Part :=
  match p with
  | some { dst := .sreg r v, due := d, .. } => [wordPart off v, wordPart (off + 8) (BitVec.ofNat 64 (2 ^ 48 * r.toNat + (d - b)))]
  | some { dst := .pred i v, due := d, .. } =>
    [wordPart off (BitVec.ofNat 64 v.toNat), wordPart (off + 8) (BitVec.ofNat 64 (2 ^ 56 + 2 ^ 48 * i.toNat + (d - b)))]
  | _ => [wordPart (off + 8) (BitVec.ofNat 64 (0xFF * 2 ^ 56))]

/-- The tile image of a pending tile write; scale bytes stand at their offset. -/
def flightImage (p : Pend) : TileData :=
  match p.dst with
  | .tile _ _ v => v
  | .bytes _ off bs => tilePut 0 off bs
  | _ => 0

/-- A flight tile descriptor and its tile. -/
def flightTileParts (b : Nat) (i : Nat) (p : Pend) : List Part :=
  let num := match p.dst with | .tile t _ _ => t | .bytes t _ _ => t + 2 ^ 63 | _ => 0
  [wordPart (0x100 + 0x6C0 + 16 * i) (BitVec.ofNat 64 num), wordPart (0x100 + 0x6C0 + 16 * i + 8) (BitVec.ofNat 64 (p.due - b)),
   (0x15000 + 2048 * i, bytesLE 2048 (flightImage p).toNat)]

/-- The words of a replay record (R327). -/
def replayParts (i : Nat) (r : Option Replay) : List Part :=
  let off := 0x100 + 0x2C0 + 32 * i
  match r with
  | some q => [wordPart off q.a, wordPart (off + 8) q.b, wordPart (off + 16) q.d, wordPart (off + 24) (BitVec.ofNat 64 (q.g.toNat + 2))]
  | none => [wordPart (off + 24) 0]

/-- The registers of a strand or of a snapshot, in the order of +0x000 to +0x290. -/
def regParts (off : Nat) (s : Vector W64 64) (p : BitVec 8) (pc : W64) (clock : Nat) (twb : BitVec 9) (mxcfg ctl : W64)
    (loops : List LoopEntry) : List Part :=
  ((s.toList.zip (List.range 64)).map fun q => wordPart (off + 8 * q.2) q.1) ++
    [wordPart (off + 0x200) (0#56 ++ (p &&& 0xFE#8)), wordPart (off + 0x208) pc, wordPart (off + 0x210) (BitVec.ofNat 64 clock),
     wordPart (off + 0x218) (0#55 ++ twb), wordPart (off + 0x220) mxcfg, wordPart (off + 0x228) ctl] ++ loopParts (off + 0x230) loops

/-- The control word of a strand: rotation pointer, stopped, done mask, reporting slot, and the cause of a halt (R342). -/
def strandCtl (x : Strand) : W64 :=
  let halt := match x.state with | .halted c _ => c | _ => 0
  let still := match x.state with | .stopped | .halted .. => true | _ => false
  BitVec.ofNat 64 (x.nxt.toNat + 2 ^ 8 * still.toNat + 2 ^ 16 * x.done.toNat + 2 ^ 24 * (x.trap.pc.toNat % 8) +
    2 ^ 28 * halt)

/-- The segment word of a strand. -/
def segWord (x : Strand) : W64 :=
  BitVec.ofNat 64 (x.segOpen.toNat + 2 * x.rewound.toNat + 4 * x.behind.toNat + 2 ^ 8 * x.undo.length + 2 ^ 16 * (queueLines x.queue).length)

/-- The undo log and its tiles, as they are used live (R311, R326). -/
def undoParts (x : Strand) : List Part :=
  (List.range 16).flatMap fun i =>
    match x.undo[i]? with
    | some (t, y) => [(0x8000 + 4 * i, bytesLE 4 (t + 2 ^ 31)), (0xD000 + 2048 * i, bytesLE 2048 y.data.toNat)]
    | none => [(0x8000 + 4 * i, bytesLE 4 0)]

/-- A line of the store queue: its mask and its bytes, the last store to a byte standing. -/
def queueLine (qs : List SegStore) (line : Nat) : Nat × LineData :=
  qs.foldl (fun r q =>
    (q.data.zip (List.range q.data.length)).foldl (fun r p =>
      let a := q.va.toNat + p.2
      if a / 128 = line then
        let i := a % 128
        let hole : LineData := ~~~(BitVec.ofNat 1024 (255 * 2 ^ (8 * i)))
        (r.1 ||| 2 ^ i, (r.2 &&& hole) ||| BitVec.ofNat 1024 (p.1.toNat * 2 ^ (8 * i)))
      else r) r) (0, 0)

/-- The store queue, as it is used live (R311, R326). -/
def queueParts (x : Strand) : List Part :=
  ((queueLines x.queue).zip (List.range 64)).flatMap fun p =>
    let (mask, data) := queueLine x.queue p.1
    let off := 0x9000 + 256 * p.2
    [wordPart off (BitVec.ofNat 64 (128 * p.1)), (off + 8, bytesLE 16 mask), (off + 0x80, bytesLE 128 data.toNat)]

/-- The strand's parts of a save block. -/
def strandParts (x : Strand) : List Part :=
  regParts 0x100 x.s x.p x.pc x.clock x.twb x.mxcfg (strandCtl x) x.loops ++
    [wordPart (0x100 + 0x298) (segWord x), wordPart (0x100 + 0x2A0) (match x.snap with | some q => q.pc | none => 0)] ++
    ((x.replay.toList.zip (List.range 8)).flatMap fun p => replayParts p.2 p.1) ++
    ((List.range 48).flatMap fun i => flightParts (0x100 + 0x3C0 + 16 * i) x.clock (flightRegs x)[i]?) ++
    (((flightTiles x).zip (List.range 16)).flatMap fun p => flightTileParts x.clock p.2 p.1) ++
    (match x.snap with
      | some q => regParts (0x100 + 0x7C0) q.s q.p q.pc q.clock q.twb q.mxcfg (BitVec.ofNat 64 q.nxt.toNat) q.loops
      | none => []) ++ undoParts x ++ queueParts x

/-- A replay record as its block holds it. -/
def readReplay (rd : Reader) (i : Nat) (r : Option Replay) : Option Replay :=
  r.map fun q =>
    let off := 0x100 + 0x2C0 + 32 * i
    { q with a := readWord rd off q.a, b := readWord rd (off + 8) q.b, d := readWord rd (off + 16) q.d,
             g := (readWord rd (off + 24) (BitVec.ofNat 64 q.g.toNat)).getLsbD 0 }

/-- The S or predicate write that flight entry i of a block holds; none when it is unused. -/
def readFlightReg (rd : Reader) (b : Nat) (x : Strand) (i : Nat) : Option Pend :=
  let off := 0x100 + 0x3C0 + 16 * i
  let old := (flightRegs x)[i]?
  let (v0, w0) := match old with
    | some { dst := .sreg r v, due := d, .. } => (v, BitVec.ofNat 64 (2 ^ 48 * r.toNat + (d - x.clock)))
    | some { dst := .pred q v, due := d, .. } => (BitVec.ofNat 64 v.toNat, BitVec.ofNat 64 (2 ^ 56 + 2 ^ 48 * q.toNat + (d - x.clock)))
    | _ => (0, BitVec.ofNat 64 (0xFF * 2 ^ 56))
  let v := readWord rd off v0
  let w := readWord rd (off + 8) w0
  let p := old.getD { due := 0, dst := .twb 0, arrive := 0, pc := 0 }
  let due := b + w.toNat % 2 ^ 32
  match (w.extractLsb' 56 8).toNat with
  | 0 => some { p with due := due, dst := .sreg (w.extractLsb' 48 6) v }
  | 1 => some { p with due := due, dst := .pred (w.extractLsb' 48 3) (v.getLsbD 0) }
  | _ => none

/-- A pending tile write as its block holds it: entry i. -/
def readFlightTile (rd : Reader) (b : Nat) (x : Strand) (i : Nat) (p : Pend) : Pend :=
  let dsc := 0x100 + 0x6C0 + 16 * i
  let img := BitVec.ofNat 16384 (rd (0x15000 + 2048 * i) 2048 (flightImage p).toNat)
  let num := fun (t : Nat) => rd dsc 2 t % 512
  let due := b + rd (dsc + 8) 4 (p.due - x.clock)
  match p.dst with
  | .tile t mx _ => { p with due := due, dst := .tile (num t) mx img }
  | .bytes t off bs => { p with due := due, dst := .bytes (num t) off (tileBytes img off bs.length) }
  | _ => p

/-- The pending results of a strand as its block holds them (R327, R342). -/
def readFlights (rd : Reader) (b : Nat) (x : Strand) : List Pend :=
  (List.range 48).filterMap (readFlightReg rd b x) ++
    (((flightTiles x).zip (List.range 16)).map fun p => readFlightTile rd b x p.2 p.1) ++
    (x.pend.filter fun p => match p.dst with | .twb _ | .mxcfg _ => true | _ => false).map fun p => { p with due := b + (p.due - x.clock) }

/-- The undo log as its block holds it: a valid entry names its tile (R327, R342). -/
def readUndo (rd : Reader) (x : Strand) : List (Nat × Tile) :=
  (List.range 16).filterMap fun i =>
    let (w, y) := match x.undo[i]? with | some (t, y) => (t + 2 ^ 31, y) | none => (0, default)
    let v := rd (0x8000 + 4 * i) 4 w
    if v.testBit 31 then some (v % 512, { y with data := BitVec.ofNat 16384 (rd (0xD000 + 2048 * i) 2048 y.data.toNat) }) else none

/-- A store of the queue with the bytes that its line holds in the block. -/
def readQueued (rd : Reader) (lines : List Nat) (q : SegStore) : SegStore :=
  { q with data := (q.data.zip (List.range q.data.length)).map fun p =>
      let a := q.va.toNat + p.2
      BitVec.ofNat 8 (rd (0x9000 + 256 * lines.idxOf (a / 128) + 0x80 + a % 128) 1 p.1.toNat) }

/-- The runs of set bits of a byte mask: first byte and length. -/
def maskRuns (mask : Nat) : List (Nat × Nat) :=
  (List.range 128).foldr (fun i rs =>
    if mask.testBit i then
      match rs with
      | (j, n) :: rest => if j = i + 1 then (i, n + 1) :: rest else (i, 1) :: rs
      | [] => [(i, 1)]
    else rs) []

/-- The store queue as its block holds it; a line whose address or mask has been edited is queued anew, at the place that its address
leads to (R327, R342). -/
def readQueue (rd : Reader) (at_ : W64 → Option (Loc × Nat)) (x : Strand) : List SegStore :=
  let lines := queueLines x.queue
  let same := (x.queue.map (readQueued rd lines))
  (lines.zip (List.range 64)).foldl (fun qs p =>
    let off := 0x9000 + 256 * p.2
    let (mask, data) := queueLine x.queue p.1
    let va := readWord rd off (BitVec.ofNat 64 (128 * p.1))
    let m := rd (off + 8) 16 mask
    if va = BitVec.ofNat 64 (128 * p.1) && m == mask then qs
    else
      match at_ va, x.queue.find? fun q => q.va.toNat / 128 == p.1 with
      | some (l, lease), some q =>
        let d := BitVec.ofNat 1024 (rd (off + 0x80) 128 data.toNat)
        (qs.filter fun q => q.va.toNat / 128 != p.1) ++ (maskRuns m).map fun r =>
          { q with va := va + BitVec.ofNat 64 r.1, loc := locPlus r.1 l, lease := lease, data := (bytesLE 128 d.toNat).drop r.1 |>.take r.2 }
      | _, _ => qs) same

/-- The place that a store of a strand to an address leads to, with its lease. -/
def storePlace (s : State) (k : CoreId) (team : Nat) (va : W64) : Option (Loc × Nat) :=
  match window s k team false va with
  | .shared k' off => some (.shared k' team off, 0)
  | .global a => match translate s k (teamCtx s team) .write a with | .ok l lease _ => some (l, lease) | _ => none
  | .control _ | .bad _ => none

/-- The registers of a strand or snapshot read from a block. -/
def readRegs (rd : Reader) (off : Nat) (v : Vector W64 64) : Vector W64 64 :=
  v.mapFinIdx fun i w _ => readWord rd (off + 8 * i) w

/-- A strand as its save block holds it, the host's edits among it (R307, R325, R386). -/
def readStrand (rd : Reader) (at_ : W64 → Option (Loc × Nat)) (x : Strand) : Strand :=
  let o := 0x100
  let w := readWord rd
  let b := (w (o + 0x210) (BitVec.ofNat 64 x.clock)).toNat
  let ctl := w (o + 0x228) (strandCtl x)
  let seg := w (o + 0x298) (segWord x)
  let o7 := o + 0x7C0
  { x with
    s := readRegs rd o x.s, p := BitVec.ofNat 8 (rd (o + 0x200) 1 x.p.toNat) ||| 1#8,
    pc := w (o + 0x208) x.pc, clock := b, twb := (w (o + 0x218) (0#55 ++ x.twb)).extractLsb' 0 9,
    mxcfg := mxcfgOf (w (o + 0x220) x.mxcfg), nxt := ctl.extractLsb' 0 2, done := ctl.extractLsb' 16 8,
    loops := readLoops rd (o + 0x230) x.loops, segOpen := seg.getLsbD 0, rewound := seg.getLsbD 1, behind := seg.getLsbD 2,
    replay := x.replay.mapFinIdx fun i r _ => readReplay rd i r, pend := readFlights rd b x,
    busy := x.busy.map fun t => b + (t - x.clock),
    undo := readUndo rd x, queue := readQueue rd at_ x,
    snap := x.snap.map fun q =>
      { q with
        s := readRegs rd o7 q.s, p := BitVec.ofNat 8 (rd (o7 + 0x200) 1 q.p.toNat) ||| 1#8,
        pc := w (o7 + 0x208) q.pc, clock := (w (o7 + 0x210) (BitVec.ofNat 64 q.clock)).toNat,
        twb := (w (o7 + 0x218) (0#55 ++ q.twb)).extractLsb' 0 9, mxcfg := mxcfgOf (w (o7 + 0x220) q.mxcfg),
        nxt := (w (o7 + 0x228) (0#62 ++ q.nxt)).extractLsb' 0 2, loops := readLoops rd (o7 + 0x230) q.loops } }

/-! ## Warps, tiles and shared memory (R326, R328) -/

/-- The V registers of a warp block, row by row. -/
def warpV (x : Warp) : List Byte :=
  (List.range 48).flatMap fun v => x.lanes.toList.flatMap fun l => bytesLE 4 (l.v.toList.getD v 0).toNat

/-- The poison bits of a warp block: bit 32 v + l. -/
def warpPoison (x : Warp) : Nat :=
  ((List.range 48).flatMap fun v => x.lanes.toList.map fun l => l.poison.getLsbD v).foldr (fun b n => b.toNat + 2 * n) 0

/-- The handler bank of a lane. -/
def bankBytes (l : LaneRegs) : List Byte :=
  (l.bankV.toList.flatMap fun v => bytesLE 4 v.toNat) ++ [l.bankP &&& 0xFE#8]

/-- The selected tile as a word: its number, and bit 63 when one is selected. -/
def selWord (x : Warp) : W64 := match x.sel with | some t => BitVec.ofNat 64 (t + 2 ^ 63) | none => 0

/-- Where a warp has migrated to: its origin's core and slot, and bit 63; 0 at home. -/
def awayWord (x : Warp) : W64 :=
  match x.away with | some o => BitVec.ofNat 64 (o.ix.val + 2 ^ 8 * o.core.val + 2 ^ 63) | none => 0

/-- The parts of warp block w; the places from +0x1900 on are the model's choice (log entry 78). -/
def warpParts (w : Nat) (x : Warp) : List Part :=
  let off := 0x1D000 + 8192 * w
  [(off, warpV x), (off + 0x1800, x.lanes.toList.map fun l => l.p &&& 0xFE#8), (off + 0x1820, bytesLE 192 (warpPoison x)),
   wordPart (off + 0x1900) (x.fpstat ++ x.fpctl), wordPart (off + 0x1908) x.tbase, wordPart (off + 0x1910) x.wisn,
   wordPart (off + 0x1918) (selWord x), wordPart (off + 0x1920) (awayWord x)] ++
    (x.lanes.toList.zip (List.range 32)).map fun p => (off + 0x1A00 + 32 * p.2, bankBytes p.1)

/-- A warp as its block holds it. -/
def readWarp (rd : Reader) (w : Nat) (x : Warp) : Warp :=
  let off := 0x1D000 + 8192 * w
  let v := fun v l (old : W32) => BitVec.ofNat 32 (rd (off + 128 * v + 4 * l) 4 old.toNat)
  let poison := rd (off + 0x1820) 192 (warpPoison x)
  { x with
    lanes := x.lanes.mapFinIdx fun l r _ =>
      { r with
        v := r.v.mapFinIdx fun i old _ => v i l old,
        p := (BitVec.ofNat 8 (rd (off + 0x1800 + l) 1 r.p.toNat) &&& 0xFE#8) ||| 1#8,
        poison := BitVec.ofNat 48 ((List.range 48).foldr (fun i m => poison / 2 ^ (32 * i + l) % 2 + 2 * m) 0),
        bankV := r.bankV.mapFinIdx fun i old _ => BitVec.ofNat 32 (rd (off + 0x1A00 + 32 * l + 4 * i) 4 old.toNat),
        bankP := BitVec.ofNat 8 (rd (off + 0x1A00 + 32 * l + 16) 1 r.bankP.toNat) },
    fpctl := BitVec.ofNat 32 (rd (off + 0x1900) 4 x.fpctl.toNat) &&& 3#32,
    fpstat := BitVec.ofNat 32 (rd (off + 0x1904) 4 x.fpstat.toNat) &&& 31#32,
    tbase := tbaseOf (readWord rd (off + 0x1908) x.tbase), wisn := readWord rd (off + 0x1910) x.wisn,
    sel := (let v := readWord rd (off + 0x1918) (selWord x); if v.getLsbD 63 then some (v.toNat % 512) else none) }

/-- The code of a fragment's state, in the order of R135 (log entry 78). -/
def stateCode : FragState → Nat
  | .ready => 1 | .wait .. => 2 | .convw => 3 | .barw .. => 4 | .fragw .. => 5 | .parked _ | .halted .. => 6 | .stopped => 7

/-- The PARKED cause of a fragment: a halt's cause (R342), or what it is parked on. -/
def parkCode : FragState → Nat
  | .halted c _ => c
  | .parked (.fault ..) => 8
  | .parked (.presence _) => 9
  | .parked .budget => 10
  | .wait _ (.landing ..) => 11
  | .ready | .wait .. | .convw | .barw .. | .fragw .. | .stopped => 0

/-- Fragment entry i: PC; the lane mask, FRAG, the handler flag, the state and the PARKED cause; and the trap registers, in the
order in which R328 lists them (log entry 78). -/
def fragParts (i : Nat) (f : FragId) (x : Frag) : List Part :=
  let off := 0x1000 + 128 * i
  let w := x.mask.toNat + 2 ^ 32 * f.val + 2 ^ 40 * x.flag.toNat + 2 ^ 48 * stateCode x.state + 2 ^ 56 * parkCode x.state
  [wordPart off x.pc, wordPart (off + 8) (BitVec.ofNat 64 w), wordPart (off + 0x10) (x.trap.unit ++ x.trap.cause),
   wordPart (off + 0x18) x.trap.pc, wordPart (off + 0x20) x.trap.addr, wordPart (off + 0x28) x.trap.synd,
   wordPart (off + 0x30) x.trap.coord, wordPart (off + 0x38) (0#32 ++ x.trap.townf)]

/-- An entry that holds no fragment: its number as FRAG, and the state free, 0 (R135, R328; log entry 78). -/
def freeEntry (i : Nat) : Part := wordPart (0x1000 + 128 * i + 8) (BitVec.ofNat 64 (2 ^ 32 * i))

/-- A fragment as its entry holds it: its PC, handler flag and trap registers may have been edited; their reserved bits read as zero
(R297; log entry 78). -/
def readFrag (rd : Reader) (i : Nat) (x : Frag) : Frag :=
  let off := 0x1000 + 128 * i
  let w := readWord rd off
  let half := fun o (old : W32) => BitVec.ofNat 32 (rd (off + o) 4 old.toNat)
  { x with
    pc := w x.pc, flag := (rd (off + 13) 1 x.flag.toNat) % 2 == 1,
    trap := { cause := half 0x10 x.trap.cause &&& 0x00FFFFFF#32, unit := half 0x14 x.trap.unit &&& 0xF#32,
              pc := readWord rd (off + 0x18) x.trap.pc &&& ~~~(0x18#64),
              addr := readWord rd (off + 0x20) x.trap.addr, synd := readWord rd (off + 0x28) x.trap.synd,
              coord := readWord rd (off + 0x30) x.trap.coord &&& 0x01FFFFFFFFFFFFFF#64, townf := half 0x38 x.trap.townf &&& 0x1FF#32 } }

/-- The fragment entries of a core's share: a fragment's entry has the number of its identity (R134); one whose entry is taken,
by an identity of another core, has its place in the list. -/
def entryOf (fs : List (FragId × Frag)) (i : Nat) : Nat :=
  match fs[i]? with
  | some p => if (fs.take i).any (fun q => q.1 == p.1) then 191 - i else p.1.val
  | none => 191

/-- Byte i of the presence bits of a seat. -/
def presenceByte (x : Seat) (i : Nat) : Byte :=
  BitVec.ofNat 8 ((List.range 8).foldl (fun v j => if x.absent.contains (8 * i + j) then v else v + 2 ^ j) 0)

/-- The owner field and marks of a tile as one word. -/
def tileMarks (x : Tile) : Nat := x.owner.toNat + 2 ^ 16 * x.suspect.toNat + 2 ^ 17 * x.poison.toNat

/-- Tile i as a block or window holds it; a mark that is not there marks no element. -/
def readTile (rd : Reader) (i : Nat) (x : Tile) : Tile :=
  let m := rd (0x7000 + 4 * i) 4 (tileMarks x)
  { x with owner := BitVec.ofNat 9 m, suspect := m.testBit 16, poison := m.testBit 17,
           spot := if m.testBit 16 || m.testBit 17 then x.spot else 0, gap := if m.testBit 16 then x.gap else 0,
           data := BitVec.ofNat 16384 (rd (0x9D000 + 2048 * i) 2048 x.data.toNat) }

/-- The parts of a seat: owner fields and marks, tiles, shared memory and presence bits. -/
def seatParts (x : Seat) (size : Nat) : List Part :=
  ((x.tiles.zip (List.range 320)).flatMap fun p =>
    [(0x7000 + 4 * p.2, bytesLE 4 (tileMarks p.1)),
     (0x9D000 + 2048 * p.2, bytesLE 2048 p.1.data.toNat)]) ++
    [(0x13D000, memBytes x.shared 0 size),
     (0x1DD000, (List.range (size / 1024)).map (presenceByte x))]

/-- A seat as its block holds it. -/
def readSeat (rd : Reader) (size : Nat) (x : Seat) : Seat :=
  let shared := memPut [] 0 ((List.range (size / 128)).flatMap fun i =>
    bytesLE 128 (rd (0x13D000 + 128 * i) 128 (natLE (memBytes x.shared (128 * i) 128))))
  let present := fun i => natLE [presenceByte x i]
  let absent := (List.range (size / 128)).filter fun i => !(rd (0x1DD000 + i / 8) 1 (present (i / 8))).testBit (i % 8)
  { x with
    shared := shared, absent := absent,
    tiles := (x.tiles.zip (List.range 320)).map fun p => { readTile rd p.2 p.1 with arrive := 0, given := 0 } }

/-- The members of a team that have arrived at a barrier. -/
def arrivedAt (s : State) (tm : Team) (id : BitVec 4) : Nat :=
  ((teamWarpsAt s tm).filter fun p => !detached s p.1 p.2 id && (warpArrival (coreAt s p.1) p.2 id).isSome).length +
    ((teamStrandsAt s tm).filter fun p => (strandAt (coreAt s p.1) p.2).any fun x => atBar x id).length

/-- WARPS, the launch's warps per core, TILES, the strand's presence, the logical position and SHARED as one word (R130; log entry
78). -/
def headerWord (size : Nat) (x : SavedCore) (pos : Nat) : W64 :=
  BitVec.ofNat 64 (x.seat.slots.length + 2 ^ 8 * x.seat.tiles.length + 2 ^ 24 * x.strand.isSome.toNat + 2 ^ 25 * pos + 2 ^ 32 * size)

/-- The header of a save block (R326). -/
def headerParts (s : State) (tm : Team) (size : Nat) (x : SavedCore) (pos copies : Nat) : List Part :=
  [wordPart 0 1, wordPart 8 (teamReg tm), wordPart 0x10 (gridReg s tm.id), wordPart 0x18 (headerWord size x pos)] ++
    ((List.range 16).map fun i =>
      let b := tm.bars.toList.getD i {}
      wordPart (0x20 + 8 * i) (BitVec.ofNat 64 (arrivedAt s tm (BitVec.ofNat 4 i) + 2 ^ 16 * b.n.toNat + 2 ^ 32 * b.phase.toNat))) ++
    [wordPart 0xA0 (BitVec.ofNat 64 copies)]

/-! ## Save (R323, R376) -/

/-- A fragment's state as it is saved: a wait is re-issued on restore, a parked fragment is saved parked, and times are kept
as distances (R323). -/
def saveState (now : Nat) : FragState → FragState
  | .wait .. => .ready
  | .barw i n t => .barw i n (now - t)
  | .fragw t n => .fragw (now - t) n
  | .halted c b => .halted c (saveState now b)
  | st => st

/-- A fragment as it is saved. -/
def saveFrag (now : Nat) (x : Frag) : Frag :=
  let again := match x.state with | .wait .. | .parked _ => true | _ => x.resume
  { x with score := [], fetched := false, resume := again, state := saveState now x.state }

/-- The warps of a team whose origin is a core: origin slot, and where each runs. -/
def originWarps (s : State) (t : Nat) (k : CoreId) : List (WarpIx × CoreId × WarpIx) :=
  (allWarps.filter fun w => w.val < 64 && (match warpAt (coreAt s k) w with | some x => x.team == t | none => false)).map fun w =>
    match warpAt (coreAt s k) w with
    | some { gone := true, .. } =>
      match (allCores.flatMap fun k' => allWarps.map fun w' => (k', w')).find? fun p =>
          match warpAt (coreAt s p.1) p.2 with | some { away := some o, .. } => o.core == k && o.ix == w | _ => false with
      | some p => (w, p.1, p.2)
      | none => (w, k, w)
    | _ => (w, k, w)

/-- Fragments in order of their lowest lane. -/
def byLane (fs : List (FragId × Frag)) : List (FragId × Frag) :=
  allLanes.flatMap fun l => fs.filter fun p => leadLane p.2.mask == l

/-- The index of a warp among those of its team on a core, finished ones among them: the number of its block (R130, R328). -/
def warpIndex (x : Seat) (w : WarpIx) : Nat := x.slots.idxOf w

/-- A core's share of a team as it is saved: the results that are due have landed. A warp that is away is saved into its origin's
block; its fragments stand in the order in which they will take entries there (R374, R376). -/
def savedCore (s : State) (t : Nat) (k : CoreId) : Option SavedCore :=
  match seatAt (coreAt s k) t with
  | none => none
  | some seat =>
    let ws := originWarps s t k
    some {
      seat := seat,
      warps := ws.filterMap fun p => (warpAt (coreAt s p.2.1) p.2.2).map fun x =>
        (p.1, { x with gone := false, now := none, sels := [], sel := if x.away.isSome then none else x.sel }),
      frags := ws.flatMap fun p => (if p.2 = (k, p.1) then placeFrags s p.2.1 p.2.2 else byLane (placeFrags s p.2.1 p.2.2)).map fun q =>
        (q.1, { saveFrag (coreAt s p.2.1).cycle q.2 with warp := p.1 }),
      strand := seat.strand.bind fun n => strandAt (coreAt s k) n }

/-- A request that stands for a queued copy request of a team. -/
def queuedKick (t : Nat) (r : Req) : Bool := r.team == t && !r.held && (match r.op with | .kick => true | _ => false)

/-- Accepted copy requests of a team are not complete. -/
def copiesOpen (s : State) (tm : Team) : Bool := tm.cores.any fun k => (coreAt s k).copies.any fun c => c.req.team == tm.id

/-- A team can be saved now: no access of it is unperformed, no load in flight, no accepted copy, no commit in progress,
and every result has physically arrived (R323). -/
def saveReady (s : State) (tm : Team) : Bool :=
  (s.reqs.all fun r => r.team != tm.id || queuedKick tm.id r) && !copiesOpen s tm &&
    ((teamWarpsAt s tm).all fun p => (placeFrags s p.1 p.2).all fun q => match q.2.state with | .wait _ (.arrive _) => false | _ => true) &&
    (teamStrandsAt s tm).all fun p =>
      match strandAt (coreAt s p.1) p.2 with
      | some x => x.pend.all (fun q => q.arrive ≤ (coreAt s p.1).cycle) &&
          x.holds.all fun h => match h.cond with | .arrive _ => false | _ => true
      | none => true

/-- The save block of one core written (R326). -/
def saveBlock (s : State) (tm : Team) (n : Nat) (x : SavedCore) (pos copies : Nat) : State :=
  let size := teamShared s tm.id
  let frags := (List.range x.frags.length).flatMap fun i =>
    match x.frags[i]? with | some p => fragParts (entryOf x.frags i) p.1 p.2 | none => []
  let used := (List.range x.frags.length).map (entryOf x.frags)
  let free := ((List.range 192).filter fun i => !used.contains i).map freeEntry
  let ws := x.warps.flatMap fun p => warpParts (warpIndex x.seat p.1) p.2
  putParts s tm.ctx n (headerParts s tm size x pos copies ++ frags ++ free ++ (match x.strand with | some y => strandParts y | none => []) ++
    ws ++ seatParts x.seat size)

/-- The queued copy requests of a team on a core, each with the team's agents whose waits cover it. -/
def keptCopies (s : State) (t : Nat) (k : CoreId) : List CopyReq :=
  ((coreAt s k).copyQ.filter fun q => q.team == t).map fun q =>
    { q with owners := match reqAt s q.id with | some r => r.owners.filter (agentOf s t) | none => [] }

/-- The agents of a team removed; what stands for its queued copy requests stays, for those who wait for them (R323). -/
def removeSaved (s : State) (tm : Team) : State :=
  let kicks := (s.reqs.filter (queuedKick tm.id)).map fun r =>
    { r with owners := r.owners.filter fun a => !agentOf s tm.id a, issuers := [] }
  let s := tm.cores.foldl (fun s k => modCore s k fun c => { c with copyQ := c.copyQ.filter fun q => q.team != tm.id }) s
  let s := removeAgents s tm.id
  freeSeats { s with reqs := s.reqs ++ kicks } tm

/-- A save block cannot be read, or written, yet: an engine-pending line stands in the way (R193, R202). -/
def blockWaits (s : State) (c : CtxId) (n : Nat) (read : Bool) : Bool :=
  (s.lines.any fun x => !x.pend.isEmpty) && (List.range 512).any fun i =>
    let va := blockBase s c n + BitVec.ofNat 64 (4096 * i)
    if read then unitWaits s c va 4096 else translateWalk s c .write va.toNat == .wait

/-- TEAM_SAVE: the stopped team is written to its save blocks, and its cores are released (R323). -/
def execTeamSave (t : Nat) (s : State) : Out :=
  match teamAt s t with
  | none => .refused .notEnabled
  | some tm =>
    if tm.status != .saving || !saveReady s tm || tm.blocks.any (blockWaits s tm.ctx · false) then .refused .notEnabled
    else if !teamAlive s tm then .next (teamRelease (modTeam s t fun x => { x with status := .placed }) t)
    else
      let s := (teamStrandsAt s tm).foldl (fun s p => landDue s p.1 p.2) s
      let image := tm.cores.filterMap (savedCore s t)
      let copies := tm.cores.map (keptCopies s t)
      let s := (((tm.blocks.zip image).zip copies).zip (List.range 8)).foldl (fun s p =>
        saveBlock s tm p.1.1.1 p.1.1.2 p.2 p.1.2.length) s
      let s := (tm.cores.zip tm.blocks).foldl (fun s p =>
        blockEntry s tm.ctx p.2 (teamReg tm)
          ((match gridAt s tm.grid with | some g => g.number | none => 0) ++ (coreReg s t p.1 p.1).extractLsb' 0 32) 3) s
      let s := removeSaved s tm
      .next (modTeam (tm.cores.foldl serveQueue s) t fun x =>
        { x with status := .saved, image := image, savedCopies := copies, placed := runTicks s tm, drain := none })

/-! ## Restore (R307, R325) -/

/-- Where a saved agent is now. -/
structure Moved where
  slots : List (WarpIx × WarpIx)
  frags : List (FragId × FragId)
  strand : Option (StrandId × StrandId)

/-- A holder code at its new place (R325). -/
def mapHolder (m : Moved) (o : BitVec 9) : BitVec 9 :=
  let code := (o.extractLsb' 0 7).toNat
  let st := o.extractLsb' 7 2
  if st = 0#2 then o
  else if code < 64 then
    match m.slots.find? fun p => p.1.val == code with
    | some (_, w) => st ++ holderWarp w
    | none => o
  else match m.strand with | some (_, n) => st ++ holderStrand n | none => o

/-- A place in a team's shared memory, as the new number of its core names it; `ks`: old and new cores (R325). -/
def movedLoc (ks : List (CoreId × CoreId)) (t : Nat) : Loc → Loc
  | .shared k u off => .shared (if u = t then ((ks.find? fun p => p.1 == k).map (·.2)).getD k else k) u off
  | l => l

/-- A saved fragment's state as it stands again. -/
def thawState (now : Nat) (loc : Loc → Loc) : FragState → FragState
  | .barw i n d => .barw i n (now - d)
  | .fragw d n => .fragw (now - d) n
  | .stopped => .ready
  | .parked (.presence ls) => .parked (.presence (ls.map loc))
  | .halted c b => .halted c (thawState now loc b)
  | st => st

/-- A saved fragment as it stands again: one that is at a kill point takes its pending kill (R290). -/
def restoreFrag (now : Nat) (w : WarpIx) (kill : Bool) (loc : Loc → Loc) (x : Frag) : Frag :=
  { x with warp := w, lastSel := now,
           state := if kill && (fragAtKill x.state || x.state == .stopped) then .stopped else thawState now loc x.state }

/-- The fragments of a saved core as its block holds them. -/
def readFrags (rd : Reader) (fs : List (FragId × Frag)) : List (FragId × Frag) :=
  (fs.zip (List.range fs.length)).map fun p => (p.1.1, readFrag rd (entryOf fs p.2) p.1.2)

/-- A saved strand as it stands again at core and number: the bundle that stopped is tried again, and a wait that its BAR or RDV
began in it goes on after it (R166, R307, R325). -/
def thawStrand (loc : Loc → Loc) (z : Strand) : Strand :=
  { z with
    pend := z.pend.map fun q => { q with arrive := 0 }, queue := z.queue.map fun q => { q with loc := loc q.loc },
    state := (match z.state with | .stopped => .ready | st => st), stall := none, stopReq := false }

/-- A saved warp as it stands again in its origin slot; one that was away counts from the next phases on (R144, R376). -/
def thawWarp (rd : Reader) (i : Nat) (now : Nat) (phases : BitVec 16) (x : Warp) : Warp :=
  { readWarp rd i x with born := now, stopReq := false, away := none, uncounted := if x.away.isSome then phases else x.uncounted }

/-- The home entry that a saved fragment takes again: its own, or, of a warp that was away, that of the fragment with the lowest lane
(R325, R374, R376). -/
def homeAgain (x : SavedCore) (i : Nat) : Bool :=
  match x.frags[i]? with
  | none => false
  | some (f, y) =>
    if x.warps.any fun p => p.1 == y.warp && p.2.away.isSome then !(x.frags.take i).any fun q => q.2.warp == y.warp
    else f.val < 64

/-- A core's pool has an entry for every saved fragment that takes one. R131 asks only for home entries; a team waits for the others
(DESIGN CHOICE, log entry 91). -/
def poolFits (s : State) (x : SavedCore) (k : CoreId) : Bool :=
  ((List.range x.frags.length).filter fun i => !homeAgain x i).length ≤
    (allFrags.filter fun f => 64 ≤ f.val && (fragAt (coreAt s k) f).isNone).length

/-- A saved core put on a core: warp slots in index order, home entries by slot, pool entries lowest first (R130, R325). -/
def restoreCore (s : State) (tm : Team) (n : Nat) (phases : BitVec 16) (x : SavedCore) (k : CoreId) (loc : Loc → Loc) : State × Moved :=
  let c := coreAt s k
  let size := match gridAt s tm.grid with | some g => sharedSize g | none => 0
  let prot := (gridAt s tm.grid).any teamProt
  let seat := readSeat (blockNat s tm.ctx n) size x.seat
  let ws := freeSlots s k
  let all := x.seat.slots.zip ws
  let slots := x.warps.filterMap fun p => (all.find? fun q => q.1 == p.1)
  let strand := match x.strand with
    | some _ => (freeStrand s k).map fun n => (x.seat.strand.getD 0, n)
    | none => none
  let c := (slots.zip x.warps).foldl (fun c p =>
    setWarp c p.1.2 (some (thawWarp (blockNat s tm.ctx n) (warpIndex x.seat p.2.1) c.cycle phases p.2.2))) c
  let r := ((readFrags (blockNat s tm.ctx n) x.frags).zip (List.range x.frags.length)).foldl (fun (r : Core × List (FragId × FragId)) p =>
    let (p, i) := p
    match slots.find? fun q => q.1 == p.2.warp with
    | none => r
    | some (_, w) =>
      match if homeAgain x i then some (Fin.ofNat 192 w.val) else allFrags.find? fun f => 64 ≤ f.val && (fragAt r.1 f).isNone with
      | none => r
      | some f =>
        let kill := match warpAt r.1 w with | some y => y.kill | none => false
        (setFrag r.1 f (some (restoreFrag r.1.cycle w kill loc p.2)), r.2 ++ [(p.1, f)])) (c, [])
  let m : Moved := { slots := slots, frags := r.2, strand := strand }
  let c := { r.1 with seats := r.1.seats ++ [{ seat with
    slots := ws.take x.seat.slots.length, strand := strand.map (·.2),
    lentSlots := if prot then (freeSlots s (proofCore k)).take x.seat.slots.length else [],
    lentStrand := if prot && x.strand.isSome then freeStrand s (proofCore k) else none,
    tiles := seat.tiles.map fun y => { y with owner := mapHolder m y.owner } }] }
  let c := slots.foldl (fun c p => modWarp c p.2 fun w =>
    { w with haltReq := w.haltReq.filterMap fun h => (m.frags.find? fun q => q.1 == h.1).map fun q => (q.2, h.2) }) c
  let c := match x.strand, strand with
    | some y, some (_, nn) => setStrand c nn (some (thawStrand loc (readStrand (blockNat s tm.ctx n) (storePlace s k tm.id) y)))
    | _, _ => c
  (setCore s k c, m)

/-- What names a restored team's places and strands elsewhere follows it: presence marks, provisional commits, and the partners
that a strand at an RDV waits for; and a strand at a kill point takes its pending kill (R290, R313, R325). -/
def restoreNames (s : State) (tm : Team) (cores : List CoreId) (loc : Loc → Loc) (ss : List ((CoreId × StrandId) × (CoreId × StrandId))) :
    State :=
  let core := fun (k : CoreId) => ((((tm.cores.zip cores).find? fun p => p.1 == k).map (·.2)).getD k)
  let s := { s with
    syncs := s.syncs.map fun y => { y with loc := loc y.loc },
    heldCmap := s.heldCmap.map fun h => if h.team = tm.id then { h with core := core h.core } else h }
  ss.foldl (fun s p =>
    let s := onStrand s p.2.1 p.2.2 (mapWait fun st => match st with
      | .rdv n bs => .rdv n (bs.map fun b => ((ss.find? fun q => q.1 == b).map (·.2)).getD b)
      | st => st)
    if (strandAt (coreAt s p.2.1) p.2.2).any fun x => x.kill && strandAtKill x then killStrand s p.2.1 p.2.2 else s) s

/-- Queued copy requests of a restored core, and what stands for them, name their issuers where they now are. -/
def moveCopies (s : State) (k : CoreId) (m : Moved) (loc : Loc → Loc) (qs : List CopyReq) : State :=
  let who := fun (a : AgentRef) => match a with
    | .frag _ f => match m.frags.find? fun p => p.1 == f with | some (_, g) => AgentRef.frag k g | none => a
    | .strand _ n => match m.strand with | some (_, nn) => AgentRef.strand k nn | none => .strand k n
  let slot := fun (q : CopyReq) => if q.agent < 64 && !q.gone then m.slots.find? fun r => r.1.val == q.agent else none
  qs.foldl (fun s q =>
    let place := (slot q).map fun r => (k, r.2)
    let agent := match slot q, m.strand with
      | some r, _ => r.2.val
      | none, some (_, nn) => if 64 ≤ q.agent then 64 + nn.val else q.agent
      | none, none => q.agent
    let s := modReq s q.id fun r =>
      { r with who := who q.who, place := place, agent := agent, core := k, loc := loc r.loc,
               issuers := q.owners.map who, owners := r.owners ++ q.owners.map who }
    modCore s k fun c => { c with copyQ := c.copyQ ++ [{ q with who := who q.who, place := place, agent := agent, owners := [] }] }) s

/-- A debugger's command to an agent of a restored team follows it (R341). -/
def followAgents (s : State) (t : Nat) (ps : List (AgentRef × AgentRef)) : State :=
  match ctxAt s (teamCtx s t) with
  | none => s
  | some x =>
    let who := fun (a : AgentRef) => ((ps.find? fun p => p.1 = a).map (·.2)).getD a
    setCtx s (teamCtx s t) (some { x with dbg := { x.dbg with job := x.dbg.job.map who } })

/-- A saved team waits for the host: one of its agents was stopped (R308). -/
def needsHost (tm : Team) : Bool :=
  tm.image.any fun x => (match x.strand with | some y => y.state == .stopped || y.stopReq | none => false) ||
    x.frags.any (fun p => p.2.state == .stopped && !x.warps.any fun w => w.1 == p.2.warp && w.2.kill) || x.warps.any fun p => p.2.stopReq

/-- SAVED_TEAM_RESTORE: a saved team on the first place that fits it (R325). -/
def execSavedTeamRestore (t : Nat) (s : State) : Out :=
  match teamAt s t with
  | none => .refused .notEnabled
  | some tm =>
    match gridAt s tm.grid with
    | none => .refused .notEnabled
    | some g =>
      if tm.status != .saved || !ctxRuns s tm.ctx || (needsHost tm && !tm.resume) || launchHeld s g.die then .refused .notEnabled
      else
        match fitPlace s g.raw g.die with
        | none => .refused .notEnabled
        | some (pos, cores) =>
          if tm.blocks.any (blockWaits s tm.ctx · true) || !(tm.image.zip cores).all (fun p => poolFits s p.1 p.2) then .refused .notEnabled
          else
          let bars := tm.bars.mapFinIdx fun i b _ =>
            let w := blockNat s tm.ctx (tm.blocks.headD 0) (0x20 + 8 * i) 8 (2 ^ 16 * b.n.toNat + 2 ^ 32 * b.phase.toNat)
            { n := BitVec.ofNat 8 (w / 2 ^ 16), phase := w / 2 ^ 32 % 2 == 1 : Barrier }
          let phases := (List.finRange 16).foldl (fun m i => if bars[i].phase then m ||| (1#16 <<< i.val) else m) 0#16
          let loc := movedLoc (tm.cores.zip cores) t
          let r := (((tm.cores.zip cores).zip tm.blocks).zip (tm.image.zip (tm.savedCopies ++ List.replicate 8 []))).foldl
            (fun (r : State × List ((CoreId × StrandId) × (CoreId × StrandId)) × List (AgentRef × AgentRef)) p =>
              let k := p.1.1.2
              let (s, m) := restoreCore r.1 tm p.1.2 phases p.2.1 k loc
              let ss := match m.strand with | some (old, new) => [((p.1.1.1, old), (k, new))] | none => []
              let fs := m.frags.map fun q => (AgentRef.frag p.1.1.1 q.1, AgentRef.frag k q.2)
              (fitCores (moveCopies s k m loc p.2.2) k (teamProt g), r.2.1 ++ ss, r.2.2 ++ fs)) (s, [], [])
          let s := followAgents r.1 t (r.2.2 ++ r.2.1.map fun q => (AgentRef.strand q.1.1 q.1.2, AgentRef.strand q.2.1 q.2.2))
          let s := modTeam (restoreNames s tm cores loc r.2.1) t fun x =>
            { x with status := .placed, cores := cores, pos := pos, bars := bars, image := [], savedCopies := [],
                     resume := false, placed := s.tick - tm.placed }
          .next ((cores.zip tm.blocks).foldl (fun s p =>
            blockEntry s tm.ctx p.2 (teamReg tm) (g.number ++ (coreReg s t p.1 p.1).extractLsb' 0 32) 1) s)

/-! ## The choice (R322, R324) -/

/-- DRAIN, FLUSH or SAVE (R322). -/
inductive Preempt where
  | drain | flush | save
  deriving DecidableEq, Repr

/-- A strand or warp of a team is stopped, by a trap, by STOPIMP or by the debugger (R342, R348). -/
def teamHasStopped (s : State) (tm : Team) : Bool :=
  ((teamStrandsAt s tm).any fun p => (strandAt (coreAt s p.1) p.2).any fun x =>
      match x.state with | .stopped | .halted .. => true | _ => false) ||
    (teamWarpsAt s tm).any fun p => (placeFrags s p.1 p.2).any fun q => match q.2.state with | .stopped | .halted .. => true | _ => false

/-- The choice of R322; `again`: the DRAIN branch is left out. -/
def preemptChoice (s : State) (tm : Team) (again : Bool) : Preempt :=
  let pledged := match memberOf s tm.id with | some (_, _, m) => m.state == .pledged | none => false
  match gridAt s tm.grid with
  | none => .save
  | some g =>
    if pledged || tm.sets.length > 64 || teamHasStopped s tm then .save
    else if !again && g.runNum > 0 && g.runSum ≤ g.runNum * (20000 + runTicks s tm) then .drain
    else if teamIdem g then .flush
    else .save

/-- A flush begins: every agent stops where it stands, and held effects are retracted (R290, R324). -/
def beginFlush (s : State) (tm : Team) : State :=
  let s := match memberOf s tm.id with
    | some (j, i, _) => retractMember s j.cell i
    | none => s
  let s := tm.cores.foldl (fun s k => modCore s k fun c => { c with copyQ := c.copyQ.filter fun q => q.team != tm.id }) s
  modTeam (removeAgents s tm.id) tm.id fun x => { x with status := .flushing }

/-- Accepted copies, or the second half of an atomic, of a team being flushed are still under way. -/
def flushOpen (s : State) (tm : Team) : Bool := copiesOpen s tm || s.reqs.any fun r => r.team == tm.id

/-- A flush ends: what its last copies still wrote is retracted too (R290, R324), and the team is to be placed again from its start,
ahead of later teams of its grid (R266, R324). -/
def endFlush (s : State) (tm : Team) : State :=
  match gridAt s tm.grid with
  | none => s
  | some g =>
    let n := teamLinear g tm
    let entry := (n, tm.sets ++ tm.again, tm.member)
    let s := freeBlocks (freeSeats s tm) tm
    let s := match tm.member with | some (j, i) => modMember (retractMember s j i) j i fun m => { m with team := none } | none => s
    let s := { s with teams := s.teams.filter fun x => x.id != tm.id }
    modGrid s g.id fun x =>
      { x with hz := max x.hz tm.hz, again := (x.again.takeWhile fun y => y.1 < n) ++ entry :: (x.again.dropWhile fun y => y.1 < n) }

/-- A choice carried out. -/
def preempt (s : State) (tm : Team) (again : Bool) : State :=
  match preemptChoice s tm again with
  | .drain => modTeam s tm.id fun x => { x with drain := some s.tick }
  | .save => beginSave s tm.id
  | .flush =>
    let s := tm.cores.foldl serveQueue (beginFlush s tm)
    match teamAt s tm.id with
    | some tm => if flushOpen s tm then s else endFlush s tm
    | none => s

/-- PREEMPT_CHOICE: the launch engine chooses for a team whose cores it must free, and ends a flush whose accepted copies
are complete (R322, R324). -/
def execPreemptChoice (t : Nat) (s : State) : Out :=
  match teamAt s t with
  | none => .refused .notEnabled
  | some tm =>
    match tm.status with
    | .placed => if tm.drain.isSome then .refused .notEnabled else .next (preempt s tm false)
    | .flushing => if flushOpen s tm then .refused .notEnabled else .next (endFlush s tm)
    | .saving | .saved | .record | .retired => .refused .notEnabled

/-- DRAIN_TIMEOUT: a team still running 20,000 ticks after a DRAIN choice is chosen for again (R322). -/
def execDrainTimeout (t : Nat) (s : State) : Out :=
  match teamAt s t with
  | none => .refused .notEnabled
  | some tm =>
    match tm.drain with
    | some since =>
      if tm.status == .placed && decide (since + 20000 ≤ s.tick) then .next (preempt (modTeam s t fun x => { x with drain := none }) tm true)
      else .refused .notEnabled
    | none => .refused .notEnabled

end Sys2Proof.Machine
end

