-- ==== Sys2Proof/Machine/Halt.lean ====
section
/-! DEFINITION. Halts by the debugger (R340 to R349): halting and resuming agents, breakpoints, and a stop-all. -/

namespace Sys2Proof.Machine

/-! ## Halting (R342, R347, R348) -/

/-- A fragment is parked, or waits in a state in which a halt takes effect at once (R347). -/
def haltsNow : FragState → Bool
  | .fragw .. => true
  | st => fragAtKill st

/-- A fragment halts with a cause; a halt is a park, so a pending kill is taken instead (R342, R348). -/
def haltFrag (s : State) (k : CoreId) (f : FragId) (cause : Nat) : State :=
  match fragAt (coreAt s k) f with
  | none => s
  | some x =>
    let kill := match warpAt (coreAt s k) x.warp with | some w => w.kill | none => false
    let s := onWarp s k x.warp fun w => { w with haltReq := w.haltReq.filter fun p => p.1 != f }
    let y := { x with watch := false, step := false }
    match x.state with
    | .halted .. | .stopped => s
    | st => onFrag s k f fun _ => { y with state := if kill then .stopped else .halted cause st }

/-- A strand halts between bundles, and gives up the front end; a pending kill is taken instead (R342, R347, R348). -/
def haltStrand (s : State) (k : CoreId) (n : StrandId) (cause : Nat) : State :=
  match strandAt (coreAt s k) n with
  | none => s
  | some x =>
    match x.state with
    | .halted .. | .stopped | .killed | .ending => s
    | st =>
      if x.kill then killStrand s k n
      else
        let s := onStrand s k n fun y => { y with state := .halted cause st, haltReq := none, step := false, stepAll := false }
        modCore s k fun c => if c.front == some n then switchStrand c n else c

/-- A fragment stands where a halt that is asked for takes effect: at a kill point, or in FRAGW under a stop-all (R341, R347). -/
def haltPoint (s : State) (k : CoreId) (x : Frag) : Bool :=
  fragAtKill x.state || (haltsNow x.state && (match warpAt (coreAt s k) x.warp with
    | some w => (ctxAt s (teamCtx s w.team)).any fun y => y.dbg.stopall
    | none => false))

/-- A halt that is asked for at a fragment's next kill point; at once where the fragment stands at one (R341). -/
def askHalt (s : State) (k : CoreId) (f : FragId) (cause : Nat) : State :=
  match fragAt (coreAt s k) f with
  | none => s
  | some x =>
    if haltPoint s k x then haltFrag s k f cause
    else onWarp s k x.warp fun w => { w with haltReq := (f, cause) :: w.haltReq.filter fun p => p.1 != f }

/-- The cause of a halt that waits for a fragment's next kill point: a HALT command's, or a stop-all's. -/
def haltAsked (s : State) (k : CoreId) (f : FragId) : Option Nat :=
  match fragAt (coreAt s k) f with
  | none => none
  | some x =>
    match warpAt (coreAt s k) x.warp with
    | none => none
    | some w =>
      match w.haltReq.find? fun p => p.1 == f with
      | some p => some p.2
      | none => if (ctxAt s (teamCtx s w.team)).any fun y => y.dbg.stopall then some 4 else none

/-- The op that a fragment is about to issue is a kill point (R285); a park or a backward branch is one as it ends. -/
def killOp : Instr → Bool
  | .kpt _ | .irrev _ | .bar .. | .conv _ | .jarr .. => true
  | _ => false

/-- Teams of a context that hold cores. -/
def ctxTeams (s : State) (c : CtxId) : List Team := s.teams.filter fun t => t.ctx == c

/-- A stop-all of a context (R347). -/
def stopAll (s : State) (c : CtxId) : State :=
  let s := modCtx s c fun x => { x with dbg := { x.dbg with stopall := true } }
  (ctxTeams s c).foldl (fun s t =>
    let s := (teamWarpsAt s t).foldl (fun s p =>
      (liveFrags (coreAt s p.1) p.2).foldl (fun s f =>
        if (fragAt (coreAt s p.1) f).any fun x => haltsNow x.state then haltFrag s p.1 f 4 else s) s) s
    (teamStrandsAt s t).foldl (fun s p => haltStrand s p.1 p.2 4) s) s

/-! ## Resuming (R341, R344) -/

/-- The fragment's op is still to be issued: it stands at the op, parked at it, or waits to split. -/
def reissues : FragState → Bool
  | .parked _ | .fragw .. => true
  | _ => false

/-- A halted fragment as it goes on: as it was; an op that it has yet to issue matches no breakpoint (R344). -/
def unhalted (x : Frag) : Frag :=
  match x.state with
  | .halted _ st => { x with state := st, resume := st == .ready || reissues st }
  | _ => x

/-- A halted fragment goes on. -/
def resumeFrag (s : State) (k : CoreId) (f : FragId) : State := onFrag s k f unhalted

/-- A halted strand goes on as it was. -/
def resumeStrand (s : State) (k : CoreId) (n : StrandId) : State :=
  onStrand s k n fun x =>
    match x.state with
    | .halted _ st => { x with state := st, resume := true }
    | _ => x

/-- A saved agent that was halted goes on when its team is restored. -/
def resumeImage (x : SavedCore) : SavedCore :=
  { x with
    frags := x.frags.map fun p => (p.1, unhalted p.2),
    warps := x.warps.map fun p => (p.1, { p.2 with haltReq := [] }),
    strand := x.strand.map fun y => match y.state with
      | .halted _ st => { y with state := st, resume := true }
      | _ => y }

/-- Every halted agent of a context resumes, and every halt that is asked for is withdrawn (R329, R341). -/
def resumeAll (s : State) (c : CtxId) : State :=
  let s := modCtx s c fun x => { x with dbg := { x.dbg with stopall := false } }
  (ctxTeams s c).foldl (fun s t =>
    let s := modTeam s t.id fun x => { x with image := x.image.map resumeImage }
    let s := (teamWarpsAt s t).foldl (fun s p =>
      (liveFrags (coreAt s p.1) p.2).foldl (fun s f => resumeFrag s p.1 f)
        (onWarp s p.1 p.2 fun w => { w with haltReq := [] })) s
    (teamStrandsAt s t).foldl (fun s p => resumeStrand (onStrand s p.1 p.2 fun x => { x with haltReq := none }) p.1 p.2) s) s

/-! ## Breakpoints (R343 to R345) -/

/-- The enabled breakpoints of a context at a block, in order. -/
def breaksAt (s : State) (c : CtxId) (block : Nat) : List (W64 × W64) :=
  match ctxAt s c with
  | none => []
  | some x => x.dbg.breaks.toList.filter fun b => b.2.getLsbD 10 && b.1.toNat / 32 == block / 32

/-- The slot that a breakpoint names. -/
def breakSlot (b : W64 × W64) : Nat := b.1.toNat % 8

/-- A breakpoint's condition in a lane: CP XOR CN. -/
def breakLane (b : W64 × W64) (r : LaneRegs) : Bool := predGet r.p (b.2.extractLsb' 5 3) != b.2.getLsbD 8

/-- A fragment that has arrived at breakpoints halts, or those of its lanes do in which the condition of one of them holds
(R344, R347). None when it runs on. -/
def breakFrag (s : State) (k : CoreId) (f : FragId) : Option State :=
  match fragAt (coreAt s k) f with
  | none => none
  | some x =>
    match warpAt (coreAt s k) x.warp with
    | none => none
    | some w =>
      let c := teamCtx s w.team
      let t := (tpcOf x.pc).toNat
      if x.resume then none
      else
        let hits := ((breaksAt s c t).filter fun b => breakSlot b == t % 8).map fun b =>
          (if b.2.getLsbD 9 then maskOf fun l => laneIn x.mask l && breakLane b w.lanes[l] else x.mask, b.2.getLsbD 11)
        let hits := hits.filter fun h => h.1 != 0#32
        let m := hits.foldl (fun m h => m ||| h.1) 0#32
        if m = 0#32 then none
        else
          let s := if m = x.mask then haltFrag s k f 1 else haltLanes s k f m 1
          some (if hits.any (·.2) then stopAll s c else s)

/-- The lowest slot of a bundle with an enabled breakpoint, and whether a breakpoint of the bundle starts a stop-all: reaching the bundle
matches each of them (R345, R347). -/
def breakBundle (s : State) (c : CtxId) (pc : W64) : Option (Nat × Bool) :=
  match breaksAt s c pc.toNat with
  | [] => none
  | b :: bs =>
    let low := bs.foldl (fun m y => min m (breakSlot y)) (breakSlot b)
    some (low, (b :: bs).any fun y => y.2.getLsbD 11)

end Sys2Proof.Machine
end

