-- ==== Sys2Proof/Machine/Tile.lean ====
section
/-! DEFINITION. The checks, timing and undo log that every tile op shares, and the TV, TR and SF units
(R18 to R23, R33, R116 to R124, R128, R311, R312). -/

namespace Sys2Proof.Machine

/-! ## A strand's view of its tiles -/

/-- A team tile as a bundle reads it: with the results that are due (R19). -/
def viewTile (e : StrandEnv) (t : Nat) : Tile :=
  (e.st.pend.filter fun p => p.due ≤ e.st.clock).foldl (fun x p => (pendTile t x p).getD x)
    ((tileAt e.c e.st.team t).getD { owner := ownFree })

/-- The fixed-latency writes of a tile that are not due (R20). -/
def notDue (e : StrandEnv) (t : Nat) : List Pend := e.st.pend.filter fun p => pendNames t p && decide (e.st.clock < p.due)

/-- A pending write of the matrix engine. -/
def isMx (p : Pend) : Bool := match p.dst with | .tile _ mx _ => mx | _ => false

/-- A result of the tile is due and has not arrived (R23). -/
def dueLate (e : StrandEnv) (t : Nat) : Bool :=
  e.st.pend.any fun p => pendNames t p && p.due ≤ e.st.clock && decide (e.c.cycle < p.arrive)

/-- A load or TLD of an earlier bundle has not landed in a tile (R22, R126). -/
def tldBefore (s : State) (e : StrandEnv) (t : Nat) : Bool :=
  tldPending { s with reqs := s.reqs.filter fun r => !(r.who == .strand e.k e.n && r.wisn == BitVec.ofNat 64 e.st.clock) } e.k e.st.team t

/-- What stands between a tile op and its execution. -/
inductive Gate where
  | ok
  | trap (t : TrapInfo)
  | stall (r : Stall)

/-- ABSY on a tile: it names the op whose result is due first; of two that are due together, the one of the lower slot (R20, R298;
log entry 76). -/
def trapAbsy (e : StrandEnv) (t : Nat) : TrapInfo :=
  { cls := .absy, synd := ((notDue e t).head?.map (·.pc)).getD 0, unit := e.slot.val,
    coord := BitVec.ofNat 64 (t % 512 * 2 ^ 48) }

/-- The tiles that raise OWN: outside the quota, or not held (R11, R33). -/
def notHeld (e : StrandEnv) (t : Nat) : Bool :=
  match tileAt e.c e.st.team t with
  | some x => x.owner != ownHeld (holderStrand e.n)
  | none => true

/-- The unit of a slot 2 to 5, and its busy window in bundle clocks (R18, R21). -/
def slotUnit (n : Slot) : Fin 4 := Fin.ofNat 4 (n.val - 2)

/-- Checks 5 to 7 of R33 and the landing and unit stalls, over the tiles a slot reads and writes; `mx` is an accumulator
that a pending matrix write does not block (R20, R112). A TLD of the slot's own bundle is not yet pending (R15). When
several tiles offend, the trap names the first of `tiles`: D, A, B and scales for MX, sources before D for TV, TR and SF
(DESIGN CHOICE, log entry 76). Results that are due and have not arrived hold back only what reads them: `reads` (R23, R32). -/
def tileGate (s : State) (e : StrandEnv) (unit : Bool) (tiles reads : List Nat) (mx : Option Nat) : Gate :=
  let u := slotUnit e.slot
  if unit && decide (e.st.clock < e.st.busy[u]) then
    .trap { cls := .sched, synd := BitVec.ofNat 64 ((e.st.busy[u] - e.st.clock) % 256), unit := e.slot.val }
  else
    match tiles.find? (notHeld e) with
    | some t => .trap (trapOwn t ((tileAt e.c e.st.team t).elim 0 (·.owner)) e.slot.val)
    | none =>
      match tiles.find? fun t => !(notDue e t).isEmpty && !(mx == some t && (notDue e t).all isMx) with
      | some t => .trap (trapAbsy e t)
      | none =>
        if tiles.any (tldBefore s e) || reads.any (dueLate e) then .stall .landing
        else if unit && decide (e.c.cycle < e.c.unitFree[u]) then .stall (.unit e.slot)
        else .ok

/-- A gate passed, or the slot's trap or stall. -/
def gated (s : State) (e : StrandEnv) (g : Gate) (body : Out) : Out :=
  match g with
  | .ok => body
  | .trap t => strandFault s e t
  | .stall r => strandStall s e r

/-! ## Suspect and poisoned operands (R304, R312) -/

/-- The first suspect or poisoned tile among the operands is consumed; otherwise the body runs. -/
def consume (s : State) (e : StrandEnv) (srcs : List Nat) (body : Out) : Out :=
  match srcs.find? fun t => (viewTile e t).suspect || (viewTile e t).poison with
  | some t => strandPoison s e (tileSeh t (viewTile e t) 1)
  | none => body

/-! ## The undo log (R311) -/

/-- The tiles that an op of an open segment writes enter the undo log; none when it would hold more than 16. -/
def logTiles (s : State) (e : StrandEnv) (ts : List Nat) : Option State :=
  if !e.st.segOpen then some s
  else
    match strandAt (coreAt s e.k) e.n with
    | none => some s
    | some st =>
      let new := (ts.filter fun t => !st.undo.any fun u => u.1 == t).eraseDups
      if st.undo.length + new.length > 16 then none
      else some (onStrand s e.k e.n fun x => { x with undo := x.undo ++ new.map fun t => (t, viewTile e t) })

/-- SEGOVF of the tile limit (R298, R311). -/
def trapSegTiles (e : StrandEnv) : TrapInfo := { cls := .segovf, synd := 1, unit := e.slot.val }

/-- A tile loses its marks when an op overwrites it wholly (R305). -/
def unmark (s : State) (e : StrandEnv) (t : Nat) : State :=
  modCore s e.k fun c => modTile c e.st.team t fun x => { x with suspect := false, poison := false, spot := 0 }

/-- A unit issues: its busy window, its results, and the undo log (R18, R21, R311). -/
def unitIssue (s : State) (e : StrandEnv) (busy lat : Nat) (outs : List (Nat × PendDst)) (whole : List Nat) : Out :=
  match logTiles s e (outs.map (·.1)) with
  | none => strandFault s e (trapSegTiles e)
  | some s =>
    let u := slotUnit e.slot
    let s := whole.foldl (fun s t => unmark s e t) s
    let s := onStrand s e.k e.n fun x => { x with busy := x.busy.set u (e.st.clock + busy) }
    let s := modCore s e.k fun c => { c with unitFree := c.unitFree.set u (e.c.cycle + busy) }
    .next (outs.foldl (fun s o => pendAdd s e lat o.2) s)

/-! ## Elements under VT (R107, R116) -/

/-- VT of an MXCFG. -/
def cfgVt (cfg : W64) : Nat := (cfg.extractLsb' 41 4).toNat

/-- Element width under a VT. -/
def vtWidth (vt : Nat) : Nat := if vt = 0 then 32 else if vt ≤ 2 then 16 else 8
/-- Element columns of a tile under a VT. -/
def vtCols (vt : Nat) : Nat := 1024 / vtWidth vt

/-- The elements of a tile, row after row. -/
def tileElems (w : Nat) (d : TileData) : List Nat := (List.range (16384 / w)).map fun i => tileBits d (w * i) w

/-- A tile from its elements by row and column. -/
def tileOf (vt : Nat) (f : Nat → Nat → Nat) : TileData :=
  let c := vtCols vt
  tileOfElems (vtWidth vt) ((List.range (16 * c)).map fun i => f (i / c) (i % c))

/-- An op of the TV, TR or SF unit: VT, the checks, the operands' marks, and a whole new tile (R116, R128). -/
def tileOp (i : Instr) (g : Guard) (d : Reg) (srcs : List Reg) (moves : Bool) (busy lat : Nat) (s : State)
    (res : StrandEnv → Nat → (Nat → TileData) → TileData) : Out :=
  strandOp i g s fun e s =>
    let vt := cfgVt (viewMxcfg e.st)
    if vt > (if moves then 4 else 2) then strandFault s e (trapIllop i.encode e.slot.val)
    else
      let rd := srcs.map (tileNum e)
      let td := tileNum e d
      gated s e (tileGate s e true (rd ++ [td]) rd none)
        (consume s e rd
          (unitIssue s e busy lat [(td, .tile td false (res e vt fun n => (viewTile e (rd.getD n 0)).data))] [td]))

/-- A TV op: 2 beats, 4 bundles (R119). -/
def tvOp (i : Instr) (g : Guard) (d : Reg) (srcs : List Reg) (moves : Bool) (s : State)
    (res : StrandEnv → Nat → (Nat → TileData) → TileData) : Out := tileOp i g d srcs moves 2 4 s res

/-- An element-wise TV op on A, B and D in the arithmetic of VT (R117, R119). -/
def tvElem (i : Instr) (g : Guard) (d a b : Reg) (useD : Bool) (s : State) (f : Fmt → Nat → Nat → Nat → Nat) : Out :=
  tvOp i g d ([a, b] ++ if useD then [d] else []) false s fun _ vt src =>
    let w := vtWidth vt
    let x := tileElems w (src 0)
    let y := tileElems w (src 1)
    let z := if useD then tileElems w (src 2) else x
    tileOfElems w ((x.zip (y.zip z)).map fun p => f (codeFmt vt) p.1 p.2.1 p.2.2)

/-! ## The TV group (R119, R120) -/

/-- TADD. -/
def execTadd (g : Guard) (d a b : Reg) (s : State) : Out :=
  tvElem (.tadd g d a b) g d a b false s fun f x y _ => (fAdd f .rne x y).1

/-- TSUB. -/
def execTsub (g : Guard) (d a b : Reg) (s : State) : Out :=
  tvElem (.tsub g d a b) g d a b false s fun f x y _ => (fSub f .rne x y).1

/-- TMUL. -/
def execTmul (g : Guard) (d a b : Reg) (s : State) : Out :=
  tvElem (.tmul g d a b) g d a b false s fun f x y _ => (fMul f .rne x y).1

/-- TFMA: A x B + D with one rounding; D is also a source. -/
def execTfma (g : Guard) (d a b : Reg) (s : State) : Out :=
  tvElem (.tfma g d a b) g d a b true s fun f x y z => (fFma f .rne x y z).1

/-- TMAX. -/
def execTmax (g : Guard) (d a b : Reg) (s : State) : Out :=
  tvElem (.tmax g d a b) g d a b false s fun f x y _ => (fMax f x y).1

/-- TMIN. -/
def execTmin (g : Guard) (d a b : Reg) (s : State) : Out :=
  tvElem (.tmin g d a b) g d a b false s fun f x y _ => (fMin f x y).1

/-- TSCLR: each row scaled by its element of the row vector. -/
def execTsclr (g : Guard) (d a b : Reg) (s : State) : Out :=
  tvOp (.tsclr g d a b) g d [a, b] false s fun _ vt src =>
    let w := vtWidth vt
    let c := vtCols vt
    tileOf vt fun r k => (fMul (codeFmt vt) .rne (tileBits (src 0) (w * (r * c + k)) w) (tileBits (src 1) (w * (r * c)) w)).1

/-- TSCLC: each column scaled by its element of the column vector. -/
def execTsclc (g : Guard) (d a b : Reg) (s : State) : Out :=
  tvOp (.tsclc g d a b) g d [a, b] false s fun _ vt src =>
    let w := vtWidth vt
    let c := vtCols vt
    tileOf vt fun r k => (fMul (codeFmt vt) .rne (tileBits (src 0) (w * (r * c + k)) w) (tileBits (src 1) (w * k) w)).1

/-- TCPY. -/
def execTcpy (g : Guard) (d a : Reg) (s : State) : Out :=
  tvOp (.tcpy g d a) g d [a] true s fun _ _ src => src 0

/-- TFILL: the low bits of S[A] in every element. -/
def execTfill (g : Guard) (d a : Reg) (s : State) : Out :=
  tvOp (.tfill g d a) g d [] true s fun e vt _ => tileOf vt fun _ _ => (opA e a).toNat % 2 ^ vtWidth vt

/-- A mask word keeps element (r, c) (R120). -/
def maskKeeps (m : W64) (r c : Nat) : Bool :=
  let off := (m.extractLsb' 0 32).toInt
  match (m.extractLsb' 32 2).toNat with
  | 0 => decide ((c : Int) ≤ r + off)
  | 1 => decide ((c : Int) ≥ r + off)
  | 2 => decide ((c : Int) < off)
  | _ => decide ((r : Int) < off)

/-- TMSK. -/
def execTmsk (g : Guard) (d a b : Reg) (s : State) : Out :=
  tvOp (.tmsk g d a b) g d [a] false s fun e vt src =>
    let w := vtWidth vt
    let m := opB e b
    let fill := if m.getLsbD 34 then 0 else infBits (codeFmt vt) true
    tileOf vt fun r k => if maskKeeps m r k then tileBits (src 0) (w * (r * vtCols vt + k)) w else fill

/-! ## TCVT (R121) -/

/-- Elements of a tile row in a format (R43). -/
def rowElems (code : Nat) : Nat :=
  match code with
  | 0 => 32 | 1 | 2 => 64 | 6 | 8 => 256 | _ => 128

/-- Scale bytes that a target writes. -/
def scaleBytes (tgt : Nat) : Nat :=
  match tgt with
  | 5 => 64 | 6 => 128 | 7 => 256 | _ => 0

/-- A scale stream's byte as window index and byte of its tile (R109). -/
def streamByte (first off s : Nat) : Nat × Nat := (first + (64 * off + s) / 2048, (64 * off + s) % 2048)

/-- The team tiles that the first `n` bytes of a stream touch. -/
def streamTiles (twb first off n : Nat) : List Nat :=
  if n = 0 then []
  else (List.range ((64 * off + n - 1) / 2048 - 64 * off / 2048 + 1)).map fun i => twb + first + 64 * off / 2048 + i

/-- A tile of consecutive groups: the data, and the scale bytes (R39, R41 to R43). -/
def tcvtGroups (r : FormatRec) (xs : List Val) : TileData × List Byte :=
  if r.tgt ≤ 4 then
    let w := (codeFmt r.tgt).eb + (codeFmt r.tgt).mb + 1
    (tileOfElems w ((xs.zip (List.range xs.length)).map fun p => (convertOne r p.1 p.2).1), [])
  else
    let b := blockSize r.tgt
    let bs := (List.range (xs.length / b)).map fun i => convertBlock r ((xs.drop (b * i)).take b) (b * i)
    match r.tgt with
    | 5 => (tileOfElems 8 (bs.flatMap (·.elems)), bs.map fun x => BitVec.ofNat 8 x.scale)
    | 6 => (tileOfElems 4 (bs.flatMap (·.elems)), bs.map fun x => BitVec.ofNat 8 x.scale)
    | 7 => (tileOfElems 8 (bs.flatMap (·.elems)), bs.flatMap fun x => [BitVec.ofNat 8 x.scale, BitVec.ofNat 8 x.mb])
    | _ => (tileOfElems 64 (bs.map fun x =>
        x.elems.foldr (fun v acc => acc * 8 + v) 0 + 2 ^ 48 * x.mb + 2 ^ 56 * x.scale), [])

/-- The source elements of a conversion, row by row of the destination. -/
def tcvtSource (r : FormatRec) (tile : Nat → TileData) : List Val :=
  let es := rowElems r.src
  let ed := rowElems r.tgt
  let w := vtWidth r.src
  (List.range (16 * ed)).map fun n =>
    let row := n / ed
    let k := n % ed
    unpack (codeFmt r.src) (tileBits (tile (k / es)) (w * (row * es + k % es)) w)

/-- The scale bytes of a conversion as pending writes into their tiles. -/
def scaleWrites (twb first off : Nat) (bs : List Byte) : List (Nat × PendDst) :=
  (streamTiles twb first off bs.length).map fun t =>
    let mine := (bs.zip (List.range bs.length)).filter fun p => twb + (streamByte first off p.2).1 == t
    (t, .bytes t ((mine.head?.map fun p => (streamByte first off p.2).2).getD 0) (mine.map (·.1)))

/-- TCVT: its record is read at bundle start; the checks cover every tile it names (R121). Before an ALIGN, MEMV or poison
of a record that could not be read, the tiles A and D are checked for OWN and ABSY, as for a reserved TGT; and with a reserved SRC, or a TGT narrower than SRC, A, D and
the tiles of the scales. Where the scales lie in D itself, their bytes remain over the data (DESIGN CHOICE, log entry 76). -/
def execTcvt (g : Guard) (d a b : Reg) (s : State) : Out :=
  strandOp (.tcvt g d a b) g s fun e s =>
    let cfg := viewMxcfg e.st
    let cs := (cfg.extractLsb' 30 6).toNat
    let cso := (cfg.extractLsb' 36 5).toNat
    let twb := (viewTwb e.st).toNat
    let td := tileNum e d
    let ta := tileNum e a
    let illop := trapIllop e.i.encode e.slot.val
    let early := gated s e (tileGate s e true [ta, td] [ta] none)
    match readRecord s (strandIssue s e) e.i (opB e b) 6 64 fun l => queuedBytes s e l 64 with
    | .absent ls => early (strandStall s e (.presence ls))
    | .pager va => early (strandPager s e va)
    | .wait => early (strandStall s e .landing)
    | .trap t => early (strandFault s e t)
    | .poison s' u => early (strandPoison s' e (poisonInfo u 0))
    | .ok s' raw =>
      let r := formatRec raw
      let p := if r.src ≤ 2 && r.tgt ≤ 8 then max 1 (rowElems r.tgt / rowElems r.src) else 1
      let srcs := (List.range p).map fun i => ta + i
      let scales := if r.tgt ≤ 8 then streamTiles twb cs cso (scaleBytes r.tgt) else []
      gated s' e (tileGate s' e true (srcs ++ [td] ++ scales) srcs none)
        (if formatBad r || rowElems r.tgt < rowElems r.src then strandFault s' e illop
         else
          let (data, bs) := tcvtGroups r (tcvtSource r fun i => (viewTile e (ta + i)).data)
          consume s' e srcs
            (unitIssue s' e 2 4 ((td, .tile td false data) :: scaleWrites twb cs cso bs) [td]))

/-! ## The TR group (R122, R123) -/

/-- A TR op: 4 beats, 6 bundles. -/
def trOp (i : Instr) (g : Guard) (d a : Reg) (moves : Bool) (s : State) (res : Nat → TileData → TileData) : Out :=
  tileOp i g d [a] moves 4 6 s fun _ vt src => res vt (src 0)

/-- An element of a tile. -/
def elemAt (vt : Nat) (x : TileData) (r c : Nat) : Nat := tileBits x (vtWidth vt * (r * vtCols vt + c)) (vtWidth vt)

/-- A row vector of a reduction over columns. -/
def rowReduce (vt : Nat) (x : TileData) (f : Fmt → List Val → Val) : TileData :=
  let fm := codeFmt vt
  tileOf vt fun r c => if c = 0 then (roundTo fm .rne (f fm ((List.range (vtCols vt)).map fun k => unpack fm (elemAt vt x r k)))).1 else 0

/-- A column vector of a reduction over rows. -/
def colReduce (vt : Nat) (x : TileData) (f : Fmt → List Val → Val) : TileData :=
  let fm := codeFmt vt
  tileOf vt fun r c => if r = 0 then (roundTo fm .rne (f fm ((List.range 16).map fun k => unpack fm (elemAt vt x k c)))).1 else 0

/-- The largest of some terms. -/
def maxAll (_ : Fmt) : List Val → Val
  | [] => .fin false 0 0
  | v :: vs => vs.foldl valMax v

/-- TRMAX. -/
def execTrmax (g : Guard) (d a : Reg) (s : State) : Out :=
  trOp (.trmax g d a) g d a false s fun vt x => rowReduce vt x maxAll

/-- TRSUM: formed exactly and rounded once. -/
def execTrsum (g : Guard) (d a : Reg) (s : State) : Out :=
  trOp (.trsum g d a) g d a false s fun vt x => rowReduce vt x fun _ vs => valSum vs

/-- TCMAX. -/
def execTcmax (g : Guard) (d a : Reg) (s : State) : Out :=
  trOp (.tcmax g d a) g d a false s fun vt x => colReduce vt x maxAll

/-- TCSUM. -/
def execTcsum (g : Guard) (d a : Reg) (s : State) : Out :=
  trOp (.tcsum g d a) g d a false s fun vt x => colReduce vt x fun _ vs => valSum vs

/-- TTRN: each 16 x 16 square transposed. -/
def execTtrn (g : Guard) (d a : Reg) (s : State) : Out :=
  trOp (.ttrn g d a) g d a true s fun vt x => tileOf vt fun r c => elemAt vt x (c % 16) (c / 16 * 16 + r)

/-- TBCR: column 0 broadcast along rows. -/
def execTbcr (g : Guard) (d a : Reg) (s : State) : Out :=
  trOp (.tbcr g d a) g d a true s fun vt x => tileOf vt fun r _ => elemAt vt x r 0

/-- TBCC: row 0 broadcast along columns. -/
def execTbcc (g : Guard) (d a : Reg) (s : State) : Out :=
  trOp (.tbcc g d a) g d a true s fun vt x => tileOf vt fun _ c => elemAt vt x 0 c

/-! ## The SF group (R124) -/

/-- An SF op: 8 beats, 12 bundles; each element widened, computed as FP32 and rounded to VT. -/
def sfOp (i : Instr) (g : Guard) (d a : Reg) (f : Fun) (s : State) : Out :=
  tileOp i g d [a] false 8 12 s fun _ vt src =>
    let fm := codeFmt vt
    let w := vtWidth vt
    tileOfElems w ((tileElems w (src 0)).map fun x =>
      let y := (roundTo fp32 .rne (unpack fm x)).1
      (convert fp32 fm .rne (funResult f true (BitVec.ofNat 32 y)).1).1)

/-- SEXP2. -/
def execSexp2 (g : Guard) (d a : Reg) (s : State) : Out := sfOp (.sexp2 g d a) g d a .exp2 s
/-- SLOG2. -/
def execSlog2 (g : Guard) (d a : Reg) (s : State) : Out := sfOp (.slog2 g d a) g d a .log2 s
/-- SRCP. -/
def execSrcp (g : Guard) (d a : Reg) (s : State) : Out := sfOp (.srcp g d a) g d a .rcp s
/-- SRSQ. -/
def execSrsq (g : Guard) (d a : Reg) (s : State) : Out := sfOp (.srsq g d a) g d a .rsq s
/-- STANH. -/
def execStanh (g : Guard) (d a : Reg) (s : State) : Out := sfOp (.stanh g d a) g d a .tanh s

end Sys2Proof.Machine
end

