-- ==== Sys2Proof/Machine/Bundle.lean ====
section
/-! DEFINITION. Code and bundles: fetch (R29, R61, R211), the slots of a bundle (R12, R13), what a bundle or an op waits for
(R22, R23, R162, R226, R227, R367), the end of a bundle (R26, R98 to R100), the nullifier (R31, R32), segments and rewind
(R309 to R312), and the stop of a strand (R306). -/

namespace Sys2Proof.Machine

/-! ## Code -/

/-- What an agent finds at a code address. -/
inductive Code where
  | ok (s : State) (bs : List Byte)
  /-- The pager is to bring the page in. -/
  | pager (va : W64)
  | trap (t : TrapInfo)
  /-- The walk, or the read of the code, waits at an engine-pending line (R193, R202, R382). -/
  | wait

/-- The address lies in the code region of a team's grid, in the global window (R29, R188). -/
def inRegion (s : State) (team : Nat) (a : W64) : Bool :=
  match teamGrid s team with
  | some g => recBits g.raw 0x10 0 64 ≤ a.toNat && a.toNat < recBits g.raw 0x18 0 64 && a.toNat / 4503599627370496 == 0
  | none => false

/-- Code in a line with an engine's or a host port's write under way is not read yet (R202, R382). -/
def codePending (s : State) (l : Loc) : Bool := match l with | .dev c => linePending s (lineOf c) | _ => false

/-- `n` code bytes at an address that must be a multiple of `align`, for the lanes of a mask (R27, R29, R211). -/
def fetchCode (s : State) (k : CoreId) (team : Nat) (a : W64) (align n : Nat) (lanes : LaneMask) (unit : Nat) : Code :=
  if a.toNat % align ≠ 0 || !inRegion s team a then .trap (trapFetch a unit)
  else
    let c := teamCtx s team
    match translate s k c .fetch a.toNat with
    | .pager _ => .pager a
    | .wait => .wait
    | .bad r => .trap (trapMemv a r lanes unit)
    | .ok l _ _ =>
      let s := noteWalk s k c a.toNat
      if codePending s l then .wait
      else match locBytes s l n with
        | some bs => .ok s bs
        | none => let (s, bs) := freeBytes s n; .ok s bs

/-- The next op of a fragment. -/
inductive NextOp where
  | op (s : State) (i : Instr)
  | illop (s : State) (w : W32)
  | pager (va : W64)
  | trap (t : TrapInfo)
  | wait

/-- The op at a fragment's PC, with its extension word (R27, R61, R64). -/
def nextOp (s : State) (k : CoreId) (x : Frag) : NextOp :=
  let team := match warpAt (coreAt s k) x.warp with | some w => w.team | none => 0
  match fetchCode s k team x.pc 4 4 x.mask 8 with
  | .pager va => .pager va
  | .trap t => .trap t
  | .wait => .wait
  | .ok s bs =>
    match decode .warp (wordAt bs) 0 with
    | .error _ => .illop s (wordAt bs)
    | .ok i =>
      if !i.isLong then .op s i
      else
        match fetchCode s k team (x.pc + 4) 4 4 x.mask 8 with
        | .pager va => .pager va
        | .trap t => .trap t
        | .wait => .wait
        | .ok s ext =>
          match decode .warp (wordAt bs) (wordAt ext) with
          | .ok i => .op s i
          | .error _ => .illop s (wordAt bs)

/-! ## The slots of a bundle -/

/-- What a slot's word is. -/
inductive SlotOp where
  /-- The extension word of the slot before it (R13). -/
  | ext
  | op (i : Instr)
  | bad (w : W32)
  deriving DecidableEq, Repr, Inhabited

/-- The word of a slot (R12). -/
def slotWord (bs : List Byte) (n : Nat) : W32 := wordAt (bs.drop (4 * n))

/-- A slot's word decoded by itself. -/
def slotDecode (bs : List Byte) (n : Slot) : Option Instr :=
  match decode (.slot n) (slotWord bs n.val) (slotWord bs (n.val + 1)) with
  | .ok i => some i
  | .error _ => none

/-- A slot of a bundle. -/
def slotOp (bs : List Byte) (n : Slot) : SlotOp :=
  if (n == 1 && (slotDecode bs 0).any Instr.isLong) || (n == 7 && (slotDecode bs 6).any Instr.isLong) then .ext
  else match slotDecode bs n with
    | some i => .op i
    | none => .bad (slotWord bs n.val)

/-- All slots, ascending. -/
def allSlots : List Slot := List.finRange 8

/-- The lowest slot that fails decode (R33). -/
def badSlot (bs : List Byte) : Option (Slot × W32) :=
  allSlots.findSome? fun n => match slotOp bs n with | .bad w => some (n, w) | _ => none

/-- NOP. -/
def isNop : Instr → Bool
  | .nop _ => true
  | _ => false

/-- The guard field of an op. -/
def guardOf (i : Instr) : Guard := fGuard i.encode

/-- A slot's op executes: its guard holds, or it has none (R25). -/
def slotOn (st : Strand) (n : Slot) (i : Instr) : Bool :=
  guardless i || (match st.replay[n] with | some r => r.g | none => viewGuard st (guardOf i))

/-- A slot holds an op to be executed: neither NOP nor guarded off. The slot of an extension word holds none: the loop counters
count it EMPTY (DESIGN CHOICE, log entry 79: R100 does not say). -/
def slotActive (st : Strand) (bs : List Byte) (n : Slot) : Bool :=
  match slotOp bs n with
  | .op i => !isNop i && slotOn st n i
  | .ext | .bad _ => false

/-- A slot is done (R306). -/
def slotDone (st : Strand) (n : Slot) : Bool := st.done.getLsbD n.val

/-- The slots that are still to be issued: not done, and not found faulting in this bundle. -/
def slotsLeft (st : Strand) (bs : List Byte) : List Slot :=
  allSlots.filter fun n => !slotDone st n && slotActive st bs n && !st.fx.faults.any fun f => f.1 == n

/-- A set of slots as a mask. -/
def slotMask (p : Slot → Bool) : BitVec 8 := allSlots.foldl (fun m n => if p n then m ||| (1#8 <<< n.val) else m) 0

/-- The operands that a slot reads at bundle start; a predicate stands in bit 0 of its word (R306, R307). -/
def takeReplay (st : Strand) (i : Instr) : Replay :=
  let w := i.encode
  let pred := fun (p : Pred) => if viewP st p then 1#64 else 0#64
  let (a, b) := match i with
    | .pand _ _ pa pb | .por _ _ pa pb | .pxor _ _ pa pb | .pandn _ _ pa pb => (pred pa, pred pb)
    | .ret _ => (viewS st 62, viewS st (fB w))
    | _ => (viewS st (fA w), viewS st (fB w))
  { a := a, b := b, d := viewS st (fD w), e := viewS st (fD w + 1), g := viewGuard st (guardOf i) }

/-- Replay records for the slots of a set; a slot that has one keeps it. -/
def takeReplays (st : Strand) (bs : List Byte) (p : Slot → Bool) : Vector (Option Replay) 8 :=
  Vector.ofFn fun n =>
    if !p n then none
    else match st.replay[n], slotOp bs n with
      | some r, _ => some r
      | none, .op i => if isNop i then none else some (takeReplay st i)
      | none, _ => none

/-! ## What a bundle waits for (R22, R23, R227, R367) -/

/-- The S registers of a strand with a variable-latency write pending (R22). -/
def flyingRegs (s : State) (k : CoreId) (n : StrandId) : List Reg :=
  ((s.reqs.filter fun r => r.who == .strand k n).flatMap fun r => (reqDests r).flatMap destRegs) ++
    match strandAt (coreAt s k) n with | some x => x.holds.flatMap fun h => (usesOf false h.i).dsts | none => []

/-- A due result of an S register has not physically arrived (R23). -/
def lateReg (st : Strand) (r : Reg) : Bool :=
  st.pend.any fun p => p.due ≤ st.clock && (match p.dst with | .sreg q _ => q == r | _ => false)
/-- A due result of a predicate has not physically arrived. -/
def latePred (st : Strand) (i : Pred) : Bool :=
  st.pend.any fun p => p.due ≤ st.clock && (match p.dst with | .pred q _ => q == i | _ => false)

/-- The S registers that a slot writes: those of its fields, and the one that NXT delivers to (R22, R266). -/
def slotDsts (st : Strand) (i : Instr) : List Reg :=
  (usesOf false i).dsts ++ match i with | .nxt .. => [BitVec.ofNat 6 (56 + st.nxt.toNat)] | _ => []

/-- A slot waits for a result, once the results that are due have landed (R22, R23, R25). -/
def slotWaits (s : State) (k : CoreId) (n : StrandId) (st : Strand) (bs : List Byte) (m : Slot) : Bool :=
  match slotOp bs m with
  | .op i =>
    if isNop i || slotDone st m then false
    else
      let u := usesOf false i
      let fly := flyingRegs s k n
      let live := (st.replay[m]).isNone
      (live && latePred st (guardOf i).pr) ||
        (slotOn st m i &&
          ((slotDsts st i).any fly.contains ||
            (live && (u.srcs.any (fun r => fly.contains r || lateReg st r) || u.psrc.any (latePred st)))))
  | .ext | .bad _ => false

/-- A task op that holds only a bundle that needs its status (R22); a JARR or IRREV holds every bundle until its end (R280,
R281). -/
def holdsStatus (h : Hold) : Bool := match h.i with | .launch .. | .jnew .. => true | _ => false

/-- A strand waits for what an earlier bundle has begun: a JARR or IRREV, a release, a fence, tokens, or an acquire before a
memory op (R227, R235, R280, R281, R367). -/
def earlierWaits (s : State) (k : CoreId) (n : StrandId) (st : Strand) (bs : List Byte) : Bool :=
  let mine := s.reqs.filter fun r => r.who == .strand k n && (match r.op with | .engine .. => false | _ => true)
  let memory := allSlots.any fun m => slotActive st bs m && (match slotOp bs m with | .op i => isMemory i | _ => false)
  !st.holds.all holdsStatus || mine.any fun r => r.held || r.rel.isSome ||
    (memory && st.done == 0 && (match r.op with | .load _ true _ => true | .fence .. => true | _ => false))

/-! ## Loop counters (R100, R355) -/

/-- A counter's next value, saturating. -/
def satInc (x : W32) : W32 := if x = 0xFFFFFFFF#32 then x else x + 1

/-- The strand's body bundles are counted: the loop stack is not empty and, in MODE 1, holds the entry that LADDR names. -/
def loopsCounted (sel : W64) (loops : List LoopEntry) : Bool :=
  !loops.isEmpty && (!sel.getLsbD 0 || loops.any fun l => l.start.toNat == sel.toNat / 32 * 32 + 32)

/-- A strand number's counters changed. -/
def modCounters (c : Core) (n : StrandId) (g : LoopCounters → LoopCounters) : Core :=
  { c with loopCtr := c.loopCtr.set n (g c.loopCtr[n]) }

/-- A body bundle counted: FILLED of the slots of a set, EMPTY of the others. -/
def countBody (c : Core) (n : StrandId) (loops : List LoopEntry) (filled : Slot → Bool) : Core :=
  modCounters c n fun x =>
    if !loopsCounted x.sel loops then x
    else
      { x with filled := Vector.ofFn fun m => if filled m then satInc x.filled[m] else x.filled[m],
               empty := Vector.ofFn fun m => if filled m then x.empty[m] else satInc x.empty[m] }

/-- A cycle of a body bundle's wait counted to the slots that it waits for. -/
def countStall (c : Core) (n : StrandId) (loops : List LoopEntry) (late : Slot → Bool) : Core :=
  modCounters c n fun x =>
    if !loopsCounted x.sel loops then x
    else { x with stall := Vector.ofFn fun m => if late m then satInc x.stall[m] else x.stall[m] }

/-! ## The end of a bundle (R17, R26, R98) -/

/-- The loop step at the end of a bundle: the entries left, and the back-edge's target. -/
def loopEnd (a : W64) : List LoopEntry → List LoopEntry × Option W64
  | [] => ([], none)
  | t :: ts =>
    if t.stop ≠ a then (t :: ts, none)
    else if 1 < t.count.toNat then ({ t with count := t.count - 1 } :: ts, some t.start)
    else loopEnd a ts

/-- The save block that holds a strand's live segment logs. -/
def liveBlock (s : State) (k : CoreId) (team : Nat) : Option (CtxId × Nat) :=
  match teamAt s team with
  | none => none
  | some tm => ((tm.cores.zip tm.blocks).find? fun p => p.1 == k).map fun p => (tm.ctx, p.2)

/-- The undo log and the store queue of an open segment as the save block holds them (R311, R326). -/
def putLogs (s : State) (k : CoreId) (n : StrandId) (old : Strand) : State :=
  match strandAt (coreAt s k) n with
  | none => s
  | some x =>
    if !x.segOpen || (x.undo == old.undo && x.queue == old.queue) then s
    else
      match liveBlock s k x.team with
      | some (c, b) => putParts s c b (undoParts x ++ queueParts x)
      | none => s

/-- A team is protected (R314). -/
def teamProtected (s : State) (t : Nat) : Bool := match teamGrid s t with | some g => teamProt g | none => false

/-- The strand goes on past the bundle at PC, which has been issued or skipped: the loop step, the bundle clock, the next
address, and what the bundle's marks ask for (R17, R26, R28, R97, R98, R147, R149, R309, R346, R349). -/
def endBundle (s : State) (k : CoreId) (n : StrandId) : State :=
  match strandAt (coreAt s k) n with
  | none => s
  | some x =>
    let (loops, back) := match x.fx.target with | some _ => (x.loops, none) | none => loopEnd x.pc x.loops
    let next := match x.fx.target with | some t => t | none => back.getD (x.pc + 32)
    let seg := x.fx.segb || (x.fx.close && teamProtected s x.team)
    let y := { x with
      pc := next, clock := x.clock + 1, loops := loops, done := 0, replay := Vector.replicate 8 none, resume := false,
      stall := none, failed := none, fx := { segb := seg }, back := .ready,
      state := if x.fx.isEnd then .ending else if x.back = .ready then x.state else x.back }
    let s := modCore s k fun c =>
      let c := setStrand c n (some y)
      if x.fx.target.isSome && !x.fx.isEnd then { c with bubble := c.cycle + 2 } else c
    let kp := x.fx.killPoint || back.isSome
    if x.fx.isEnd then modCore s k fun c => if c.front == some n then switchStrand c n else c
    else if y.kill && (kp || strandAtKill y) then killStrand s k n
    else if x.stepAll then haltStrand s k n 5
    else if x.fx.watch then haltStrand s k n 3
    else if kp && x.haltReq.isSome then haltStrand s k n (x.haltReq.getD 6)
    else
      let passes := x.fx.isYield || (match y.state with | .bar _ | .rdv .. => true | _ => false)
      modCore s k fun c => if passes && c.front == some n then switchStrand c n else c

/-! ## Segments (R309 to R312) -/

/-- The wait of SEGB is over: no result of the strand is pending (R310). -/
def segDrained (s : State) (k : CoreId) (n : StrandId) (x : Strand) : Bool :=
  x.holds.isEmpty && x.pend.all (fun p => p.arrive ≤ (coreAt s k).cycle) && s.reqs.all fun r => !(r.who == .strand k n && returnsValue r)

/-- Every result of a strand has landed, whatever its due bundle clock. -/
def landAll (s : State) (k : CoreId) (n : StrandId) : State :=
  match strandAt (coreAt s k) n with
  | none => s
  | some x => (landOrder x.pend).foldl (fun s p => landPend s k n p) (onStrand s k n fun y => { y with pend := [] })

/-- The segment that a SEGB, or a closing bundle of a protected team, asks for is opened (R309, R310). -/
def startSegment (s : State) (k : CoreId) (n : StrandId) : State :=
  onStrand (landAll s k n) k n fun x => openSegment { x with fx := {} }

/-- A context fault of a strand: it stops and gives up the front end, with the record and the stop of the whole context (R147,
R308, R312). -/
def contextFault (s : State) (k : CoreId) (n : StrandId) (slot : Slot) : State :=
  match strandAt (coreAt s k) n with
  | none => s
  | some x =>
    let c := teamCtx s x.team
    let s := onStrand s k n fun y => { y with state := .stopped, stall := none, rewinding := false, fx := {} }
    let s := modCore s k fun c => if c.front == some n then switchStrand c n else c
    stopContext (strandRecord s k n 0x19 false { x.trap with pc := tpcSlot x.pc slot, addr := 0, synd := 0 } x.clock) c

/-- A strand's slot consumes poison or a suspect value, or its pair mismatches: it rewinds to the entry of its segment, once every
matrix op that it has issued has finished, or takes a context fault. It is behind from the start of its rewind (R312, R313). -/
def rewind (s : State) (k : CoreId) (n : StrandId) (slot : Slot) : State :=
  match strandAt (coreAt s k) n with
  | none => s
  | some x =>
    match x.snap with
    | none => contextFault s k n slot
    | some p =>
      if !x.segOpen || x.rewound || x.undo.any fun u => u.2.poison then contextFault s k n slot
      else if x.pend.any fun q => isMx q && decide ((coreAt s k).cycle < q.arrive) then
        onStrand s k n fun y => { y with stall := some .landing, rewinding := true, behind := true, fx := { y.fx with rewinder := slot } }
      else
        let s := { s with reqs := s.reqs.filter fun r => !(r.who == .strand k n && returnsValue r) }
        let s := modCore s k fun c => x.undo.foldl (fun c u => modTile c x.team u.1 fun y =>
          { y with data := u.2.data, suspect := false, poison := false, spot := 0, gap := 0 }) c
        onStrand s k n fun y =>
          { y with s := p.s, p := p.p, poison := p.poison, pc := p.pc, clock := p.clock, loops := p.loops, mxcfg := p.mxcfg,
                   twb := p.twb, nxt := p.nxt, pend := [], busy := Vector.replicate 4 0, stall := none, failed := none,
                   done := 0, replay := Vector.replicate 8 none, queue := [], rewound := true, rewinding := false, behind := true, fx := {},
                   replaySets := y.segSets ++ y.replaySets, segSets := [] }

/-! ## The stop of a strand (R306, R308) -/

/-- TRAP, BRK and a strand's RFT count their slot as done (R302, R306). -/
def countsDone (t : TrapInfo) : Bool := t.cls == .trap || t.cls == .brk

/-- A strand stands still within its bundle: a wait that its BAR or RDV has begun goes on when the bundle is complete (R166,
R306). -/
def leaveBack (x : Strand) : StrandState :=
  match x.state with | .bar _ | .rdv .. => x.state | _ => x.back

/-- The strand stops at slot granularity: the slots that are not done with their replay records, the trap registers of the
lowest faulting slot, the record, and the save of its team. It keeps the front end until then (R306, R308; log entry 69). -/
def stopStrand (s : State) (k : CoreId) (n : StrandId) (bs : List Byte) (faults : List (Slot × TrapInfo)) (left : List Slot) :
    State :=
  match strandAt (coreAt s k) n, faults with
  | some x, f :: fs =>
    let low := fs.foldl (fun (m : Slot × TrapInfo) g => if g.1 < m.1 then g else m) f
    let open_ := fun m => left.contains m || faults.any fun g => g.1 == m && !countsDone g.2
    let tr := trapRegsOf low.2 (tpcSlot x.pc low.1)
    let s := onStrand s k n fun y =>
      { y with state := .stopped, back := leaveBack y, stall := none, failed := none, done := ~~~(slotMask open_),
               replay := takeReplays y bs open_, trap := tr, fx := { y.fx with faults := [], stall := none, later := [] } }
    strandRecord s k n (classCode low.2.cls) true tr x.clock
  | _, _ => s

/-! ## The nullifier (R31, R32) -/

/-- A guard reads false with nothing pending on its predicate. -/
def guardQuiet (st : Strand) (g : Guard) : Bool :=
  !viewGuard st g && (g.pr == 0#3 || st.pend.all fun p => match p.dst with | .pred q _ => q != g.pr | _ => true)

/-- A bundle may be skipped: every slot is NOP, or guarded off with nothing pending. -/
def nullBundle (st : Strand) (bs : List Byte) : Bool :=
  allSlots.all fun n =>
    match slotOp bs n with
    | .op i => isNop i || (!guardless i && guardQuiet st (guardOf i))
    | .ext => true
    | .bad _ => false

/-- An issuer has gone 256 ops or bundles past op `num` (R320). -/
def farPast (now num : W64) : Bool := decide (num.toNat + 257 ≤ now.toNat)

/-- A record of an agent, or of a warp's place, is still to be written 256 ops or bundles past its op, or the store that it may yet
report is still to be performed: the agent waits (R320, R321). -/
def recordHolds (s : State) (c : CtxId) (who : AgentRef) (place : Option (CoreId × WarpIx)) (now : W64) : Bool :=
  let mine := fun (a : AgentRef) (p : Option (CoreId × WarpIx)) => if place.isSome then p == place else a == who
  (ctxAt s c).any (fun x => x.recs.any fun p => p.tail.isNone && (p.who.any fun a => mine a p.place) && farPast now p.info.wisn) ||
    s.reqs.any fun r => mine r.who r.place && r.reply.isNone && farPast now r.wisn &&
      (match r.op with | .store _ | .atomic .. | .cas .. => true | _ => false)

/-- A strand may issue: it is ready, holds the front end, its team runs, and no outstanding record holds it. -/
def strandRuns (s : State) (k : CoreId) (n : StrandId) (x : Strand) : Bool :=
  let c := coreAt s k
  x.state == .ready && c.front == some n && c.bubble ≤ c.cycle &&
    !recordHolds s (teamCtx s x.team) (.strand k n) none (BitVec.ofNat 64 x.clock) &&
    (match teamAt s x.team with | some t => t.status == .placed | none => false)

/-- The bundle of a strand skipped, if the nullifier may skip it (R31, R32). -/
def skipBundle (s : State) (k : CoreId) (n : StrandId) : Option State :=
  let s := landDue s k n
  match strandAt (coreAt s k) n with
  | none => none
  | some x =>
    if !strandRuns s k n x || x.rewinding || x.fx.segb || x.done != 0 || x.replay.toList.any Option.isSome || x.step || x.stepAll then none
    else
      match fetchCode s k x.team x.pc 32 32 1 0 with
      | .pager _ | .trap _ | .wait => none
      | .ok s bs =>
        if !nullBundle x bs || earlierWaits s k n x bs || (breakBundle s (teamCtx s x.team) x.pc).isSome then none
        else some (endBundle (modCore s k fun c => countBody c n x.loops fun _ => false) k n)

/-- NULLIFIER_SKIP: a bundle whose every slot is NOP or guarded off is passed over (R31, R32). -/
def execNullifierSkip (k : CoreId) (n : StrandId) (s : State) : Out :=
  match skipBundle s k n with
  | some t => .next t
  | none => .refused .notEnabled

/-! ## What a warp op waits for (R141, R162, R226, R367) -/

/-- The register key of a destination in a lane of a fragment: V registers, and the window's rows. -/
def destKeys (w : Warp) (m : LaneMask) : Dest → List Nat
  | .lane l r wd _ => if laneIn m l then (widthRegs true r wd).map (·.toNat) else []
  | .row t y l wd _ =>
    if laneIn m l && w.sel == some t then (widthRegs true (BitVec.ofNat 6 (48 + y)) wd).map (·.toNat) else []
  | .none | .sreg .. | .tile .. => []

/-- A fragment's next op waits for a result (R162). -/
def fragDepends (s : State) (k : CoreId) (x : Frag) (i : Instr) : Bool :=
  let u := usesOf true i
  let now := (coreAt s k).cycle
  let keys := (u.srcs ++ u.dsts).map (·.toNat) ++ (u.psrc ++ u.pdst).map (fun p => 64 + p.toNat) ++
    (if (guardOf i).pr = 0#3 then [] else [64 + (guardOf i).pr.toNat])
  x.score.any fun q => now < q.2 && keys.contains q.1

/-- A fragment's next op waits for a loaded register (R226). -/
def fragLoads (s : State) (k : CoreId) (x : Frag) (i : Instr) : Bool :=
  let u := usesOf true i
  let keys := (u.srcs ++ u.dsts).map (·.toNat)
  match warpAt (coreAt s k) x.warp with
  | none => false
  | some w => s.reqs.any fun r => r.place == some (k, x.warp) &&
      ((reqDests r).flatMap (destKeys w x.mask)).any keys.contains

/-- A fragment's next op waits for tokens of an earlier one of its own (R367). -/
def fragTokens (s : State) (k : CoreId) (f : FragId) : Bool :=
  s.reqs.any fun r => r.held && r.issuers.contains (.frag k f) && !isEngine r.op

/-- Some lane of a fragment takes part in an op (R159). -/
def fragTakesPart (s : State) (k : CoreId) (x : Frag) (i : Instr) : Bool :=
  match warpAt (coreAt s k) x.warp with
  | some w => partsOf w x.mask (guardOf i) != 0#32
  | none => false

/-- A fragment's next op is a memory op, with a lane that takes part, that waits for an acquire of its own (R226, R228). -/
def fragAcquires (s : State) (k : CoreId) (f : FragId) (x : Frag) (i : Instr) : Bool :=
  isMemory i && fragTakesPart s k x i &&
    s.reqs.any fun r => r.issuers.contains (.frag k f) && (match r.op with | .load _ true _ => true | _ => false)

/-- A fragment's op can issue. -/
def fragCan (s : State) (k : CoreId) (f : FragId) (x : Frag) (i : Instr) : Bool :=
  !fragDepends s k x i && !fragLoads s k x i && !fragTokens s k f && !fragAcquires s k f x i

/-- A fragment may issue at all: it is ready or waits to split, its op has been fetched, its team runs, and no migration,
saving or outstanding record holds it. -/
def fragRuns (s : State) (k : CoreId) (x : Frag) : Bool :=
  (match x.state with | .ready | .fragw .. => true | _ => false) && x.fetched && !migrating s k x.warp &&
    (match warpAt (coreAt s k) x.warp with
      | some w => !w.gone && !w.stopReq && !recordHolds s (teamCtx s w.team) (.frag k 0) (some (k, x.warp)) w.wisn &&
        (match teamAt s w.team with | some t => t.status == .placed | none => false)
      | none => false)

/-- A halt that is asked for comes before an op that is a kill point, when a lane takes part in it; a step comes first (R285, R341,
R346). -/
def haltsBefore (s : State) (k : CoreId) (f : FragId) (x : Frag) (i : Instr) : Option Nat :=
  if killOp i && !x.step && fragTakesPart s k x i then haltAsked s k f else none

end Sys2Proof.Machine
end

