-- ==== Sys2Proof/Machine/Observe.lean ====
section
/-! DEFINITION. Observation (R340 to R358): the debugger's commands, the stall sampler, and the stipple sampler. -/

namespace Sys2Proof.Machine

/-! ## Debugger commands (R341) -/

/-- STATUS of a context's debug block set. -/
def setDbgStatus (s : State) (c : CtxId) (n : Byte) : State := modCtx s c fun x => { x with dbg := { x.dbg with status := n } }

/-- STATUS set, with the target of the command under way; none for a stop-all. -/
def setDbgJob (s : State) (c : CtxId) (job : Option AgentRef) (n : Byte) : State :=
  modCtx s c fun x => { x with dbg := { x.dbg with status := n, job := job } }

/-- The debug right of a context is held (R340). -/
def dbgRight (s : State) (c : CtxId) : Bool := match ctxAt s c with | some x => x.dbg.right | none => false

/-- A command of the holder of the right; without the right it is ignored (R340). -/
def dbgCommand (s : State) (c : CtxId) (body : State → State) : Out := .next (if dbgRight s c then body s else s)

/-- What a target is. -/
inductive Target where
  | absent
  | running
  | halted
  deriving DecidableEq, Repr, Inhabited

/-- A command's target: an agent of a team of the context. -/
def dbgTarget (s : State) (c : CtxId) : AgentRef → Target
  | .frag k f =>
    match fragAt (coreAt s k) f with
    | none => .absent
    | some x =>
      match warpAt (coreAt s k) x.warp with
      | none => .absent
      | some w =>
        if teamCtx s w.team ≠ c then .absent
        else match x.state with | .halted .. => .halted | _ => .running
  | .strand k n =>
    match strandAt (coreAt s k) n with
    | none => .absent
    | some x =>
      if teamCtx s x.team ≠ c then .absent
      else match x.state with | .halted .. => .halted | _ => .running

/-- Every agent of a context's resident teams has halted or is at its end: a stop-all is complete (R341, R347). -/
def allHalted (s : State) (c : CtxId) : Bool :=
  (ctxTeams s c).all fun t =>
    ((teamWarpsAt s t).all fun p => (placeFrags s p.1 p.2).all fun q => match q.2.state with | .halted .. | .stopped => true | _ => false) &&
      (teamStrandsAt s t).all fun p => (strandAt (coreAt s p.1) p.2).all fun x =>
        match x.state with | .halted .. | .stopped | .killed | .ending => true | _ => false

/-- A saved team of the context holds an agent that is to halt, or to make its step, when it is restored. -/
def haltsLater (s : State) (c : CtxId) : Bool :=
  (ctxTeams s c).any fun t => t.image.any fun x =>
    x.frags.any (fun p => p.2.step) || x.warps.any (fun p => !p.2.haltReq.isEmpty) ||
      x.strand.any fun y => y.haltReq.isSome || y.step || y.stepAll

/-- The command under way is not complete: a stop-all until every agent has halted, a halt or a step until its target has, or is gone
(R341). -/
def dbgBusy (s : State) (c : CtxId) (x : Debug) : Bool :=
  match x.job with
  | none => !allHalted s c
  | some who =>
    match dbgTarget s c who with
    | .running => true
    | .halted => false
    | .absent => haltsLater s c

/-- STATUS reads 0 from when the effect of a context's command is complete (R341). -/
def settleDebug (s : State) (c : CtxId) : State :=
  match ctxAt s c with
  | some x => if x.dbg.status = 1 && !dbgBusy s c x.dbg then setDbgStatus s c 0 else s
  | none => s

/-- STOPALL: busy until every agent has halted (R341, R347). -/
def execStopall (c : CtxId) (s : State) : Out := dbgCommand s c fun s => setDbgJob (stopAll s c) c none 1

/-- RESUMEALL (R341). -/
def execResumeall (c : CtxId) (s : State) : Out := dbgCommand s c fun s => setDbgStatus (resumeAll s c) c 0

/-- HALT: at the target's next kill point, with cause 6 (R341). -/
def execDbgHalt (c : CtxId) (who : AgentRef) (s : State) : Out :=
  dbgCommand s c fun s =>
    match dbgTarget s c who with
    | .absent => setDbgStatus s c 2
    | .halted => setDbgStatus s c 0
    | .running =>
      let s := match who with
        | .frag k f => askHalt s k f 6
        | .strand k n =>
          if (strandAt (coreAt s k) n).any strandAtKill then haltStrand s k n 6
          else onStrand s k n fun x => { x with haltReq := some 6 }
      setDbgJob s c (some who) (if dbgTarget s c who = .halted then 0 else 1)

/-- A command to a halted target (R341). -/
def dbgHalted (s : State) (c : CtxId) (who : AgentRef) (status : Byte) (body : State → State) : State :=
  match dbgTarget s c who with
  | .absent => setDbgStatus s c 2
  | .running => setDbgStatus s c 3
  | .halted => setDbgJob (body s) c (some who) status

/-- RESUME (R341, R346). -/
def execDbgResume (c : CtxId) (who : AgentRef) (s : State) : Out :=
  dbgCommand s c fun s => dbgHalted s c who 0 fun s =>
    match who with
    | .frag k f => resumeFrag s k f
    | .strand k n => resumeStrand s k n

/-- A step of a fragment begins: it goes on, and halts again after its next op (R346). -/
def stepFrag (s : State) (k : CoreId) (f : FragId) : State := onFrag (resumeFrag s k f) k f fun x => { x with step := true }

/-- STEP: the next op of a fragment, or the next slot of a strand (R341, R346). -/
def execDbgStep (c : CtxId) (who : AgentRef) (s : State) : Out :=
  dbgCommand s c fun s => dbgHalted s c who 1 fun s =>
    match who with
    | .frag k f => stepFrag s k f
    | .strand k n => onStrand (resumeStrand s k n) k n fun x => { x with step := true }

/-- STEPB: every slot that is not done of a strand's bundle; for a fragment, as STEP (R341). -/
def execDbgStepb (c : CtxId) (who : AgentRef) (s : State) : Out :=
  dbgCommand s c fun s => dbgHalted s c who 1 fun s =>
    match who with
    | .frag k f => stepFrag s k f
    | .strand k n => onStrand (resumeStrand s k n) k n fun x => { x with stepAll := true }

/-- A command code that names nothing is ignored; STATUS is 2 (R341). -/
def execDbgUnknownCommand (c : CtxId) (_code : Byte) (s : State) : Out := dbgCommand s c fun s => setDbgStatus s c 2

/-- A context's debug right is revoked: halted agents go on, breakpoints and watch ranges are disabled, ARMBRK and a
stop-all are cleared, and DBGEDIT says that an edit was made (R329, R340). -/
def revokeRight (s : State) (c : CtxId) : State :=
  match ctxAt s c with
  | none => s
  | some x =>
    let s := resumeAll s c
    let s := modCtx s c fun y => { y with dbg := { y.dbg with
      right := false, armbrk := false, stopall := false, status := if y.dbg.status = 1 then 4 else y.dbg.status, edited := false,
      breaks := y.dbg.breaks.map fun b => (b.1, b.2 &&& ~~~(0x400#64)),
      watch := y.dbg.watch.map fun b => (b.1, b.2 &&& ~~~(1#64)) } }
    if x.dbg.edited then errqFlag s c 2 true else s

/-! ## The stall sampler (R350 to R354) -/

/-- A core's sampler changed. -/
def modSampler (s : State) (k : CoreId) (g : Sampler → Sampler) : State :=
  modCore s k fun c => { c with sampler := g c.sampler }

/-- The fields of SMPCTL that a write sets: PERIOD, at least 17, and CTX (R350). -/
def smpFields (v : W64) (x : Sampler) : Sampler :=
  let n := v.extractLsb' 32 16
  { x with period := if n.toNat < 17 then 17 else n, ctx := Fin.ofNat 64 (v.extractLsb' 2 6).toNat }

/-- SAMPLER_ENABLE: SMPCTL is written with EN = 1; sampling starts with the cycle in which EN becomes 1 (R350, R351). -/
def execSamplerEnable (k : CoreId) (v : W64) (s : State) : Out :=
  if v.getLsbD 0 = false then .refused .notEnabled
  else
    let now := (coreAt s k).cycle
    .next (modSampler s k fun x =>
      let y := smpFields v x
      if x.en then y else { y with en := true, since := now, ptr := 0 })

/-- SAMPLER_DISABLE: SMPCTL is written with EN = 0; BUSY is set until TICK has passed the written records (R354). -/
def execSamplerDisable (k : CoreId) (v : W64) (s : State) : Out :=
  if v.getLsbD 0 then .refused .notEnabled
  else .next (modSampler s k fun x => { smpFields v x with en := false, busy := if x.en then x.hz else x.busy })

/-- BUSY as it reads (R354). -/
def samplerBusy (s : State) (k : CoreId) : Bool :=
  let x := (coreAt s k).sampler
  x.busy != 0 && decide (s.tick ≤ x.busy)

/-- A selected fragment's turn issues an op: it does not halt before it, and does not park at its page (R351). -/
def fragIssues (s : State) (k : CoreId) (f : FragId) (x : Frag) : Bool :=
  !x.watch && !(x.step && !x.resume) && (breakFrag s k f).isNone &&
    (match nextOp s k x with
      | .op _ i => (haltsBefore s k f x i).isNone
      | .illop .. | .trap _ => true
      | .pager _ | .wait => false)

/-- Why a fragment that is ready does not issue (R353). -/
def readyReason (s : State) (k : CoreId) (f : FragId) (x : Frag) : Nat :=
  if !x.fetched then 5
  else if migrating s k x.warp then 14
  else
    match nextOp s k x with
    | .wait => 5
    | .pager _ => if (coreAt s k).issued.contains f then 12 else 1
    | .op _ i =>
      if (coreAt s k).issued.contains f && !fragIssues s k f x then 15
      else if fragTokens s k f then 13
      else if fragAcquires s k f x i then 4
      else if fragLoads s k x i then 3
      else if fragDepends s k x i then 2
      else 1
    | _ => 1

/-- REASON of a fragment that has not issued (R353). -/
def fragReason (s : State) (k : CoreId) (f : FragId) (x : Frag) : Nat :=
  match x.state with
  | .ready => readyReason s k f x
  | .wait i c =>
    match i, c with
    | _, .take _ => 6
    | _, .await _ | _, .ring .. | _, .copyQueue => 7
    | _, .landing .. | .migr .., _ => 14
    | .jarr .., _ | .irrev _, _ | .launch .., _ | .jnew .., _ | .jwait .., _ => 8
    | _, _ => 4
  | .convw => 10
  | .barw .. => 9
  | .fragw .. => 11
  | .parked .budget => 8
  | .parked _ | .stopped => 12
  | .halted .. => 15

/-- The warp slot that is sampled: the first at or after the pointer with a resident warp of the context (R351). -/
def sampleSlot (s : State) (k : CoreId) : Option WarpIx :=
  let c := coreAt s k
  ((List.range 64).map fun i => (Fin.ofNat 68 ((c.sampler.ptr + i) % 64) : WarpIx)).find? fun w =>
    match warpAt c w with
    | some x => !x.gone && teamCtx s x.team == c.sampler.ctx
    | none => false

/-- The fragment of a warp that is sampled: one that issues in the cycle, a ready one, or any, the lowest first (R351). -/
def sampleFrag (s : State) (k : CoreId) (w : WarpIx) : Option (FragId × Frag × Bool) :=
  let c := coreAt s k
  let fs := placeFrags s k w
  let ready := fun (p : FragId × Frag) => p.2.state == .ready && readyReason s k p.1 p.2 == 1
  match fs.find? fun p => c.issued.contains p.1 && fragIssues s k p.1 p.2 with
  | some p => some (p.1, p.2, true)
  | none =>
    match fs.find? ready with
    | some p => some (p.1, p.2, false)
    | none => fs.head?.map fun p => (p.1, p.2, false)

/-- The 32 bytes of a sample record (R352). -/
def sampleBytes (s : State) (k : CoreId) (w : WarpIx) (f : FragId) (x : Frag) (issued : Bool) : List Byte :=
  let wisn := match warpAt (coreAt s k) w with | some y => y.wisn.toNat | none => 0
  let reason := if issued then 0 else fragReason s k f x
  bytesLE 8 (tpcOf x.pc).toNat ++ bytesLE 8 s.tick ++ bytesLE 8 wisn ++
    bytesLE 8 (2 ^ 40 * k.val + 2 ^ 24 * w.val + 2 ^ 16 * f.val + 2 ^ 7 * issued.toNat + reason)

/-- A record written at IDX, or dropped and counted (R354). -/
def putSample (s : State) (k : CoreId) (bs : List Byte) : State :=
  let x := (coreAt s k).sampler
  let va := x.base + 32 * (0#32 ++ x.idx)
  let drop := modSampler s k fun y => { y with drop := satInc y.drop }
  if x.count.toNat ≤ x.idx.toNat || va.toNat / 4503599627370496 ≠ 0 then drop
  else
    match translateWalk s x.ctx .write va.toNat with
    | .ok l _ _ =>
      let (s, w) := (locPut s l bs).getD (s, 0)
      modSampler s k fun y => { y with idx := y.idx + 1, hz := max y.hz w }
    | _ => drop

/-- STALL_SAMPLE: in cycles N, 2N, 3N and so on from the cycle in which EN became 1 (R351). -/
def execStallSample (k : CoreId) (s : State) : Out :=
  let c := coreAt s k
  let x := c.sampler
  if !x.en || c.cycle ≤ x.since || (c.cycle - x.since) % x.period.toNat ≠ 0 then .refused .notEnabled
  else
    match sampleSlot s k with
    | none => .next s
    | some w =>
      let s := modSampler s k fun y => { y with ptr := w.val + 1 }
      match sampleFrag s k w with
      | some (f, y, issued) => .next (putSample s k (sampleBytes s k w f y issued))
      | none => .next s

/-! ## The stipple sampler (R356) -/

/-- STIPPLE_ENABLE: STPCTL is written with EN = 1; setting EN empties every tag (R356). -/
def execStippleEnable (d : DieId) (v : W64) (s : State) : Out :=
  if v.getLsbD 0 = false then .refused .notEnabled
  else .next (modDie s d fun y => { y with stipple := { y.stipple with
    en := true, k := v.extractLsb' 16 5, ctx := Fin.ofNat 64 (v.extractLsb' 8 6).toNat, tags := [] } })

end Sys2Proof.Machine
end

