-- ==== Sys2Proof/Machine/Window.lean ====
section
/-! DEFINITION. The debug access window of a core (R342): a halted agent's state, laid out as its save block.

The manual does not give the window's address; the model's host names the core and the place of the team on it. A warp that is away
has its pages in the window of its origin, where it would be saved (R376; log entry 78). -/

namespace Sys2Proof.Machine

/-- A halted agent's pages of the window: the parts it holds. -/
structure WindowView where
  /-- The strand of the seat, when it is halted. -/
  strand : Option (StrandId × Strand)
  /-- The halted fragments, each with the core on which it runs. -/
  frags : List (CoreId × FragId × Frag)
  /-- Warp blocks of the warps that have a halted fragment, those that are away among them: block number, where it runs, warp. -/
  warps : List (Nat × (CoreId × WarpIx) × Warp)
  /-- The tiles that those agents hold: team tile number and tile. -/
  tiles : List (Nat × Tile)

/-- A warp of a core has a fragment that the debugger halted. -/
def warpHalted (s : State) (k : CoreId) (w : WarpIx) : Bool :=
  (placeFrags s k w).any fun p => match p.2.state with | .halted .. => true | _ => false

/-- The nth seat of a core whose context's debug right is held. -/
def windowSeat (s : State) (k : CoreId) (n : Nat) : Option (CtxId × Seat) :=
  match (coreAt s k).seats[n]? with
  | none => none
  | some x =>
    match teamAt s x.team with
    | none => none
    | some t => if dbgRight s t.ctx then some (t.ctx, x) else none

/-- What the window shows of a seat: pages that belong to halted agents (R342). -/
def windowView (s : State) (k : CoreId) (x : Seat) : WindowView :=
  let c := coreAt s k
  let x := (seatAt c x.team).getD x
  let strand := match x.strand with
    | none => none
    | some n => match strandAt c n with
      | some y => (match y.state with | .halted .. => some (n, y) | _ => none)
      | none => none
  let warps := (originWarps s x.team k).filterMap fun p =>
    match warpAt (coreAt s p.2.1) p.2.2 with
    | some y => if warpHalted s p.2.1 p.2.2 then some (warpIndex x p.1, p.2, y) else none
    | none => none
  let frags := warps.flatMap fun p => ((placeFrags s p.2.1.1 p.2.1.2).filter fun q => match q.2.state with | .halted .. => true | _ => false).map
    fun q => (p.2.1.1, q)
  let held := fun (o : BitVec 9) => o.extractLsb' 7 2 != 0#2 &&
    ((match strand with | some (n, _) => o.extractLsb' 0 7 == holderStrand n | none => false) ||
      warps.any fun p => p.2.1.1 == k && o.extractLsb' 0 7 == holderWarp p.2.1.2)
  { strand := strand, frags := frags, warps := warps,
    tiles := ((x.tiles.zip (List.range 320)).filter fun p => held p.1.owner).map fun p => (p.2, p.1) }

/-- The fragments of a view with their entries (R326, R376). -/
def viewFrags (v : WindowView) : List (Nat × CoreId × FragId × Frag) :=
  ((List.range v.frags.length).zip v.frags).map fun p => (entryOf (v.frags.map (·.2)) p.1, p.2)

/-- The laid-out parts of a view. -/
def viewParts (v : WindowView) : List Part :=
  (match v.strand with | some (_, y) => strandParts y | none => []) ++
    ((viewFrags v).flatMap fun p => fragParts p.1 p.2.2.1 p.2.2.2) ++ (v.warps.flatMap fun p => warpParts p.1 p.2.2) ++
    v.tiles.flatMap fun p => [(0x7000 + 4 * p.1, bytesLE 4 (tileMarks p.2)), (0x9D000 + 2048 * p.1, bytesLE 2048 p.2.data.toNat)]

/-- A byte of the window, when a part holds it. -/
def windowByte (ps : List Part) (a : Nat) : Option Byte :=
  match ps.find? fun p => decide (p.1 ≤ a) && decide (a < p.1 + p.2.length) with
  | some p => p.2[a - p.1]?
  | none => none

/-- The due results of a seat's strand have landed. -/
def windowLanded (s : State) (k : CoreId) (x : Seat) : State :=
  match x.strand with | some n => landDue s k n | none => s

/-- Bytes read through the debug access window: free values where the layout of R326 to R328 gives none, and where no
halted agent has the page. -/
def windowDebugRead (s : State) (k : CoreId) (n off len : Nat) : State × List Byte :=
  let ps := match windowSeat s k n with | some (_, x) => viewParts (windowView (windowLanded s k x) k x) | none => []
  let r := (List.range len).foldl (fun (r : State × List Byte) i =>
    match windowByte ps (off + i) with
    | some b => (r.1, b :: r.2)
    | none => let (s, v) := freshValue r.1; (s, v.extractLsb' 0 8 :: r.2)) (s, [])
  (r.1, r.2.reverse)

/-- What the window holds with some bytes edited. -/
def editReader (off : Nat) (data : List Byte) : Reader := fun o len old =>
  natLE (((bytesLE len old).zip (List.range len)).map fun p =>
    if off ≤ o + p.2 then data.getD (o + p.2 - off) p.1 else p.1)

/-- Bytes written through the debug access window: registers and tiles of halted agents; a write that meets a part of one is an
edit, and DBGEDIT is to come (R329, R342). -/
def windowDebugWrite (s : State) (k : CoreId) (n off : Nat) (data : List Byte) : State :=
  match windowSeat s k n with
  | none => s
  | some (c, x) =>
    let s := windowLanded s k x
    let v := windowView s k x
    let rd := editReader off data
    let core := coreAt s k
    let core := match v.strand with | some (i, y) => setStrand core i (some (readStrand rd (storePlace s k x.team) y)) | none => core
    let core := modSeat core x.team fun y =>
      { y with tiles := (y.tiles.zip (List.range 320)).map fun p =>
          if v.tiles.any fun q => q.1 == p.2 then readTile rd p.2 p.1 else p.1 }
    let edit := (viewParts v).any fun p => decide (p.1 < off + data.length) && decide (off < p.1 + p.2.length)
    let s := (viewFrags v).foldl (fun s p => modCore s p.2.1 fun c => setFrag c p.2.2.1 (some (readFrag rd p.1 p.2.2.2))) (setCore s k core)
    let s := v.warps.foldl (fun s p => modCore s p.2.1.1 fun c => setWarp c p.2.1.2 (some (readWarp rd p.1 p.2.2))) s
    modCtx s c fun y => { y with dbg := { y.dbg with edited := y.dbg.edited || edit } }

end Sys2Proof.Machine
end

