-- ==== Sys2Proof/Machine/Host.lean ====
section
/-! DEFINITION. The host ports: register space and window (R379, R384, R386), doorbells (R381), and the order of inbound writes
and reads (R382, R383). -/

namespace Sys2Proof.Machine

/-! ## What a port sees (R384, R385) -/

/-- READYM at a die: the dies that are READY and reachable. -/
def readyMask (s : State) (d : DieId) : Nat :=
  (List.finRange 4).foldl (fun m e => if routeOk s d e then m + 2 ^ e.val else m) 0

/-- The PKG view is usable at a port. -/
def windowUp (s : State) (p : PortId) : Bool := readyMask s p == 15

/-- STATE of a die. -/
def dieStateCode : DieState → Nat
  | .reset => 0 | .selftest => 1 | .fwload => 2 | .link => 3 | .ready => 4 | .failed => 5

/-- RST of a die. -/
def rstCode : Restrike → Nat
  | .idle => 0 | .staged => 1 | .progress => 2 | .done => 3 | .rolledBack => 4 | .rejected => 5

/-- THROT: the octets of a die that run below the frequency that is requested of them. The manual gives nothing that requests another one
than the highest (R384, R395; DESIGN CHOICE, log entry 93). -/
def throttled (s : State) (d : DieId) : Nat := ((List.finRange 8).filter fun m => (dieAt s d).freq[m].val < 12).length

/-- PWRSTAT: 0 until the die is READY, and then samples (R384; log entry 93). -/
def powerWord (s : State) (d : DieId) : Nat :=
  if (dieAt s d).state = .ready then (Config.powerSample d s.tick).toNat / 2 ^ 8 * 2 ^ 8 + throttled s d else 0

/-- A word of the status and identity block (R384). -/
def statusWord (s : State) (p : PortId) (off : Nat) : Nat :=
  let d := dieAt s p
  match off with
  | 0x00 => 2 ^ 48 * 0x0F44 + 2 ^ 40 * (Config.stepOf p).toNat + p.val
  | 0x08 => 2 ^ 24 * d.err.toNat + 2 ^ 16 * (d.pair.toNat + 2 * d.cross.toNat) + 2 ^ 8 * readyMask s p + dieStateCode d.state
  | 0x10 => 2 ^ 32 * d.running[0].version.toNat + 2 ^ 16 * d.running[1].version.toNat + d.running[2].version.toNat
  | 0x18 => (Config.serialOf p).toNat
  | 0x20 => s.tick
  | 0x28 => 2 ^ 32 * d.strikes.toNat + 2 ^ 8 * d.rstCtl.val + rstCode d.rst
  | 0x30 => powerWord s p
  | _ => 0

/-! ## The debug block (R340 to R343, R349) -/

/-- The agent that a debug command names: a fragment of the warp slot, or a strand. -/
def dbgAgent (s : State) (cmd : W64) : Option AgentRef :=
  let k : CoreId := Fin.ofNat 256 (cmd.extractLsb' 40 8).toNat
  let agent := (cmd.extractLsb' 32 7).toNat
  let f := (cmd.extractLsb' 24 8).toNat
  if 72 ≤ agent then none
  else if 64 ≤ agent then some (.strand k (Fin.ofNat 8 (agent - 64)))
  else if h : f < 192 then
    match fragAt (coreAt s k) ⟨f, h⟩ with
    | none => none
    | some x =>
      let slot := match warpAt (coreAt s k) x.warp with | some { away := some o, .. } => o.ix.val | _ => x.warp.val
      if slot = agent then some (.frag k ⟨f, h⟩) else none
  else none

/-- STATUS as it reads: 1 until the effect of the command is complete (R341). -/
def dbgStatus (s : State) (c : CtxId) (x : Debug) : Nat :=
  if x.status = 1 && !dbgBusy s c x then 0 else x.status.toNat

/-- A word of a context's debug block; 0 without the right. -/
def debugWord (s : State) (c : CtxId) (off : Nat) : Nat :=
  match ctxAt s c with
  | none => 0
  | some y =>
    let x := y.dbg
    let pair := fun (w : W64 × W64) => if off % 16 = 0 then w.1.toNat else w.2.toNat
    if !x.right then 0
    else if off = 0 then 2 + 4 * x.armbrk.toNat + 8 * x.stopall.toNat
    else if off = 8 then x.cmd.toNat
    else if off = 16 then dbgStatus s c x
    else if 0x100 ≤ off && off < 0x200 then pair (x.breaks.toList.getD ((off - 0x100) / 16) (0, 0))
    else if 0x200 ≤ off && off < 0x280 then pair (x.watch.toList.getD ((off - 0x200) / 16) (0, 0))
    else 0

/-- A command written to DBGCMD (R341). -/
def dbgRun (s : State) (c : CtxId) (cmd : W64) : State :=
  let code := cmd.extractLsb' 56 8
  let out := fun (o : Out) => match o with | .next t => t | .fault _ | .refused _ => s
  let agent := fun (run : AgentRef → State → Out) =>
    match dbgAgent s cmd with
    | some a => out (run a s)
    | none => setDbgStatus s c 2
  match code.toNat with
  | 1 => out (execStopall c s)
  | 2 => out (execResumeall c s)
  | 3 => agent (execDbgHalt c)
  | 4 => agent (execDbgResume c)
  | 5 => agent (execDbgStep c)
  | 6 => agent (execDbgStepb c)
  | _ => out (execDbgUnknownCommand c code s)

/-- One of two words of a pair written. -/
def setPair (hi : Bool) (v : W64) (w : W64 × W64) : W64 × W64 := if hi then (w.1, v) else (v, w.2)

/-- A write to a context's debug block; ignored without the right (R340). -/
def debugWrite (s : State) (c : CtxId) (off : Nat) (v : W64) : State :=
  if !dbgRight s c then s
  else
    let upd := fun (s : State) (g : Debug → Debug) => modCtx s c fun x => { x with dbg := g x.dbg }
    let hi := off % 16 == 8
    if off = 0 then upd s fun x => { x with armbrk := v.getLsbD 2 }
    else if off = 8 then
      let cmd := v &&& 0xFF00FF7FFF000000#64
      dbgRun (upd s fun x => { x with cmd := cmd, status := 1 }) c cmd
    else if 0x100 ≤ off && off < 0x200 then
      let new := setPair hi (if hi then v &&& 0xFE0#64 else v &&& ~~~0x18#64)
      upd s fun x => { x with breaks := x.breaks.mapFinIdx fun j w _ => if j = (off - 0x100) / 16 then new w else w }
    else if 0x200 ≤ off && off < 0x280 then
      let new := setPair hi (if hi then v &&& 0x1F07#64 else v)
      upd s fun x => { x with watch := x.watch.mapFinIdx fun j w _ => if j = (off - 0x200) / 16 then new w else w }
    else s

/-! ## The observation block of a core (R350, R355) -/

/-- A word of a core's observation block. -/
def coreWord (s : State) (k : CoreId) (off : Nat) : Nat :=
  let c := coreAt s k
  let x := c.sampler
  if off = 0 then 2 ^ 32 * x.period.toNat + 4 * x.ctx.val + 2 * (samplerBusy s k).toNat + x.en.toNat
  else if off = 8 then x.base.toNat
  else if off = 0x10 then x.count.toNat
  else if off = 0x18 then x.idx.toNat
  else if off = 0x20 then x.drop.toNat
  else if 0x100 ≤ off && off < 0x140 then c.loopCtr[(Fin.ofNat 8 ((off - 0x100) / 8))].sel.toNat
  else if 0x200 ≤ off && off < 0xA00 && off % 0x100 < 0x80 then
    let l := c.loopCtr[(Fin.ofNat 8 ((off - 0x200) / 0x100))]
    let n : Slot := Fin.ofNat 8 (off % 0x100 / 16)
    if off % 16 = 0 then 2 ^ 32 * l.empty[n].toNat + l.filled[n].toNat else l.stall[n].toNat
  else 0

/-- A write to a core's observation block. -/
def coreWrite (s : State) (k : CoreId) (off : Nat) (v : W64) : State :=
  let out := fun (o : Out) => match o with | .next t => t | .fault _ | .refused _ => s
  let lo := v.extractLsb' 0 32
  let ctr := fun (g : LoopCounters → LoopCounters) (n : Nat) => modCore s k fun c => modCounters c (Fin.ofNat 8 n) g
  if off = 0 then out (if v.getLsbD 0 then execSamplerEnable k v s else execSamplerDisable k v s)
  else if off = 8 then modSampler s k fun x => { x with base := v &&& ~~~0x1F#64 }
  else if off = 0x10 then modSampler s k fun x => { x with count := lo }
  else if off = 0x18 then modSampler s k fun x => { x with idx := lo }
  else if off = 0x20 then modSampler s k fun x => { x with drop := lo }
  else if 0x100 ≤ off && off < 0x140 then ctr (fun x => { x with sel := v &&& ~~~0x1E#64 }) ((off - 0x100) / 8)
  else if 0x200 ≤ off && off < 0xA00 && off % 0x100 < 0x80 then
    let n : Slot := Fin.ofNat 8 (off % 0x100 / 16)
    ctr (fun x =>
      if off % 16 = 0 then { x with filled := x.filled.set n lo, empty := x.empty.set n (v.extractLsb' 32 32) }
      else { x with stall := x.stall.set n lo }) ((off - 0x200) / 0x100)
  else s

/-! ## The observation block of a die (R356) -/

/-- A 32-bit counter of a die's stipple sampler. -/
def stippleCount (x : Stipple) (off : Nat) : W32 :=
  let j : Fin 4 := Fin.ofNat 4 ((off - 0x1000) / 0x100)
  let o := off % 0x100
  if o < 0x80 then x.hist[j][(Fin.ofNat 32 (o / 4))] else if o = 0x80 then x.new[j] else 0

/-- A word of a die's observation block. -/
def dieWord (s : State) (d : DieId) (off : Nat) : Nat :=
  let x := (dieAt s d).stipple
  if off = 0 then 2 ^ 16 * x.k.toNat + 2 ^ 8 * x.ctx.val + x.en.toNat
  else if 0x10 ≤ off && off < 0x30 then x.krn[(Fin.ofNat 4 ((off - 0x10) / 8))].toNat
  else if 0x1000 ≤ off && off < 0x1400 then (stippleCount x off).toNat + 2 ^ 32 * (stippleCount x (off + 4)).toNat
  else 0

/-- A write to a die's observation block. -/
def dieWrite (s : State) (d : DieId) (off : Nat) (v : W64) : State :=
  let out := fun (o : Out) => match o with | .next t => t | .fault _ | .refused _ => s
  let upd := fun (g : Stipple → Stipple) => modDie s d fun y => { y with stipple := g y.stipple }
  let lo := v.extractLsb' 0 32
  if off = 0 then
    if v.getLsbD 0 then out (execStippleEnable d v s)
    else upd fun x => { x with en := false, k := v.extractLsb' 16 5, ctx := Fin.ofNat 64 (v.extractLsb' 8 6).toNat }
  else if 0x10 ≤ off && off < 0x30 then upd fun x => { x with krn := x.krn.set (Fin.ofNat 4 ((off - 0x10) / 8)) (v &&& ~~~0x1E#64) }
  else if 0x1000 ≤ off && off < 0x1400 then
    let j : Fin 4 := Fin.ofNat 4 ((off - 0x1000) / 0x100)
    let o := off % 0x100
    if o < 0x80 then upd fun x => { x with hist := x.hist.set j (x.hist[j].set (Fin.ofNat 32 (o / 4)) lo) }
    else if o = 0x80 then upd fun x => { x with new := x.new.set j lo }
    else s
  else s

/-! ## BAR 0 (R379, R381, R386) -/

/-- A doorbell that has passed the ordering point (R381). -/
def doorbellEffect (s : State) (p : PortId) (q : QueueId) (v : W32) : State :=
  let d : DieId := Fin.ofNat 4 (q.val / 64)
  match queueAt s q with
  | none => s
  | some x =>
    let tail := v.extractLsb' 0 16
    if !routeOk s p d || x.closing then s
    else if (tail - x.head).toNat ≤ 2 ^ x.log2n then
      pkgPut (setQueue s q (some { x with tail := tail, look := true })) (x.block + 0x0E) (bytesLE 2 tail.toNat)
    else writeRecord s x.ctx { cls := 0x16, detail := 1, rdie := d, akind := 4 }

/-- A word that a read of BAR 0 finds, at a multiple of 8. -/
def barWord (s : State) (p : PortId) (off : Nat) : Nat :=
  let q := portAt s p
  if off < 0x1000 then statusWord s p off
  else if !dieReady s p then 2 ^ 64 - 1
  else if off = 0x1000 then q.hcmd.toNat
  else if 0x1008 ≤ off && off ≤ 0x1020 then q.args[(Fin.ofNat 4 ((off - 0x1008) / 8))].toNat
  else if off = 0x1028 then q.hstat.toNat
  else if off = 0x2000 then q.winbase.toNat
  else if 0x100000 ≤ off && off < 0x100800 then (Config.doorbellRead (Fin.ofNat 256 ((off - 0x100000) / 8)) s.tick).toNat
  else if 0x1000000 ≤ off && off < 0x1040000 then debugWord s (Fin.ofNat 64 ((off - 0x1000000) / 0x1000)) (off % 0x1000)
  else if 0x2000000 ≤ off && off < 0x2100000 then
    let k : CoreId := Fin.ofNat 256 ((off - 0x2000000) / 0x1000)
    if routeOk s p (coreDie k) then coreWord s k (off % 0x1000) else 2 ^ 64 - 1
  else if 0x3000000 ≤ off && off < 0x3040000 then
    let d : DieId := Fin.ofNat 4 ((off - 0x3000000) / 0x10000)
    if routeOk s p d then dieWord s d (off % 0x10000) else 2 ^ 64 - 1
  else 0

/-- Bytes that a read of BAR 0 finds. -/
def barBytes (s : State) (p : PortId) (off len : Nat) : List Byte :=
  (List.range len).map fun i => BitVec.ofNat 8 (barWord s p ((off + i) / 8 * 8) / 2 ^ (8 * ((off + i) % 8)))

/-- A write to BAR 0 that has passed the ordering point. -/
def barEffect (s : State) (p : PortId) (off : Nat) (v : W64) : State :=
  if !dieReady s p then s
  else if off = 0x1000 then
    if (portAt s p).hstat = 1 then s
    else
      let (s, id) := freshId s
      modPort s p fun q => { q with hcmd := v.extractLsb' 0 8, hstat := 1, since := id }
  else if 0x1008 ≤ off && off ≤ 0x1020 then modPort s p fun q => { q with args := q.args.set (Fin.ofNat 4 ((off - 0x1008) / 8)) v }
  else if off = 0x2000 then modPort s p fun q => { q with winbase := v &&& ~~~0xFFFFFFFFF#64 }
  else if 0x100000 ≤ off && off < 0x100800 then
    if off % 8 = 0 then doorbellEffect s p (Fin.ofNat 256 ((off - 0x100000) / 8)) (v.extractLsb' 0 32) else s
  else if 0x1000000 ≤ off && off < 0x1040000 then debugWrite s (Fin.ofNat 64 ((off - 0x1000000) / 0x1000)) (off % 0x1000) v
  else if 0x2000000 ≤ off && off < 0x2100000 then
    let k : CoreId := Fin.ofNat 256 ((off - 0x2000000) / 0x1000)
    if routeOk s p (coreDie k) then coreWrite s k (off % 0x1000) v else s
  else if 0x3000000 ≤ off && off < 0x3040000 then
    let d : DieId := Fin.ofNat 4 ((off - 0x3000000) / 0x10000)
    if routeOk s p d then dieWrite s d (off % 0x10000) v else s
  else s

/-! ## The ordering point (R382, R383) -/

/-- Every write of a list has had its marks acknowledged, and TICK exceeds their completion ticks. -/
def postedOrdered (s : State) (ws : List Posted) : Bool := ws.all fun w => w.hz = 0 || decide (w.hz < s.tick)

/-- The performed writes that TICK has passed leave the list. -/
def prunePosted (s : State) (p : PortId) : State :=
  modPort s p fun q => { q with posted := q.posted.filter fun w => match w.done with | some t => decide (s.tick ≤ t) | none => true }

/-- A register write at its port: WINBASE and every write behind ordered ones take effect, others wait. -/
def postRegister (s : State) (p : PortId) (off : Nat) (v : W64) : State :=
  let ws := (portAt s p).posted
  if !dieReady s p then s
  else if off = 0x2000 || (postedOrdered s ws && ws.all fun w => !(w.reg && w.done.isNone)) then barEffect s p off v
  else
    let (s, id) := freshId s
    modPort s p fun q => { q with posted := q.posted ++ [{ id := id, addr := off, data := bytesLE 8 v.toNat, reg := true, ro := false }] }

/-- REGISTER_WRITE: a posted write to BAR 0 (R3, R379, R382). -/
def execRegisterWrite (p : PortId) (off : Nat) (v : W64) (s : State) : Out := .next (postRegister s p off v)

/-- DOORBELL: a posted write to the doorbell of a queue (R381). -/
def execDoorbell (p : PortId) (q : QueueId) (v : W32) (s : State) : Out :=
  .next (postRegister s p (0x100000 + 8 * q.val) (0#32 ++ v))

/-- The parts of a window access that lie in the PKG view, line by line (R379). -/
def windowParts (a : Nat) (bs : List Byte) : List (Nat × List Byte) :=
  let bs := bs.take (Config.pkgBytes - a)
  (linesOf a bs.length).map fun l =>
    let lo := max a (128 * l)
    (lo, (bs.drop (lo - a)).take (128 * (l + 1) - lo))

/-- WINDOW_WRITE: the marks of its lines are sent at once, and its data waits for the earlier writes (R379, R382). -/
def execWindowWrite (p : PortId) (dbg : Option (CoreId × Nat)) (off : Nat) (data : List Byte) (ro : Bool) (s : State) : Out :=
  match dbg with
  | some (k, n) => .next (if dieReady s p && routeOk s p (coreDie k) then windowDebugWrite s k n off data else s)
  | none =>
  if 2 ^ 36 < off + data.length then .refused .notEnabled
  else if !windowUp s p then .next s
  else
    let a := (portAt s p).winbase.toNat + off
    match windowParts a data with
    | [] => .next s
    | ps =>
      let (s, id) := freshId s
      let (s, hz) := ps.foldl (fun (r : State × Nat) x =>
        let (s, w) := markLine r.1 (lineOf (pkgCell x.1)) id
        (s, max r.2 w)) (s, 0)
      .next (modPort s p fun q => { q with posted := q.posted ++ [{ id := id, addr := a, data := data, reg := false, ro := ro, hz := hz }] })

/-- The data of a window write performed at its homes, and its marks taken off. -/
def windowPerform (s : State) (p : PortId) (w : Posted) : State × Nat :=
  let ps := windowParts w.addr w.data
  let (s, t) := if windowUp s p then homeStores s (ps.map fun x => (pkgCell x.1, x.2)) else (s, 0)
  (ps.foldl (fun s x => unmarkLine s (lineOf (pkgCell x.1)) w.id) s, t)

/-- INBOUND_DATA_SEND: the nth waiting write of a port is performed, once every earlier write is ordered (R382). -/
def execInboundDataSend (p : PortId) (n : Nat) (s : State) : Out :=
  let ws := (portAt s p).posted
  match (ws.filter fun w => w.done.isNone)[n]? with
  | none => .refused .notEnabled
  | some w =>
    let earlier := ws.takeWhile fun x => x.id != w.id
    if (!w.ro && !postedOrdered s earlier) || (w.reg && earlier.any fun x => x.reg && x.done.isNone) then .refused .notEnabled
    else
      let (s, t) := if w.reg then (barEffect s p w.addr (BitVec.ofNat 64 (natLE w.data)), 0) else windowPerform s p w
      let s := modPort s p fun q => { q with posted := q.posted.map fun x => if x.id == w.id then { x with done := some t } else x }
      .next (prunePosted s p)

/-- Bytes of device memory at PKG-view addresses; all ones beyond the view's end (R379). -/
def pkgRead (s : State) (a n : Nat) : List Byte :=
  (List.range n).map fun i => if a + i < Config.pkgBytes then memRead s.dev (pkgCell (a + i)) else 0xFF

/-- A line of a PKG-view range is engine-pending at its home (R202). -/
def pkgPending (s : State) (a n : Nat) : Bool :=
  (linesOf a n).any fun l => 128 * l < Config.pkgBytes && linePending s (lineOf (pkgCell (128 * l)))

/-- WINDOW_READ: a read through the window, of BAR 0 or of a debug access window, performed after every earlier write of its port (R379, R383). -/
def execWindowRead (p : PortId) (sp : HostSpace) (off len : Nat) (s : State) : Out :=
  let answer := fun (s : State) (bs : List Byte) => .next (modPort s p fun q => { q with reads := q.reads ++ [bs] })
  let a := (portAt s p).winbase.toNat + off
  if (portAt s p).posted.any fun w => w.done.isNone then .refused .notEnabled
  else
    match sp with
    | .bar0 => answer s (barBytes s p off len)
    | .debug k n =>
      if dieReady s p && routeOk s p (coreDie k) then
        let (s, bs) := windowDebugRead s k n off len
        answer s bs
      else answer s (List.replicate len 0xFF)
    | .window =>
      if 2 ^ 36 < off + len then .refused .notEnabled
      else if !dieReady s p then .next s
      else if !windowUp s p then answer s (List.replicate len 0xFF)
      else if pkgPending s a len then .refused .notEnabled
      else answer s (pkgRead s a len)

end Sys2Proof.Machine
end

