-- ==== Sys2Proof/Machine/Command.lean ====
section
/-! DEFINITION. The host commands (R386 to R391): contexts, queues, rights, summaries, images and translations. -/

namespace Sys2Proof.Machine

/-! ## The command slot (R386) -/

/-- The command in a port's slot has a code, and may be carried out. -/
def commandReady (s : State) (p : PortId) (code : Byte) : Bool :=
  (portAt s p).hstat == 1 && (portAt s p).hcmd == code && dieReady s p && !commandsHeld s p

/-- A command completes: STATUS, and vector 64 (R380). -/
def commandDone (s : State) (p : PortId) (status : Byte) : Out :=
  .next (raiseVector (modPort s p fun q => { q with hstat := status }) p 64)

/-- A command of a port with its arguments. -/
def hostCommand (p : PortId) (code : Byte) (s : State) (body : (Fin 4 → W64) → Out) : Out :=
  if commandReady s p code then body fun i => (portAt s p).args[i] else .refused .notEnabled

/-- A context number given as an argument. -/
def argCtx (a : W64) : Option CtxId := if h : a.toNat < 64 then some ⟨a.toNat, h⟩ else none

/-- A command that names a live context. -/
def ctxCommand (p : PortId) (code : Byte) (s : State) (body : CtxId → Ctx → Out) : Out :=
  hostCommand p code s fun a =>
    match argCtx (a 0) with
    | none => commandDone s p 2
    | some c =>
      match ctxAt s c with
      | some x => body c x
      | none => commandDone s p 2

/-- Bytes at a PKG-view address as the management controller reads them: out of range, waiting for a pending line, or
not to be reached. -/
inductive HostRead where
  | ok (bs : List Byte)
  | wait
  | bad
  | away
  deriving DecidableEq, Repr

/-- A read by the management controller. R385 makes the PKG view unusable while READYM is not 0b1111, and R1 lets one die
run alone: a record is then read when every line of it lies on a die that is READY and reached from the port, and is STATUS
6 otherwise (DESIGN CHOICE, log entry 77). -/
def hostRead (s : State) (p : PortId) (a n : Nat) : HostRead :=
  if Config.pkgBytes < a + n then .bad
  else if !(linesOf a n).all fun l => routeOk s p (dieOf (pkgCell (128 * l))) then .away
  else if pkgPending s a n then .wait
  else .ok (pkgRead s a n)

/-- A read, and what follows it; STATUS 2 or 6 when it fails. -/
def withRead (s : State) (p : PortId) (a n : Nat) (body : List Byte → Out) : Out :=
  match hostRead s p a n with
  | .ok bs => body bs
  | .wait => .refused .notEnabled
  | .bad => commandDone s p 2
  | .away => commandDone s p 6

/-- Word i of some bytes. -/
def wordOf (bs : List Byte) (off : Nat) : Nat := natLE ((bs.drop off).take 8)

/-! ## Contexts (R386, R389) -/

/-- A context record breaks R389. -/
def recordBad (bs : List Byte) : Bool :=
  let w := wordOf bs
  let log := w 0x20 / 2 ^ 32 % 32
  w 0x00 % 65536 ≠ 0 || w 0x08 % 128 ≠ 0 || w 0x10 % 64 ≠ 0 || w 0x18 % 4096 ≠ 0 || w 0x20 / 2 ^ 41 ≠ 0 || w 0x20 / 2 ^ 37 % 8 ≠ 0 ||
    log < 4 || log > 16 || w 0x28 / 2 ^ 48 ≠ 0 || w 0x30 / 2 ^ 48 ≠ 0 || w 0x38 / 2 ^ 48 ≠ 0 || w 0x40 % 0x200000 ≠ 0 ||
    w 0x48 < 2 || w 0x48 > 65536 || ((List.range 8).any fun i => w (0x50 + 8 * i) % 4096 ≠ 0) || (bs.drop 0x90).any fun b => b != 0

/-- A context as its record describes it; every bucket is full (R366, R389). -/
def newCtx (bs : List Byte) (record : Nat) (p : PortId) : Ctx :=
  let w := wordOf bs
  let word := fun off => BitVec.ofNat 64 (w off)
  let buckets : Vector W64 3 := Vector.ofFn fun i => word (0x28 + 8 * i.val)
  let full : Vector Nat 3 := Vector.ofFn fun i => 256 * (buckets[i].extractLsb' 24 24).toNat
  { record := record, root := w 0, pager := word 8, errq := word 0x10, ovbase := word 0x18, ovlog := w 0x20 / 2 ^ 32 % 32,
    ovhead := BitVec.ofNat 16 (w 0x20), ovtail := BitVec.ofNat 16 (w 0x20 / 2 ^ 16), spstop := natBit (w 0x20) 40,
    buckets := buckets, levels := Vector.replicate 4 full, savebase := word 0x40, savecnt := w 0x48,
    grants := Vector.ofFn fun d => (w (0x50 + 16 * d.val), w (0x58 + 16 * d.val)), port := p, dbg := Debug.reset }

/-- A fabric controller is being exchanged: changes of routes and grants wait (R392). -/
def fabricHeld (s : State) : Bool := s.dies.toList.any fun y => y.striking.any fun x => x.ctl == 2

/-- CTXCREATE: the context record is read and checked; its grants wait for a fabric controller that is exchanged (R386, R389, R392). -/
def execCtxcreate (p : PortId) (s : State) : Out :=
  hostCommand p 1 s fun a =>
    if fabricHeld s then .refused .notEnabled else
    match argCtx (a 0) with
    | none => commandDone s p 2
    | some c =>
      if (ctxAt s c).isSome then commandDone s p 3
      else if (a 1).toNat % 256 ≠ 0 then commandDone s p 2
      else withRead s p (a 1).toNat 256 fun bs =>
        if recordBad bs then commandDone s p 2
        else commandDone (setCtx s c (some (newCtx bs (a 1).toNat p))) p 0

/-- CTXSTOP: stops the context (R308, R386). -/
def execCtxstop (p : PortId) (s : State) : Out := ctxCommand p 2 s fun c _ => commandDone (stopContext s c) p 0

/-- Bits of the flags of a context's error-queue block written; none when the block cannot be reached. -/
def errqFlags (s : State) (c : CtxId) (x : Ctx) (g : Nat → Nat) : Option State :=
  match errqBlock s c x with
  | none => none
  | some (_, _, flags, _) => (unitWrite s c (x.errq + 16) (bytesLE 8 (g flags))).map (·.1)

/-- CTXRESUME: clears STOPPED, and lets every saved team be restored (R325, R386). -/
def execCtxresume (p : PortId) (s : State) : Out :=
  ctxCommand p 3 s fun c x =>
    let s := setCtx s c (some { x with stopped := false })
    let s := errqFlag s c 1 false
    let s := { s with teams := s.teams.map fun t =>
      if t.ctx == c && (t.status == .saved || t.status == .saving) then { t with resume := true } else t }
    commandDone (lookAgain s c) p 0

/-- The members of a join that still run are killed with it: they are retracted and become KILLED, and its object says so
(R274). -/
def killMembers (s : State) (j : Join) : State :=
  let lost := (List.range j.members.length).filter fun i =>
    (j.members[i]?).any fun m => m.state == .running || m.state == .killing
  let s := lost.foldl (fun s i =>
    modJoin (modMember (retractMember s j.cell i) j.cell i fun m => { m with state := .killed }) j.cell fun x =>
      { x with killed := x.killed + 1 }) s
  match joinAt s j.cell with
  | some x => if lost.isEmpty then s else (storeJoin s x true).1
  | none => s

/-- Everything of a context removed; the teams that run are killed (R274, R386). -/
def destroyCtx (s : State) (c : CtxId) : State :=
  let s := (s.joins.filter fun j => j.ctx == c).foldl killMembers s
  let s := ((s.teams ++ s.past).filter fun t => t.ctx == c).foldl (fun s t => freeSeats (removeAgents (discardCopies s t) t.id) t) s
  let gone := fun (cell : Nat) => s.joins.any fun j => j.cell == cell && j.ctx == c
  let other := fun (e : TlbEntry) => e.ctx != c
  { s with
    teams := s.teams.filter fun t => t.ctx != c, grids := s.grids.filter fun g => g.ctx != c,
    past := s.past.filter fun t => t.ctx != c, pastGrids := s.pastGrids.filter fun g => g.ctx != c,
    held := s.held.filter fun h => !gone h.join, heldCmap := s.heldCmap.filter fun h => !gone h.join,
    joins := s.joins.filter fun j => j.ctx != c, fills := s.fills.filter fun f => f.ctx != c,
    queues := s.queues.map fun q => q.bind fun x => if x.ctx = c then none else some x,
    dies := s.dies.map fun d => { d with children := d.children.filter (fun q => q.ctx != c), tlb := d.tlb.filter other },
    cores := s.cores.map fun k => if k.tlb.all other then k else { k with tlb := k.tlb.filter other },
    ctxs := s.ctxs.set c none }

/-- CTXDESTROY: kills every team without records, unregisters the queues, and frees the number; its grants go too (R386, R392). -/
def execCtxdestroy (p : PortId) (s : State) : Out :=
  ctxCommand p 4 s fun c _ => if fabricHeld s then .refused .notEnabled else commandDone (destroyCtx s c) p 0

/-! ## Queues (R254, R386) -/

/-- A queue number given as an argument. -/
def argQueue (a : W64) : Option QueueId := if h : a.toNat < 256 then some ⟨a.toNat, h⟩ else none

/-- A grid of a hardware queue is still in progress. -/
def queueBusy (s : State) (q : QueueId) : Bool :=
  s.grids.any fun g => g.die.val == q.val / 64 && g.key == 64 + q.val % 64 && !g.ended

/-- A queue as its block describes it (R254). -/
def newQueue (bs : List Byte) (block : Nat) : Queue :=
  let w := wordOf bs 8
  { block := block, ring := BitVec.ofNat 64 (wordOf bs 0), ctx := Fin.ofNat 64 (w / 2 ^ 16), log2n := w % 16,
    quantum := w / 2 ^ 8 % 256, cls := w / 16 % 4, head := BitVec.ofNat 16 (w / 2 ^ 32), tail := BitVec.ofNat 16 (w / 2 ^ 48) }

/-- QREG: registers a queue (R254, R386). -/
def execQreg (p : PortId) (s : State) : Out :=
  hostCommand p 5 s fun a =>
    match argQueue (a 0), argCtx (a 2) with
    | some q, some c =>
      if (ctxAt s c).isNone || (a 1).toNat % 64 ≠ 0 then commandDone s p 2
      else if !routeOk s p (Fin.ofNat 4 (q.val / 64)) then commandDone s p 6
      else if (queueAt s q).any (fun x => !x.closing) || queueBusy s q then commandDone s p 3
      else withRead s p (a 1).toNat 64 fun bs =>
        let x := newQueue bs (a 1).toNat
        if x.ctx ≠ c || x.ring.toNat % 4096 ≠ 0 || x.log2n < 1 || x.log2n > 12 then commandDone s p 2
        else commandDone (setQueue s q (some x)) p 0
    | _, _ => commandDone s p 2

/-- QUNREG: the queue starts no further record; its placed teams run on (R386). -/
def execQunreg (p : PortId) (s : State) : Out :=
  hostCommand p 6 s fun a =>
    match argQueue (a 0) with
    | none => commandDone s p 2
    | some q =>
      match queueAt s q with
      | none => commandDone s p 2
      | some x =>
        if x.closing then commandDone s p 2
        else commandDone (setQueue s q (if queueBusy s q then some { x with closing := true } else none)) p 0

/-! ## Spill stops, rights and flags (R264, R317, R340, R386) -/

/-- SPILLCLR: ends the spill stop (R264, R386). -/
def execSpillclr (p : PortId) (s : State) : Out :=
  ctxCommand p 7 s fun c x => commandDone (writeOvctl (setCtx s c (some { x with spstop := false })) c) p 0

/-- DBGGRANT: gives the debug right; it is in use when it is held (R340, R386). -/
def execDbggrant (p : PortId) (s : State) : Out :=
  ctxCommand p 8 s fun c x =>
    if x.dbg.right then commandDone s p 3
    else commandDone (setCtx s c (some { x with dbg := { x.dbg with right := true } })) p 0

/-- DBGREVOKE: revokes the debug right (R340, R386). -/
def execDbgrevoke (p : PortId) (s : State) : Out :=
  ctxCommand p 9 s fun c x => commandDone (if x.dbg.right then revokeRight s c else s) p 0

/-- FLAGCLR: clears OVF, DBGEDIT and DROPS (R317, R386). -/
def execFlagclr (p : PortId) (s : State) : Out :=
  ctxCommand p 10 s fun c x =>
    if errqWaits s c x then .refused .notEnabled
    else match errqFlags s c x fun f => (BitVec.ofNat 64 f &&& 0xFFFFFFFA#64).toNat with
    | some s => commandDone s p 0
    | none => commandDone s p 2

/-! ## Summaries and reports (R388, R390) -/

/-- Free bytes, 8 x n of them. -/
def freeRun (s : State) (n : Nat) : State × List Byte :=
  (List.range n).foldl (fun r _ => let (s, v) := freshValue r.1; (s, r.2 ++ bytesLE 8 v.toNat)) (s, [])

/-- The images of a die's store: primary and retained (R385). -/
def imageStore (s : State) (d : DieId) : Vector Image 3 × Vector Image 3 :=
  (dieAt s d).store.getD (Vector.ofFn fun c => Config.storedImage d c true, Vector.ofFn fun c => Config.storedImage d c false)

/-- Low bits of some bytes replaced. -/
def setLow (bits v : Nat) (bs : List Byte) : List Byte := bytesLE bs.length (natLE bs / 2 ^ bits * 2 ^ bits + v)

/-- The header of a RESYNC record (R390). -/
def resyncHead (s : State) (p : PortId) (free : List Byte) : List Byte :=
  let brup := (List.finRange 4).map fun d => statusWord s d 0x08 / 2 ^ 16 % 4
  let strike := (List.finRange 4).findSome? fun d => (dieAt s d).striking.map fun x => (d, x.ctl)
  bytesLE 8 1 ++ bytesLE 8 s.tick ++ bytesLE 8 (Config.resyncReady (readyMask s p) brup).toNat ++
    bytesLE 8 (Config.resyncStrike strike).toNat ++ free

/-- What a RESYNC record says of a die. -/
def resyncDieBytes (s : State) (d : DieId) : List Byte :=
  let y := dieAt s d
  bytesLE 64 (Config.resyncDie ([statusWord s d 0x08, statusWord s d 0x10] ++ (imageStore s d).2.toList.map (fun x => x.version.toNat) ++
    [y.corrected, y.uncorrected, throttled s d])).toNat

/-- What a RESYNC record says of a context; the error queue's fields when its block can be read. -/
def resyncCtxBytes (s : State) (c : CtxId) : List Byte :=
  match ctxAt s c with
  | none => setLow 4 0 (bytesLE 32 (Config.resyncCtx []).toNat)
  | some x =>
    let count := fun (f : Team → Bool) => (s.teams.filter fun t => t.ctx == c && f t).length
    let errq := match errqBlock s c x with
      | some (_, w1, flags, _) => [flags / 2 ^ 32, w1 / 2 ^ 16 % 2 ^ 16, w1 / 2 ^ 32 % 2 ^ 16]
      | none => []
    let v := Config.resyncCtx ([count fun t => t.status != .saved && t.status != .retired, count fun t => t.status == .saved] ++ errq)
    setLow 4 (1 + 2 * x.stopped.toNat + 4 * x.spstop.toNat + 8 * x.dbg.right.toNat) (bytesLE 32 v.toNat)

/-- What a RESYNC record says of a queue. -/
def resyncQueueBytes (s : State) (q : QueueId) : List Byte :=
  match queueAt s q with
  | none => setLow 1 0 (bytesLE 16 (Config.resyncQueue []).toNat)
  | some x => setLow 1 1 (bytesLE 16 (Config.resyncQueue [x.ctx.val, x.cls, x.head.toNat, x.tail.toNat, x.deficit]).toNat)

/-- The summary record of RESYNC; where the manual does not lay its fields out, their places are open (R390; log entry 92). -/
def resyncBytes (s : State) (p : PortId) (free : List Byte) : List Byte :=
  resyncHead s p free ++ (List.finRange 4).flatMap (resyncDieBytes s) ++ (List.finRange 64).flatMap (resyncCtxBytes s) ++
    (List.finRange 256).flatMap (resyncQueueBytes s)

/-- RESYNC: a summary record to host memory (R390). -/
def execResync (p : PortId) (s : State) : Out :=
  hostCommand p 11 s fun a =>
    if (a 0).toNat % 64 ≠ 0 then commandDone s p 2
    else
      let (t, free) := freeRun s 4
      commandDone { t with host := memPut t.host (a 0).toNat (resyncBytes s p free) } p 0

/-- What a die's report holds (R388). -/
def reportOf (s : State) (d : DieId) (nonce : List Byte) : Config.Report :=
  { nonce := nonce, serial := Config.serialOf d, die := d, step := Config.stepOf d, count := (dieAt s d).strikes,
    running := (dieAt s d).running.toList, retained := (imageStore s d).2.toList }

/-- ATTEST: a report of the die that it is addressed to, and its signature, to host memory (R388). The manual's arguments name no die
(log entry 92). -/
def execAttest (p : PortId) (s : State) : Out :=
  hostCommand p 12 s fun a =>
    let d := Config.attestDie p (a 2) (a 3)
    if !routeOk s p d then commandDone s p 6
    else
      withRead s p (a 1).toNat 32 fun nonce =>
        let report := bytesLE 256 (Config.reportBytes (reportOf s d nonce)).toNat
        let bs := report ++ bytesLE 7856 (Config.signature d report).toNat
        commandDone { s with host := memPut s.host (a 0).toNat bs } p 0

/-! ## Images (R391, R392) -/

/-- The controller and die that an argument names. -/
def argController (a : W64) : Option (Fin 3 × DieId) :=
  let c := (a.extractLsb' 0 8).toNat
  let d := (a.extractLsb' 8 8).toNat
  if h : c < 3 ∧ d < 4 then some (⟨c, h.1⟩, ⟨d, h.2⟩) else none

/-- The checks of a staged image (R391). -/
def imageOk (d : DieId) (ctl : Fin 3) (h : ImageHeader) (header body sig : List Byte) : Bool :=
  Config.sha256 body == h.image.digest && Config.firmwareSigned header sig && h.kind == ctl.val &&
    decide (Config.minSecurity d ctl ≤ h.security)

/-- STAGE: an image copied into a die's staging area and checked (R391). -/
def execStage (p : PortId) (s : State) : Out :=
  hostCommand p 13 s fun a =>
    let ms := (a 2).extractLsb' 32 16
    match argController (a 0) with
    | none => commandDone s p 2
    | some (ctl, d) =>
      if 1000 < ms.toNat then commandDone s p 2
      else if !routeOk s p d then commandDone s p 6
      else if (dieAt s d).striking.isSome then commandDone s p 5
      else withRead s p (a 1).toNat 256 fun header =>
        let h := Config.headerOf header
        withRead s p ((a 1).toNat + 256) h.bodyLen fun body =>
          withRead s p ((a 1).toNat + 256 + h.bodyLen) 7856 fun sig =>
            if imageOk d ctl h header body sig then
              let dog := if ms = 0 then 20 else ms.toNat
              commandDone (modDie s d fun y => { y with staged := some (ctl, h.image, (a 2).getLsbD 0, dog), rst := .staged, rstCtl := ctl }) p 0
            else commandDone (raiseAll (modDie s d fun y => { y with staged := none, rst := .rejected, rstCtl := ctl }) 65) p 4

/-- The body of the management controller's hand-over record: the context table, the debug rights, the commands in progress, and the
octets' frequencies under the power limits (R393). -/
def managementBody (s : State) (d : DieId) : List Nat :=
  ((List.finRange 64).flatMap fun c => match ctxAt s c with
    | some x => [1, x.record, x.dbg.right.toNat]
    | none => [0]) ++
    [(portAt s d).hcmd.toNat, (portAt s d).hstat.toNat] ++ (dieAt s d).freq.toList.map Fin.val

/-- The body of the launch engine controller's hand-over record: the queues, the child queues and spills, the free resources of each
core, the next team of each grid, the tile queues, and the queues whose head waits for its events (R393). -/
def launchBody (s : State) (d : DieId) : List Nat :=
  ((List.finRange 256).filter fun q => q.val / 64 = d.val).flatMap (fun q => match queueAt s q with
    | some x => [1, x.head.toNat, x.tail.toNat, x.deficit, x.look.toNat, x.polled]
    | none => [0]) ++
    (dieAt s d).children.flatMap (fun q => [q.ctx.val, q.deficit, q.look.toNat, q.polled, q.recs.length] ++
      q.recs.flatMap fun r => [r.raw.toNat, r.parent, r.depth]) ++
    (List.finRange 64).flatMap (fun c => match ctxAt s c with
      | some x => [x.ovhead.toNat, x.ovtail.toNat, x.spstop.toNat, x.spilled.length]
      | none => []) ++
    (allCores.filter fun k => coreDie k = d).flatMap (fun k => [(freeSlots s k).length, (freeStrand s k).isSome.toNat, usedTiles s k]) ++
    (s.grids.filter fun g => g.die = d).flatMap (fun g => [g.id, g.next, g.tq, g.again.length]) ++
    s.teams.flatMap fun t => t.id :: t.sets

/-- The body of the fabric controller's hand-over record: routes and bridges, the grants, and the buckets' levels (R393). -/
def fabricBody (s : State) (d : DieId) : List Nat :=
  [statusWord s d 0x08] ++ (List.finRange 64).flatMap fun c => match ctxAt s c with
    | some x => [x.grants[d].1, x.grants[d].2] ++ x.levels[d].toList
    | none => []

/-- The hand-over record that the running image of a controller writes (R393). -/
def handOver (s : State) (d : DieId) (ctl : Fin 3) : HandOver :=
  let body := match ctl with
    | 0 => managementBody s d
    | 1 => launchBody s d
    | 2 => fabricBody s d
  let bs := Config.handOverBytes ctl body
  { format := Config.handOverFormat (dieAt s d).running[ctl], kind := ctl, die := d, len := bs.length, tick := s.tick,
    digest := Config.sha256 bs, body := body }

/-- A new image accepts a hand-over record: its format, and its digest (R393). -/
def handOverOk (image : Image) (h : HandOver) : Bool :=
  decide (h.format ≤ image.format) && Config.sha256 (Config.handOverBytes h.kind h.body) == h.digest

/-- RESTRIKE: the running image writes the hand-over record, the staged image is started with it, or reports failure, and the running image
becomes the retained one (R391 to R393). -/
def execRestrike (p : PortId) (s : State) : Out :=
  hostCommand p 14 s fun a =>
    match argController (a 0) with
    | none => commandDone s p 2
    | some (ctl, d) =>
      if !routeOk s p d then commandDone s p 6
      else if s.dies.toList.any fun y => y.striking.isSome then commandDone s p 5
      else
        match (dieAt s d).staged with
        | some (c, image, _, _) =>
          if c ≠ ctl then commandDone s p 2
          else
            let old := (dieAt s d).running[ctl]
            let (first, kept) := imageStore s d
            let h := handOver s d ctl
            let s := modDie s d fun y => { y with
              rst := .progress, rstCtl := ctl, store := some (first, kept.set ctl old), hand := some h,
              striking := some { ctl := ctl, back := !handOverOk image h, port := p, quiesce := s.tick, started := s.tick } }
            commandDone s p 0
        | none => commandDone s p 2

/-! ## Translations (R387) -/

/-- TLBINV: removes a context's translations of a range from every TLB of the package, after the port's earlier writes
(R387). -/
def execTlbinv (p : PortId) (s : State) : Out :=
  ctxCommand p 15 s fun c _ =>
    let q := portAt s p
    let a := fun (i : Fin 4) => q.args[i]
    if (a 1).toNat % 4096 ≠ 0 then commandDone s p 2
    else if q.posted.any fun w => w.id < q.since && !(w.done.any fun t => decide (t < s.tick)) then .refused .notEnabled
    else
      let clear := fun (t : List TlbEntry) => tlbClear t c (a 1).toNat (a 2).toNat
      commandDone { s with cores := s.cores.map fun k => if k.tlb.isEmpty then k else { k with tlb := clear k.tlb },
                           dies := s.dies.map fun d => { d with tlb := clear d.tlb } } p 0

/-- UNKNOWN_HOST_COMMAND: a code that names no command; the manual gives no STATUS (R386). -/
def execUnknownHostCommand (p : PortId) (code : Byte) (s : State) : Out :=
  hostCommand p code s fun _ =>
    if 1 ≤ code.toNat && code.toNat ≤ 15 then .refused .notEnabled
    else
      let (s, v) := freshValue s
      commandDone s p ([0, 2, 3, 4, 5, 6].getD (v.toNat % 6) 2)

end Sys2Proof.Machine
end

