-- ==== Sys2Proof/Machine/Bringup.lean ====
section
/-! DEFINITION. Power-on and bring-up (R385), the course of a restrike (R392, R393), and frequency changes (R395). -/

namespace Sys2Proof.Machine

/-! ## Bring-up (R385) -/

/-- POWER_ON: every die starts afresh; the image stores stay, and so does the host's memory. -/
def execPowerOn (s : State) : Out :=
  .next { State.reset with host := s.host, free := s.free, nextId := s.nextId,
                           dies := s.dies.map fun d => { Die.reset with store := d.store } }

/-- RESET is left once power and clocks have settled. -/
def settleDie (s : State) (d : DieId) : State :=
  modDie s d fun y => if y.state == .reset then { y with state := .selftest } else y

/-- SELFTEST_COMPLETE: the self-test of a die ends (R384, R385). -/
def execSelftestComplete (d : DieId) (res : TestResult) (s : State) : Out :=
  if (dieAt s d).state != .selftest then .refused .notEnabled
  else
    .next (modDie s d fun y =>
      match res with
      | .pass => { y with state := .fwload }
      | .selfTest => { y with state := .failed, err := 1 }
      | .hbm => { y with state := .failed, err := 3 })

/-- The image that boot loads for a controller: the primary one, or the retained one; none when both fail (R385). -/
def bootImage (s : State) (d : DieId) (c : Fin 3) : Option Image :=
  let (first, kept) := imageStore s d
  if Config.bootVerifies d c first[c] then some first[c]
  else if Config.bootVerifies d c kept[c] then some kept[c]
  else none

/-- Every controller of a die has an image that verifies. -/
def bootOk (s : State) (d : DieId) : Bool := (List.finRange 3).all fun c => (bootImage s d c).isSome

/-- FWLOAD_COMPLETE: the boot ROM has loaded and verified the images (R385). -/
def execFwloadComplete (d : DieId) (ok : Bool) (s : State) : Out :=
  if (dieAt s d).state != .fwload || ok != bootOk s d then .refused .notEnabled
  else
    .next (modDie s d fun y =>
      if ok then { y with state := .link, running := Vector.ofFn fun c => (bootImage s d c).getD {} }
      else { y with state := .failed, err := 2 })

/-- LINK_COMPLETE: the bridges to the dies that answered are trained; a route waits for a fabric controller that is exchanged (R385,
R392). -/
def execLinkComplete (d : DieId) (pair cross : Bool) (s : State) : Out :=
  if (dieAt s d).state != .link || fabricHeld s then .refused .notEnabled
  else .next (modDie s d fun y => { y with state := .ready, pair := pair, cross := cross })

/-! ## Restrike (R392) -/

/-- The watchdog of a die's staged image, in ticks (R391). -/
def watchdog (y : Die) : Nat := match y.staged with | some (_, _, _, ms) => 1000000 * ms | none => 20000000

/-- The error-queue vectors that a port held are raised (R392). -/
def deliverLater (s : State) (p : PortId) : State := modPort s p fun q => { q with vectors := q.vectors ++ q.later, later := [] }

/-- The started image of a restrike has found a bad hand-over record, and reports failure (R393). -/
def handOverFails (y : Die) (x : Striking) : Bool :=
  !x.back && match y.staged, y.hand with
    | some (_, image, _, _), some h => !handOverOk image h
    | _, _ => false

/-- IMAGE_PLACE_READY: a started launch engine image reports place-ready (R392). -/
def execImagePlaceReady (d : DieId) (s : State) : Out :=
  match (dieAt s d).striking with
  | none => .refused .notEnabled
  | some x =>
    if x.ctl ≠ 1 || x.placeReady || handOverFails (dieAt s d) x || (!x.back && decide (x.quiesce + 40000 < s.tick)) then .refused .notEnabled
    else .next (modDie s d fun y => { y with striking := some { x with placeReady := true } })

/-- A restrike that is over: its outcome, and vector 65 (R392). -/
def endStrike (s : State) (d : DieId) (x : Striking) : State :=
  let s := modDie s d fun y =>
    let y := { y with striking := none }
    if x.back then { y with rst := .rolledBack }
    else
      match y.staged with
      | some (_, image, persist, _) =>
        { y with rst := .done, strikes := y.strikes + 1, running := y.running.set x.ctl image,
                 store := y.store.map fun st => (if persist then st.1.set x.ctl image else st.1, st.2) }
      | none => { y with rst := .done, strikes := y.strikes + 1 }
  raiseAll (deliverLater s d) 65

/-- IMAGE_ALIVE: the started image, or the retained one in a rollback, reports alive (R392). -/
def execImageAlive (d : DieId) (s : State) : Out :=
  match (dieAt s d).striking with
  | none => .refused .notEnabled
  | some x =>
    if (x.ctl = 1 && !x.placeReady && !x.tables) || handOverFails (dieAt s d) x || decide (x.started + watchdog (dieAt s d) < s.tick) then .refused .notEnabled
    else .next (endStrike s d x)

/-- RESTRIKE_TIMEOUT: an image has not reported in time, or reports failure; rollback, or a FAILED die when it is the retained image
(R392, R393). -/
def execRestrikeTimeout (d : DieId) (s : State) : Out :=
  match (dieAt s d).striking with
  | none => .refused .notEnabled
  | some x =>
    let late := decide (x.started + watchdog (dieAt s d) < s.tick)
    if x.back then
      if late then .next (modDie s d fun y => { y with state := .failed, striking := none }) else .refused .notEnabled
    else if late || handOverFails (dieAt s d) x || (x.ctl = 1 && !x.placeReady && decide (x.quiesce + 40000 < s.tick)) then
      .next (modDie s d fun y => { y with striking := some { x with back := true, started := s.tick, placeReady := false } })
    else .refused .notEnabled

/-- PLACEMENT_FALLBACK: 50 µs after the quiesce point of a rollback, the launch engine places on its old tables (R392). -/
def execPlacementFallback (d : DieId) (s : State) : Out :=
  match (dieAt s d).striking with
  | none => .refused .notEnabled
  | some x =>
    if x.ctl ≠ 1 || !x.back || x.placeReady || x.tables || decide (s.tick < x.quiesce + 50000) then .refused .notEnabled
    else .next (modDie s d fun y => { y with striking := some { x with tables := true } })

/-! ## Frequencies (R395) -/

/-- FREQUENCY_CHANGE: the management controller changes the frequency of an octet (R380, R395). -/
def execFrequencyChange (d : DieId) (octet : Fin 8) (step : Fin 13) (s : State) : Out :=
  if !dieReady s d || (dieAt s d).freq[octet] == step then .refused .notEnabled
  else .next (raiseAll (modDie s d fun y => { y with freq := y.freq.set octet step }) 66)

end Sys2Proof.Machine
end

