-- ==== Sys2Proof/Machine/Matrix.lean ====
section
/-! DEFINITION. The matrix engine (R55, R56, R104 to R115), MXC (R108), and the tile loads and stores TLD and TST
(R125 to R127). -/

namespace Sys2Proof.Machine

/-! ## Operand elements (R104 to R109) -/

/-- The k-group of a format's class; 0 for a format of no class (R104). -/
def kGroup (code : Nat) : Nat :=
  match code with
  | 1 | 2 => 32
  | 3 | 4 | 5 | 7 => 64
  | 6 | 8 => 128
  | _ => 0

/-- Elements of a scaled block. -/
def scaleBlock (code : Nat) : Nat := if code = 5 ∨ code = 6 then 32 else 16

/-- Scale-stream bytes of one block (R109). -/
def blockScale (code : Nat) : Nat := match code with | 5 | 6 => 1 | 7 => 2 | _ => 0

/-- Blocks of a tile in a scaled format (R109). -/
def tileBlocks (code : Nat) : Nat := if code = 5 then 64 else 128

/-- An MX element under its scale code (R38). -/
def mxValue (f : Fmt) (x scale : Nat) : Val :=
  if scale = 0xFF then .nan false
  else
    match unpack f x with
    | .fin n m e => .fin n m (e + scale - 127)
    | v => v

/-- An HX element: sign, magnitude, E and micro-exponent (R40). -/
def hxValue (k x scale micro : Nat) : Val :=
  if scale = 0xFF then .nan false
  else .fin (x / 2 ^ k % 2 == 1) (x % 2 ^ k) ((scale : Int) - 127 - micro - (k - 1 : Nat))

/-- k-element i of the row or column image that begins at byte `base` of a tile; `sc` gives the scale-stream bytes
of block number q, and `q0` numbers the image's first block (R105, R109). -/
def operandValue (code : Nat) (d : TileData) (base i q0 : Nat) (sc : Nat → Nat) : Val :=
  let byte := fun n => tileBits d (8 * (base + n)) 8
  let q := q0 + i / scaleBlock code
  match code with
  | 1 => unpack bf16 (tileBits d (8 * (base + 2 * i)) 16)
  | 2 => unpack fp16 (tileBits d (8 * (base + 2 * i)) 16)
  | 3 => unpack e4m3 (byte i)
  | 4 => unpack e5m2 (byte i)
  | 5 => mxValue e4m3 (byte i) (sc q)
  | 6 => mxValue e2m1 (byte (i / 2) / 16 ^ (i % 2) % 16) (sc q)
  | 7 => hxValue 7 (byte i) (sc (2 * q)) (sc (2 * q + 1) / 2 ^ (i % 16 / 2) % 2)
  | _ =>
    let w := tileBits d (8 * (base + 8 * (i / 16))) 64
    hxValue 2 (w / 2 ^ (3 * (i % 16)) % 8) (w / 2 ^ 56) (w / 2 ^ (48 + i % 16 / 2) % 2)

/-- One beat of an output element: one rounding of the exact sum of products, one of the accumulation (R55, R56). -/
def beat (c : Nat) (xs ys : List Val) : Nat :=
  let t := (roundTo fp32 .rne (valSum (List.zipWith valMul xs ys))).1
  (fAdd fp32 .rne c t).1

/-- The formats, beats and scale bytes of an MX op. -/
structure MxOp where
  af : Nat
  bf : Nat
  beats : Nat
  /-- Tile images of the A operand and tiles of the B operand, by their place in the op. -/
  a : Nat → TileData
  b : Nat → TileData
  sa : Nat → Nat
  sb : Nat → Nat

/-- The 512 accumulators after an op, from those before it (R106, R111). -/
def mxRun (m : MxOp) (c0 : List Nat) : List Nat :=
  let kg := kGroup m.af
  (List.range m.beats).foldl (fun c j =>
    let t := j / 2
    let row := fun r => (List.range kg).map fun i =>
      operandValue m.af (m.a t) (128 * r) (j % 2 * kg + i) (t * tileBlocks m.af + r * (2 * kg / scaleBlock m.af)) m.sa
    let col := fun n => (List.range kg).map fun i =>
      operandValue m.bf (m.b j) (64 * n) i (j * tileBlocks m.bf + n * (kg / scaleBlock m.bf)) m.sb
    let rows := (List.range 16).map row
    let cols := (List.range 32).map col
    (c.zip (List.range 512)).map fun p => beat p.1 (rows.getD (p.2 / 32) []) (cols.getD (p.2 % 32) [])) c0

/-! ## MMA, MMAZ and MMAR (R110 to R113, R115) -/

/-- The three ops. -/
inductive MxKind where
  | mma | mmaz | mmar
  deriving DecidableEq, Repr, Inhabited

/-- The shared-memory image of MMAR: its fate, or its tile images, with the bytes of the strand's own store queue (R115,
R311). R298 gives no reason for an address in another window: the model's MEMV has reason 0 (DESIGN CHOICE, log entry 76). -/
def mxImage (s : State) (e : StrandEnv) (a : W64) (tiles : Nat) : Except Gate (Nat → TileData) :=
  let q := strandIssue s e
  let len := 2048 * tiles
  match window s q.k q.team false a with
  | .shared _ off =>
    let size := match teamGrid s q.team with | some g => sharedSize g | none => 0
    if a.toNat / 281474976710656 ≠ 0x8000 then .error (.trap (trapMemv a 0 1 2))
    else if off + len > size then .error (.trap (trapMemv a 1 1 2))
    else if off % 128 ≠ 0 then .error (.trap (trapAlign a 7 2))
    else if !present s q.k q.team off len then
      .error (.stall (.presence (((linesOf off len).filter fun l => !present s q.k q.team (128 * l) 128).map fun l =>
        .shared q.k q.team (128 * l))))
    else .ok fun t =>
      let at_ := off + 2048 * t
      BitVec.ofNat 16384 (natLE (putBytes (sharedBytes s q.k q.team at_ 2048) (queuedBytes s e (.shared q.k q.team at_) 2048)))
  | .bad r => .error (.trap (trapMemv a r 1 2))
  | _ => .error (.trap (trapMemv a 0 1 2))

/-- An MX op (R111): configuration, busy window, tiles, image, marks, and the accumulation. -/
def mxOp (i : Instr) (g : Guard) (kind : MxKind) (d a b : Reg) (fn : BitVec 4) (s : State) : Out :=
  strandOp i g s fun e s =>
    let cfg := viewMxcfg e.st
    let field := fun lo n => (cfg.extractLsb' lo n).toNat
    let af := field 0 4
    let bf := field 4 4
    let beats := 2 * (fn.toNat + 1)
    if kGroup af = 0 || kGroup af ≠ kGroup bf then strandFault s e (trapIllop i.encode e.slot.val)
    else
      let twb := (viewTwb e.st).toNat
      let td := tileNum e d
      let ta := if kind == .mmar then [] else (List.range (beats / 2)).map fun t => tileNum e a + t
      let tb := (List.range beats).map fun j => tileNum e b + j
      let scale := fun code first off blocks => streamTiles twb first off (blockScale code * blocks)
      let sas := scale af (field 8 6) (field 14 5) (beats / 2 * tileBlocks af)
      let sbs := scale bf (field 19 6) (field 25 5) (beats * tileBlocks bf)
      let srcs := ta ++ tb ++ sas ++ sbs
      let inPlace := if srcs.contains td then none else some td
      let streamAt := fun first off n =>
        let p := streamByte first off n
        tileBits (viewTile e (twb + p.1)).data (8 * p.2) 8
      let shared := (opA e a).toNat % 281474976710656
      gated s e (tileGate s e true ([td] ++ srcs) (srcs ++ if kind == .mmaz then [] else [td]) inPlace)
        (match if kind == .mmar then mxImage s e (opA e a) (beats / 2) else .ok fun t => (viewTile e (tileNum e a + t)).data with
        | .error gt => gated s e gt (.next s)
        | .ok images =>
          if kind == .mmar && sharedPoison s e.k e.st.team shared (1024 * beats) then strandPoison s e (poisonInfo 10 0)
          else
            -- an accumulation in place starts from the earlier op's result (R112)
            let pendC := (notDue e td).foldl (fun x p => (pendTile td x p).getD x) (viewTile e td)
            let c0 := if kind == .mmaz then List.replicate 512 0 else tileElems 32 pendC.data
            let op : MxOp :=
              { af := af, bf := bf, beats := beats, a := images, b := fun j => (viewTile e (tileNum e b + j)).data,
                sa := streamAt (field 8 6) (field 14 5), sb := streamAt (field 19 6) (field 25 5) }
            consume s e (srcs ++ if kind == .mmaz then [] else [td])
              (unitIssue s e beats (beats + 8) [(td, .tile td true (tileOfElems 32 (mxRun op c0)))]
                (if kind == .mmaz then [td] else [])))

/-- MMA. -/
def execMma (g : Guard) (d a b : Reg) (fn : BitVec 4) (s : State) : Out := mxOp (.mma g d a b fn) g .mma d a b fn s

/-- MMAZ: from +0. -/
def execMmaz (g : Guard) (d a b : Reg) (fn : BitVec 4) (s : State) : Out := mxOp (.mmaz g d a b fn) g .mmaz d a b fn s

/-- MMAR: the A operand is a shared-memory image (R115). -/
def execMmar (g : Guard) (d a b : Reg) (fn : BitVec 4) (s : State) : Out := mxOp (.mmar g d a b fn) g .mmar d a b fn s

/-- MXC: S[A] into MXCFG, with the timing of an SWR (R108). -/
def execMxc (g : Guard) (a : Reg) (s : State) : Out :=
  strandOp (.mxc g a) g s fun e s => .next (pendAdd s e 1 (.mxcfg (mxcfgOf (opA e a))))

/-! ## TLD and TST (R125 to R127) -/

/-- Rows or columns of a transfer: tile byte, address and length. -/
def tileParts (m : TileMode) (a b : W64) : List (Nat × W64 × Nat) :=
  match m with
  | .rows => (List.range 16).map fun r => (128 * r, a + BitVec.ofNat 64 r * b, 128)
  | .cont => (List.range 16).map fun r => (128 * r, a + BitVec.ofNat 64 (128 * r), 128)
  | .cols => (List.range 32).map fun n => (64 * n, a + BitVec.ofNat 64 n * b, 64)

/-- log2 of the alignment of address and stride. -/
def tileAlign : TileMode → Nat
  | .rows | .cont => 7
  | .cols => 6

/-- The stride of a mode; CONT has none. -/
def tileStride (e : StrandEnv) (b : Reg) : TileMode → W64
  | .cont => 0
  | .rows | .cols => opB e b

/-- The accesses of a transfer. -/
def tileAccs (m : TileMode) (a b : W64) : List Acc := (tileParts m a b).map fun p => ⟨0, p.2.1, p.2.2⟩

/-- TLD: one request for each line, all landing together (R126). -/
def execTld (g : Guard) (d a b : Reg) (strong : Bool) (mode : TileMode) (s : State) : Out :=
  strandOp (.tld g d a b strong mode) g s fun e s =>
    let td := tileNum e d
    let parts := tileParts mode (opA e a) (tileStride e b mode)
    gated s e (tileGate s e false [td] [] none)
      (strandMem e s .load (tileAlign mode) false (tileAccs mode (opA e a) (tileStride e b mode)) fun s ps =>
        match logTiles s e [td] with
        | none => strandFault s e (trapSegTiles e)
        | some s =>
          let (s, group) := freshId s
          let after := slotOrder s e
          .next (((lineCosts ps).zip parts).foldl (fun s p =>
            newLoad s (strandIssue s e) (!strong) false .core p.1.1 p.1.2 (.tile td p.2.1) after (group + 1)
              (queuedBytes s e p.1.1.loc p.1.1.len)) s))

/-- TST: the tile as it is at issue, in ascending order of rows or columns (R126). -/
def execTst (g : Guard) (d a b : Reg) (strong : Bool) (mode : TileMode) (s : State) : Out :=
  strandOp (.tst g d a b strong mode) g s fun e s =>
    let td := tileNum e d
    let parts := tileParts mode (opA e a) (tileStride e b mode)
    let data := (viewTile e td).data
    gated s e (tileGate s e false [td] [td] none)
      (strandMem e s .store (tileAlign mode) false (tileAccs mode (opA e a) (tileStride e b mode)) fun s ps =>
        consume s e [td]
          (let q := strandIssue s e
           let moves := (lineCosts ps).zip parts
           if e.st.segOpen then
             segPush s e (moves.map fun p =>
               { va := p.1.1.va, loc := p.1.1.loc, data := tileBytes data p.2.1 p.2.2.2, lease := p.1.1.lease, pc := q.pc, wisn := q.wisn })
           else
             .next (moves.foldl (fun s p =>
               newReq s q { loc := p.1.1.loc, len := p.2.2.2, op := .store (tileBytes data p.2.1 p.2.2.2),
                            lease := p.1.1.lease, cost := p.1.2, va := p.1.1.va, after := slotOrder s e }) s)))

end Sys2Proof.Machine
end

