-- ==== Sys2Proof/Machine/Dispatch.lean ====
section
/-! DEFINITION. The meaning of every instruction and step of the table, one arm per constructor. -/

namespace Sys2Proof.Machine

/-- The effect of an instruction, issued by whoever the state's issuer is, or of a step of the table. -/
def exec (i : Instr) (s : State) : Host.Outcome State Fault Refusal :=
  match i with
  | .nop g => Sys2Proof.Machine.execNop g s
  | .yield g => Sys2Proof.Machine.execYield g s
  | .endOp g => Sys2Proof.Machine.execEndOp g s
  | .exit g => Sys2Proof.Machine.execExit g s
  | .segb g => Sys2Proof.Machine.execSegb g s
  | .brk g n => Sys2Proof.Machine.execBrk g n s
  | .conv g => Sys2Proof.Machine.execConv g s
  | .irrev g => Sys2Proof.Machine.execIrrev g s
  | .kpt g => Sys2Proof.Machine.execKpt g s
  | .rft g => Sys2Proof.Machine.execRft g s
  | .rftNext g => Sys2Proof.Machine.execRftNext g s
  | .bra g off => Sys2Proof.Machine.execBra g off s
  | .call g off => Sys2Proof.Machine.execCall g off s
  | .loop g d len => Sys2Proof.Machine.execLoop g d len s
  | .brx g a => Sys2Proof.Machine.execBrx g a s
  | .callx g a => Sys2Proof.Machine.execCallx g a s
  | .ret g => Sys2Proof.Machine.execRet g s
  | .trap g code => Sys2Proof.Machine.execTrap g code s
  | .rdv g n => Sys2Proof.Machine.execRdv g n s
  | .nxt g sel => Sys2Proof.Machine.execNxt g sel s
  | .add g d a b => Sys2Proof.Machine.execAdd g d a b s
  | .sub g d a b => Sys2Proof.Machine.execSub g d a b s
  | .mul g d a b => Sys2Proof.Machine.execMul g d a b s
  | .mulh g d a b => Sys2Proof.Machine.execMulh g d a b s
  | .mulhn g d a b => Sys2Proof.Machine.execMulhn g d a b s
  | .min g d a b => Sys2Proof.Machine.execMin g d a b s
  | .max g d a b => Sys2Proof.Machine.execMax g d a b s
  | .minn g d a b => Sys2Proof.Machine.execMinn g d a b s
  | .maxn g d a b => Sys2Proof.Machine.execMaxn g d a b s
  | .and g d a b => Sys2Proof.Machine.execAnd g d a b s
  | .or g d a b => Sys2Proof.Machine.execOr g d a b s
  | .xor g d a b => Sys2Proof.Machine.execXor g d a b s
  | .andn g d a b => Sys2Proof.Machine.execAndn g d a b s
  | .shl g d a b => Sys2Proof.Machine.execShl g d a b s
  | .shr g d a b => Sys2Proof.Machine.execShr g d a b s
  | .sar g d a b => Sys2Proof.Machine.execSar g d a b s
  | .mov g d a => Sys2Proof.Machine.execMov g d a s
  | .sel g d a b => Sys2Proof.Machine.execSel g d a b s
  | .mac g d a b => Sys2Proof.Machine.execMac g d a b s
  | .popc g d a => Sys2Proof.Machine.execPopc g d a s
  | .clz g d a => Sys2Proof.Machine.execClz g d a s
  | .brev g d a => Sys2Proof.Machine.execBrev g d a s
  | .bfe g d a b => Sys2Proof.Machine.execBfe g d a b s
  | .bfi g d a b => Sys2Proof.Machine.execBfi g d a b s
  | .rotl g d a b => Sys2Proof.Machine.execRotl g d a b s
  | .abs g d a => Sys2Proof.Machine.execAbs g d a s
  | .neg g d a => Sys2Proof.Machine.execNeg g d a s
  | .mulw g d a b => Sys2Proof.Machine.execMulw g d a b s
  | .lea g d a b sh => Sys2Proof.Machine.execLea g d a b sh s
  | .addi g d a imm => Sys2Proof.Machine.execAddi g d a imm s
  | .andi g d a imm => Sys2Proof.Machine.execAndi g d a imm s
  | .ori g d a imm => Sys2Proof.Machine.execOri g d a imm s
  | .xori g d a imm => Sys2Proof.Machine.execXori g d a imm s
  | .shli g d a n => Sys2Proof.Machine.execShli g d a n s
  | .shri g d a n => Sys2Proof.Machine.execShri g d a n s
  | .sari g d a n => Sys2Proof.Machine.execSari g d a n s
  | .movi g d imm => Sys2Proof.Machine.execMovi g d imm s
  | .movh g d imm => Sys2Proof.Machine.execMovh g d imm s
  | .limm g d imm ext => Sys2Proof.Machine.execLimm g d imm ext s
  | .cmp g pd cc a b => Sys2Proof.Machine.execCmp g pd cc a b s
  | .cmp64 g pd cc a b => Sys2Proof.Machine.execCmp64 g pd cc a b s
  | .cmpi g pd cc a imm => Sys2Proof.Machine.execCmpi g pd cc a imm s
  | .pand g pd pa pb => Sys2Proof.Machine.execPand g pd pa pb s
  | .por g pd pa pb => Sys2Proof.Machine.execPor g pd pa pb s
  | .pxor g pd pa pb => Sys2Proof.Machine.execPxor g pd pa pb s
  | .pandn g pd pa pb => Sys2Proof.Machine.execPandn g pd pa pb s
  | .fadd g d a b => Sys2Proof.Machine.execFadd g d a b s
  | .fsub g d a b => Sys2Proof.Machine.execFsub g d a b s
  | .fmul g d a b => Sys2Proof.Machine.execFmul g d a b s
  | .fmin g d a b => Sys2Proof.Machine.execFmin g d a b s
  | .fmax g d a b => Sys2Proof.Machine.execFmax g d a b s
  | .fabs g d a => Sys2Proof.Machine.execFabs g d a s
  | .fneg g d a => Sys2Proof.Machine.execFneg g d a s
  | .fcps g d a b => Sys2Proof.Machine.execFcps g d a b s
  | .ffma g d a b rm => Sys2Proof.Machine.execFfma g d a b rm s
  | .fcmp g pd cc a b sig => Sys2Proof.Machine.execFcmp g pd cc a b sig s
  | .padd2 g d a b hf => Sys2Proof.Machine.execPadd2 g d a b hf s
  | .psub2 g d a b hf => Sys2Proof.Machine.execPsub2 g d a b hf s
  | .pmul2 g d a b hf => Sys2Proof.Machine.execPmul2 g d a b hf s
  | .pfma2 g d a b hf => Sys2Proof.Machine.execPfma2 g d a b hf s
  | .pmax2 g d a b hf => Sys2Proof.Machine.execPmax2 g d a b hf s
  | .pmin2 g d a b hf => Sys2Proof.Machine.execPmin2 g d a b hf s
  | .xexp2 g d a => Sys2Proof.Machine.execXexp2 g d a s
  | .xlog2 g d a => Sys2Proof.Machine.execXlog2 g d a s
  | .xrcp g d a => Sys2Proof.Machine.execXrcp g d a s
  | .xrsq g d a => Sys2Proof.Machine.execXrsq g d a s
  | .xsqrt g d a => Sys2Proof.Machine.execXsqrt g d a s
  | .xtanh g d a => Sys2Proof.Machine.execXtanh g d a s
  | .xsin g d a => Sys2Proof.Machine.execXsin g d a s
  | .xcos g d a => Sys2Proof.Machine.execXcos g d a s
  | .cvtf g d a k hi => Sys2Proof.Machine.execCvtf g d a k hi s
  | .cvti g d a k trunc => Sys2Proof.Machine.execCvti g d a k trunc s
  | .cvtn g d a b => Sys2Proof.Machine.execCvtn g d a b s
  | .pack2 g d a b => Sys2Proof.Machine.execPack2 g d a b s
  | .unpk2 g d a m => Sys2Proof.Machine.execUnpk2 g d a m s
  | .voteAny g pd pa => Sys2Proof.Machine.execVoteAny g pd pa s
  | .voteAll g pd pa => Sys2Proof.Machine.execVoteAll g pd pa s
  | .voteBal g d pa => Sys2Proof.Machine.execVoteBal g d pa s
  | .shflIdx g d a b => Sys2Proof.Machine.execShflIdx g d a b s
  | .shflUp g d a b => Sys2Proof.Machine.execShflUp g d a b s
  | .shflDn g d a b => Sys2Proof.Machine.execShflDn g d a b s
  | .shflXor g d a b => Sys2Proof.Machine.execShflXor g d a b s
  | .srd g d n => Sys2Proof.Machine.execSrd g d n s
  | .swr g d n => Sys2Proof.Machine.execSwr g d n s
  | .give g a b => Sys2Proof.Machine.execGive g a b s
  | .take g a => Sys2Proof.Machine.execTake g a s
  | .ttry g pd a => Sys2Proof.Machine.execTtry g pd a s
  | .tsel g a => Sys2Proof.Machine.execTsel g a s
  | .town g d a => Sys2Proof.Machine.execTown g d a s
  | .ld g d a sc ord w sx => Sys2Proof.Machine.execLd g d a sc ord w sx s
  | .st g d a sc ord w => Sys2Proof.Machine.execSt g d a sc ord w s
  | .ldo g d a sc ord w sx ext => Sys2Proof.Machine.execLdo g d a sc ord w sx ext s
  | .sto g d a sc ord w ext => Sys2Proof.Machine.execSto g d a sc ord w ext s
  | .atom g d a b op => Sys2Proof.Machine.execAtom g d a b op s
  | .atcas g d a b w64 => Sys2Proof.Machine.execAtcas g d a b w64 s
  | .red g a b op => Sys2Proof.Machine.execRed g a b op s
  | .fence g sc => Sys2Proof.Machine.execFence g sc s
  | .tfence g sc => Sys2Proof.Machine.execTfence g sc s
  | .pft g a => Sys2Proof.Machine.execPft g a s
  | .pclr g a b => Sys2Proof.Machine.execPclr g a b s
  | .await g a => Sys2Proof.Machine.execAwait g a s
  | .cpk g a => Sys2Proof.Machine.execCpk g a s
  | .racq g d a => Sys2Proof.Machine.execRacq g d a s
  | .racqTry g d a p => Sys2Proof.Machine.execRacqTry g d a p s
  | .rcmt g a b => Sys2Proof.Machine.execRcmt g a b s
  | .rpek g d a => Sys2Proof.Machine.execRpek g d a s
  | .rpekTry g d a p => Sys2Proof.Machine.execRpekTry g d a p s
  | .rrel g a => Sys2Proof.Machine.execRrel g a s
  | .launch g d a => Sys2Proof.Machine.execLaunch g d a s
  | .jnew g d a b => Sys2Proof.Machine.execJnew g d a b s
  | .jarr g d => Sys2Proof.Machine.execJarr g d s
  | .jwait g d a => Sys2Proof.Machine.execJwait g d a s
  | .jqry g d a sel => Sys2Proof.Machine.execJqry g d a sel s
  | .migr g pd a => Sys2Proof.Machine.execMigr g pd a s
  | .mhome g d a => Sys2Proof.Machine.execMhome g d a s
  | .bar g n id => Sys2Proof.Machine.execBar g n id s
  | .mma g d a b fn => Sys2Proof.Machine.execMma g d a b fn s
  | .mmaz g d a b fn => Sys2Proof.Machine.execMmaz g d a b fn s
  | .mmar g d a b fn => Sys2Proof.Machine.execMmar g d a b fn s
  | .mxc g a => Sys2Proof.Machine.execMxc g a s
  | .tadd g d a b => Sys2Proof.Machine.execTadd g d a b s
  | .tsub g d a b => Sys2Proof.Machine.execTsub g d a b s
  | .tmul g d a b => Sys2Proof.Machine.execTmul g d a b s
  | .tfma g d a b => Sys2Proof.Machine.execTfma g d a b s
  | .tmax g d a b => Sys2Proof.Machine.execTmax g d a b s
  | .tmin g d a b => Sys2Proof.Machine.execTmin g d a b s
  | .tsclr g d a b => Sys2Proof.Machine.execTsclr g d a b s
  | .tsclc g d a b => Sys2Proof.Machine.execTsclc g d a b s
  | .tcpy g d a => Sys2Proof.Machine.execTcpy g d a s
  | .tfill g d a => Sys2Proof.Machine.execTfill g d a s
  | .tmsk g d a b => Sys2Proof.Machine.execTmsk g d a b s
  | .tcvt g d a b => Sys2Proof.Machine.execTcvt g d a b s
  | .trmax g d a => Sys2Proof.Machine.execTrmax g d a s
  | .trsum g d a => Sys2Proof.Machine.execTrsum g d a s
  | .tcmax g d a => Sys2Proof.Machine.execTcmax g d a s
  | .tcsum g d a => Sys2Proof.Machine.execTcsum g d a s
  | .ttrn g d a => Sys2Proof.Machine.execTtrn g d a s
  | .tbcr g d a => Sys2Proof.Machine.execTbcr g d a s
  | .tbcc g d a => Sys2Proof.Machine.execTbcc g d a s
  | .sexp2 g d a => Sys2Proof.Machine.execSexp2 g d a s
  | .slog2 g d a => Sys2Proof.Machine.execSlog2 g d a s
  | .srcp g d a => Sys2Proof.Machine.execSrcp g d a s
  | .srsq g d a => Sys2Proof.Machine.execSrsq g d a s
  | .stanh g d a => Sys2Proof.Machine.execStanh g d a s
  | .tld g d a b strong mode => Sys2Proof.Machine.execTld g d a b strong mode s
  | .tst g d a b strong mode => Sys2Proof.Machine.execTst g d a b strong mode s
  | .nullifierSkip k n => Sys2Proof.Machine.execNullifierSkip k n s
  | .resultLanding k n => Sys2Proof.Machine.execResultLanding k n s
  | .loadReply r => Sys2Proof.Machine.execLoadReply r s
  | .fragxTimeout k f => Sys2Proof.Machine.execFragxTimeout k f s
  | .takeComplete who => Sys2Proof.Machine.execTakeComplete who s
  | .rdvRelease k n => Sys2Proof.Machine.execRdvRelease k n s
  | .homeFill r => Sys2Proof.Machine.execHomeFill r s
  | .homeWrite r => Sys2Proof.Machine.execHomeWrite r s
  | .homeAtomic r => Sys2Proof.Machine.execHomeAtomic r s
  | .releaseSend who => Sys2Proof.Machine.execReleaseSend who s
  | .fenceComplete who => Sys2Proof.Machine.execFenceComplete who s
  | .tokenRefill => Sys2Proof.Machine.execTokenRefill s
  | .tokenSend r => Sys2Proof.Machine.execTokenSend r s
  | .pagerFill c va => Sys2Proof.Machine.execPagerFill c va s
  | .pagerPoolTimeout c va => Sys2Proof.Machine.execPagerPoolTimeout c va s
  | .presenceResume who => Sys2Proof.Machine.execPresenceResume who s
  | .copyAccept k => Sys2Proof.Machine.execCopyAccept k s
  | .arrivalWordUpdate k c => Sys2Proof.Machine.execArrivalWordUpdate k c s
  | .presenceSet k c => Sys2Proof.Machine.execPresenceSet k c s
  | .commitOnArrival k c => Sys2Proof.Machine.execCommitOnArrival k c s
  | .awaitWake who => Sys2Proof.Machine.execAwaitWake who s
  | .ringWake who => Sys2Proof.Machine.execRingWake who s
  | .teamPlace d => Sys2Proof.Machine.execTeamPlace d s
  | .eventPoll d => Sys2Proof.Machine.execEventPoll d s
  | .teamRetire t => Sys2Proof.Machine.execTeamRetire t s
  | .gridRetireSignal gr => Sys2Proof.Machine.execGridRetireSignal gr s
  | .spillTimeout who => Sys2Proof.Machine.execSpillTimeout who s
  | .joinDeadlineFlush j => Sys2Proof.Machine.execJoinDeadlineFlush j s
  | .joinRelease j => Sys2Proof.Machine.execJoinRelease j s
  | .jwaitWake who => Sys2Proof.Machine.execJwaitWake who s
  | .migrationLanding k f => Sys2Proof.Machine.execMigrationLanding k f s
  | .landingSlotTimeout k f => Sys2Proof.Machine.execLandingSlotTimeout k f s
  | .preemptChoice t => Sys2Proof.Machine.execPreemptChoice t s
  | .drainTimeout t => Sys2Proof.Machine.execDrainTimeout t s
  | .teamSave t => Sys2Proof.Machine.execTeamSave t s
  | .stallSample k => Sys2Proof.Machine.execStallSample k s
  | .samplerEnable k v => Sys2Proof.Machine.execSamplerEnable k v s
  | .samplerDisable k v => Sys2Proof.Machine.execSamplerDisable k v s
  | .stopall c => Sys2Proof.Machine.execStopall c s
  | .resumeall c => Sys2Proof.Machine.execResumeall c s
  | .dbgHalt c who => Sys2Proof.Machine.execDbgHalt c who s
  | .dbgResume c who => Sys2Proof.Machine.execDbgResume c who s
  | .dbgStep c who => Sys2Proof.Machine.execDbgStep c who s
  | .dbgStepb c who => Sys2Proof.Machine.execDbgStepb c who s
  | .registerWrite p off v => Sys2Proof.Machine.execRegisterWrite p off v s
  | .doorbell p q v => Sys2Proof.Machine.execDoorbell p q v s
  | .windowWrite p dbg off data ro => Sys2Proof.Machine.execWindowWrite p dbg off data ro s
  | .inboundDataSend p n => Sys2Proof.Machine.execInboundDataSend p n s
  | .windowRead p sp off len => Sys2Proof.Machine.execWindowRead p sp off len s
  | .ctxcreate p => Sys2Proof.Machine.execCtxcreate p s
  | .ctxstop p => Sys2Proof.Machine.execCtxstop p s
  | .ctxresume p => Sys2Proof.Machine.execCtxresume p s
  | .ctxdestroy p => Sys2Proof.Machine.execCtxdestroy p s
  | .qreg p => Sys2Proof.Machine.execQreg p s
  | .qunreg p => Sys2Proof.Machine.execQunreg p s
  | .spillclr p => Sys2Proof.Machine.execSpillclr p s
  | .dbggrant p => Sys2Proof.Machine.execDbggrant p s
  | .dbgrevoke p => Sys2Proof.Machine.execDbgrevoke p s
  | .flagclr p => Sys2Proof.Machine.execFlagclr p s
  | .resync p => Sys2Proof.Machine.execResync p s
  | .attest p => Sys2Proof.Machine.execAttest p s
  | .stage p => Sys2Proof.Machine.execStage p s
  | .restrike p => Sys2Proof.Machine.execRestrike p s
  | .tlbinv p => Sys2Proof.Machine.execTlbinv p s
  | .imagePlaceReady d => Sys2Proof.Machine.execImagePlaceReady d s
  | .imageAlive d => Sys2Proof.Machine.execImageAlive d s
  | .restrikeTimeout d => Sys2Proof.Machine.execRestrikeTimeout d s
  | .placementFallback d => Sys2Proof.Machine.execPlacementFallback d s
  | .powerOn => Sys2Proof.Machine.execPowerOn s
  | .selftestComplete d res => Sys2Proof.Machine.execSelftestComplete d res s
  | .fwloadComplete d ok => Sys2Proof.Machine.execFwloadComplete d ok s
  | .linkComplete d pair cross => Sys2Proof.Machine.execLinkComplete d pair cross s
  | .illop w => Sys2Proof.Machine.execIllop w s
  | .savedTeamRestore t => Sys2Proof.Machine.execSavedTeamRestore t s
  | .unitStallEnd k n => Sys2Proof.Machine.execUnitStallEnd k n s
  | .instructionFetchArrival k f => Sys2Proof.Machine.execInstructionFetchArrival k f s
  | .unknownHostCommand p code => Sys2Proof.Machine.execUnknownHostCommand p code s
  | .kick a => Sys2Proof.Machine.execKick a s
  | .lineEviction line => Sys2Proof.Machine.execLineEviction line s
  | .pageWalk k c va => Sys2Proof.Machine.execPageWalk k c va s
  | .dbgUnknownCommand c code => Sys2Proof.Machine.execDbgUnknownCommand c code s
  | .frequencyChange d octet step => Sys2Proof.Machine.execFrequencyChange d octet step s
  | .peerInboundRequest port c cell what => Sys2Proof.Machine.execPeerInboundRequest port c cell what s
  | .peerRefusal d r => Sys2Proof.Machine.execPeerRefusal d r s
  | .stippleEnable d v => Sys2Proof.Machine.execStippleEnable d v s

end Sys2Proof.Machine
end

