-- ==== Sys2Proof/Machine/Run.lean ====
section
/-! DEFINITION. A turn of a fragment (R141, R223, R341 to R346) and a turn of a strand (R12 to R33, R306 to R312, R345, R346):
what fetches, decodes and issues around `exec`. -/

namespace Sys2Proof.Machine

/-! ## Issue -/

/-- A step's next state changed. -/
def mapNext (g : State → State) : Out → Out
  | .next t => .next (g t)
  | .fault f => .fault f
  | .refused r => .refused r

/-- The issuer is forgotten. -/
def noIssue (s : State) : State := { s with issuer := .none, start := none }

/-- An op issued by an agent. -/
def issueAs (w : Issuer) (i : Instr) (s : State) : Out := mapNext noIssue (exec i { s with issuer := w })

/-! ## Fragments -/

/-- BRA, BRX and RET end at a kill point when they go backward (R285). -/
def branches : Instr → Bool
  | .bra .. | .brx .. | .ret _ => true
  | _ => false

/-- One fragment of a warp after an op that was issued at `pc`; `mine`: it is left behind by the op. A halt waits for a kill point,
and a step ends before the next op; an agent that is being stepped makes its step first (R341, R346, R347). -/
def fragAfter (k : CoreId) (i : Instr) (pc : W64) (mine : Bool) (s : State) (f : FragId) : State :=
  match fragAt (coreAt s k) f with
  | none => s
  | some x =>
    let s := if mine && !reissues x.state then onFrag s k f fun y => { y with resume := false } else s
    let back := mine && branches i && x.state == .ready && x.pc.ule pc
    if x.step then (if mine && x.state == .ready then haltFrag s k f 5 else s)
    else
      match haltAsked s k f with
      | some cause => if haltPoint s k x || back then haltFrag s k f cause else s
      | none => s

/-- The fragments of a warp after an op of one of them; `others` are those that were there beside it. -/
def warpAfter (k : CoreId) (w : WarpIx) (i : Instr) (pc : W64) (others : List FragId) (s : State) : State :=
  (liveFrags (coreAt s k) w).foldl (fun s f => fragAfter k i pc (!others.contains f) s f) s

/-- The other live fragments of a fragment's warp. -/
def otherFrags (s : State) (k : CoreId) (f : FragId) (x : Frag) : List FragId := (liveFrags (coreAt s k) x.warp).erase f

/-- The sequence number of a fragment's warp. -/
def wisnOf (s : State) (k : CoreId) (x : Frag) : Option W64 := (warpAt (coreAt s k) x.warp).map (·.wisn)

/-- SEH of the mismatch of a protected pair; the XOR of the two signatures is a free value (R298, R315; log entry 31). -/
def pairTrap (v : W64) : TrapInfo := { cls := .seh, code := 2, synd := v, unit := 15 }

/-- A fragment of a protected team issues in a cycle in which the pair does not agree: its op is counted, and traps (R315). -/
def pairFrag (s : State) (k : CoreId) (f : FragId) (x : Frag) : State :=
  let (s, v) := freshValue s
  let num := (wisnOf s k x).getD 0
  let s := onFrag (onWarp s k x.warp fun w => { w with wisn := w.wisn + 1 }) k f fun y => { y with num := num }
  warpTrap s k f (pairTrap v)

/-- A core's protected pair does not agree in this cycle, and the team is the pair's (R315). -/
def pairDiffers (s : State) (k : CoreId) (team : Nat) : Bool := (coreAt s k).mismatch && teamProtected s team

/-- What follows an op of a fragment: s is the state in which it was issued. An op that has not issued, since a walk waits or a
split does not fit, leaves the fragments as they are, but a fragment that waits to split may be halted there (R137, R341). -/
def afterIssue (k : CoreId) (f : FragId) (x : Frag) (i : Instr) (s t : State) : State :=
  if wisnOf t k x = wisnOf s k x then fragAfter k i x.pc false t f else warpAfter k x.warp i x.pc (otherFrags s k f x) t

/-- A new op of a fragment issues under the warp's selection of this cycle (R183). -/
def freshSel (s : State) (k : CoreId) (f : FragId) (x : Frag) : State :=
  onWarp s k x.warp fun w => { w with sels := w.sels.filter fun p => p.1 != f }

/-- A fragment issues an op (R25, R141, R315). -/
def fragIssue (k : CoreId) (f : FragId) (x : Frag) (i : Instr) (s : State) : Out :=
  if (warpAt (coreAt s k) x.warp).any fun w => pairDiffers s k w.team then
    .next (warpAfter k x.warp i x.pc (otherFrags s k f x) (pairFrag s k f x))
  else
    mapNext (afterIssue k f x i s)
      (issueAs (.frag k f) i (onFrag (freshSel s k f x) k f fun y => { y with resume := true }))

/-- A fragment whose code page is to be filled parks, or takes a pending kill (R211, R223, R285). -/
def fragFetchPark (s : State) (k : CoreId) (f : FragId) (x : Frag) (va : W64) : State :=
  let kill := match warpAt (coreAt s k) x.warp with | some w => w.kill | none => false
  onFrag s k f fun y => { y with state := if kill then .stopped else .parked (.fault [(leadLane x.mask, va)] false) }

/-- A turn of a fragment that may run: the debugger's halts, the fetch, and the issue of its next op. -/
def fragStep (k : CoreId) (f : FragId) (x : Frag) (s : State) : Out :=
  if x.watch then .next (haltFrag s k f 3)
  else if x.state == .ready && x.step && !x.resume then .next (haltFrag s k f 5)
  else
    match breakFrag s k f with
    | some t => .next t
    | none =>
      let others := otherFrags s k f x
      match nextOp s k x with
      | .wait => .next s
      | .pager va => .next (warpAfter k x.warp (.nop always) x.pc others (fragFetchPark s k f x va))
      | .trap t => .next (warpAfter k x.warp (.nop always) x.pc others (warpTrap s k f t))
      | .illop s w => fragIssue k f x (.illop w) s
      | .op s i =>
        if !fragCan s k f x i then .next s
        else
          match haltsBefore s k f x i with
          | some cause => .next (haltFrag s k f cause)
          | none => fragIssue k f x i s

/-- A turn of a fragment: it takes its step when it may run (R141). -/
def fragTurn (k : CoreId) (f : FragId) (s : State) : Out :=
  match fragAt (coreAt s k) f with
  | none => .next s
  | some x => if fragRuns s k x then fragStep k f x s else .next s

/-! ## Strands: the slots of a bundle -/

/-- What the slots of a bundle came to: the state, and the slots that wait. -/
structure SlotRun where
  s : State
  late : List (Slot × Stall) := []
  /-- A slot's step that is no next state. -/
  stop : Option Out := none

/-- A slot issues after those before it (R16, R33, R306): slot 7's memory op is left when slot 6 has faulted. -/
def runSlot (k : CoreId) (n : StrandId) (bs : List Byte) (r : SlotRun) (m : Slot) : SlotRun :=
  match r.stop, slotOp bs m with
  | none, .op i =>
    let six := (strandAt (coreAt r.s k) n).any fun x => x.fx.faults.any fun p => p.1 == 6
    if m == 7 && six && isMemory i then r
    else
      match exec i { r.s with issuer := .strand k n m } with
      | .next t =>
        let late := ((strandAt (coreAt t k) n).bind fun x => x.fx.stall).map fun c => (m, c)
        { r with s := onStrand t k n fun x => { x with fx := { x.fx with stall := none } }, late := r.late ++ late.toList }
      | o => { r with stop := some o }
  | _, _ => r

/-- Some slots of a bundle issue from one start (R15). -/
def runSlots (k : CoreId) (n : StrandId) (bs : List Byte) (ms : List Slot) (s : State) : SlotRun :=
  let r := ms.foldl (runSlot k n bs) { s := { s with start := some (coreAt s k) } }
  { r with s := noIssue r.s }

/-- A wait counts to the slots that need the late result or the busy unit: a wait for a result, a tile or a presence bit is a
landing stall (R22, R100, R153). -/
def countsStall : Stall → Bool
  | .landing | .unit _ | .take _ | .await _ | .ring .. | .jwait _ | .copyQueue | .presence _ | .pager _ => true
  | .budget => false

/-- The bundle at PC waits (R22, R23); a wait that is a kill point takes a pending kill or halt (R285, R341). -/
def stallStrand (s : State) (k : CoreId) (n : StrandId) (c : Stall) (late : List Slot) : State :=
  match strandAt (coreAt s k) n with
  | none => s
  | some x =>
    let s := modCore s k fun y =>
      let y := modStrand y n fun z => { z with stall := some c }
      if countsStall c then countStall y n x.loops late.contains else y
    match strandAt (coreAt s k) n with
    | none => s
    | some y =>
      if !strandAtKill y then s
      else if y.kill then killStrand s k n
      else match y.haltReq with | some cause => haltStrand s k n cause | none => s

/-! ## Strands: after the slots -/

/-- The bundle is complete: its counts, its end, and its logs (R26, R100, R311). -/
def finishBundle (s : State) (k : CoreId) (n : StrandId) (x : Strand) (bs : List Byte) : State :=
  let s := modCore s k fun c => countBody c n x.loops fun m => slotActive x bs m
  putLogs (endBundle s k n) k n x

/-- A bundle is left with some of its slots not done: they get replay records, and a wait that its BAR or RDV has begun goes on
when it is complete (R166, R306). -/
def leaveSlots (s : State) (k : CoreId) (n : StrandId) (x : Strand) (bs : List Byte) (left : List Slot) (resume : Bool) : State :=
  onStrand s k n fun y =>
    { y with done := ~~~(slotMask left.contains), replay := takeReplays x bs left.contains, resume := resume, stall := none,
             back := leaveBack y, state := (match y.state with | .bar _ | .rdv .. => .ready | st => st) }

/-- Some slots are left: they get replay records, and the strand halts (R345, R346). -/
def haltPartial (s : State) (k : CoreId) (n : StrandId) (x : Strand) (bs : List Byte) (left : List Slot) (cause : Nat) : State :=
  putLogs (haltStrand (leaveSlots s k n x bs left false) k n cause) k n x

/-- Slots that come after what the rest of the bundle has begun are left for a later turn, the faulting ones with them (R199,
R227). -/
def laterSlots (s : State) (k : CoreId) (n : StrandId) (x : Strand) (bs : List Byte) (left : List Slot) : State :=
  let s := leaveSlots s k n x bs left x.resume
  putLogs (onStrand s k n fun y => { y with fx := { y.fx with later := [] } }) k n x

/-- BRK has halted the strand: every slot that has issued is done, and PC stays; a pending kill is taken instead (R303, R348). -/
def haltBrk (s : State) (k : CoreId) (n : StrandId) (x : Strand) (bs : List Byte) (left : List Slot) : State :=
  let s := leaveSlots s k n x bs left false
  if x.kill then putLogs (killStrand s k n) k n x
  else putLogs (modCore s k fun c => if c.front == some n then switchStrand c n else c) k n x

/-- A breakpoint of the bundle at PC: its slot, and whether it starts a stop-all (R345). -/
def strandBreak (s : State) (x : Strand) : Option (Nat × Bool) :=
  if x.resume || x.done != 0 then none else breakBundle s (teamCtx s x.team) x.pc

/-- The slots that this turn issues, of those left: all, those below a breakpoint, or a step's one. -/
def slotsNow (x : Strand) (bp : Option (Nat × Bool)) (left : List Slot) : List Slot :=
  if x.step then left.take 1
  else match bp with | some (m, _) => left.filter fun i => i.val < m | none => left

/-- Slot 7 holds a memory op and slot 6 has faulted: it has not issued (R33, R306). -/
def skipSeven (y : Strand) (bs : List Byte) (m : Slot) : Bool :=
  m == 7 && (y.fx.faults.any fun p => p.1 == 6) && (match slotOp bs m with | .op i => isMemory i | .ext | .bad _ => false)

/-- What follows the slots of a bundle when none of them waits: x is the strand at bundle start. -/
def afterSlots (k : CoreId) (n : StrandId) (x : Strand) (bs : List Byte) (bp : Option (Nat × Bool)) (left todo : List Slot)
    (s : State) : State :=
  let s := extendGiven (carryGiven s k n) k n
  match strandAt (coreAt s k) n with
  | none => s
  | some y =>
    let ran := todo.filter fun m => !skipSeven y bs m && !y.fx.later.contains m
    let rest := left.filter fun m => !ran.contains m
    let open_ := rest ++ (y.fx.faults.filter fun f => !countsDone f.2).map (·.1)
    if (match y.state with | .halted .. => y.fx.faults.isEmpty | _ => false) then haltBrk s k n x bs rest
    else if !y.fx.later.isEmpty then laterSlots s k n x bs open_
    else if !y.fx.faults.isEmpty then putLogs (stopStrand s k n bs y.fx.faults rest) k n x
    else if x.step then
      if rest.isEmpty then finishBundle s k n x bs else haltPartial s k n x bs rest 5
    else
      match bp with
      | some (_, all) =>
        let s := haltPartial s k n x bs rest 1
        if all then stopAll s (teamCtx s x.team) else s
      | none => finishBundle s k n x bs

/-- The op closes an open segment (R309). -/
def closesSeg : Instr → Bool
  | .give .. | .take .. | .ttry .. | .racq .. | .racqTry .. | .rcmt .. | .rpek .. | .rpekTry .. | .rrel .. | .cpk .. | .pclr ..
  | .atom .. | .atcas .. | .red .. | .yield .. | .rdv .. | .bar .. | .endOp .. | .launch .. | .jnew .. | .jarr .. | .irrev ..
  | .fence .. | .tfence .. | .segb .. => true
  | .st _ _ _ _ ord _ | .sto _ _ _ _ ord _ _ => ord == .sync
  | _ => false

/-- A slot holds an op that closes an open segment. -/
def slotCloses (bs : List Byte) (m : Slot) : Bool := match slotOp bs m with | .op i => closesSeg i | .ext | .bad _ => false

/-- What slots came to: a wait of one of them undoes them all (R22). -/
def settle (k : CoreId) (n : StrandId) (s : State) (r : SlotRun) (body : State → Out) : Out :=
  match r.stop, r.late with
  | some o, _ => o
  | none, (m, c) :: ls => .next (stallStrand s k n c (m :: ls.map (·.1)))
  | none, [] => body r.s

/-- A strand's faults so far. -/
def faultsOf (s : State) (k : CoreId) (n : StrandId) : List (Slot × TrapInfo) :=
  match strandAt (coreAt s k) n with | some y => y.fx.faults | none => []

/-- Some slots of a closing bundle fault: the segment stays open, and the others issue in it (R309). A slot that faults only with
the segment open is left, not done. -/
def faultClosing (k : CoreId) (n : StrandId) (x : Strand) (bs : List Byte) (left : List Slot) (s t : State) : Out :=
  let fs := faultsOf t k n
  let keep := fun (s : State) => onStrand s k n fun y => { y with fx := { y.fx with faults := fs } }
  let ok := left.filter fun m => !fs.any fun f => f.1 == m
  settle k n s (runSlots k n bs ok (keep s)) fun u =>
    .next (afterSlots k n x bs none left (ok.filter fun m => !(faultsOf u k n).any fun f => f.1 == m) (keep u))

/-- A bundle that closes its segment: the queued stores are performed first, one after the other, in program order (R309). -/
def issueClosing (k : CoreId) (n : StrandId) (x : Strand) (bs : List Byte) (bp : Option (Nat × Bool)) (left todo : List Slot)
    (s : State) : Out :=
  if !storesDone s k n then .next (stallStrand s k n .landing [])
  else if !x.queue.isEmpty then .next (putLogs (stallStrand (sendQueue s k n) k n .landing []) k n x)
  else settle k n s (runSlots k n bs todo (closeSegment s k n)) fun t => .next (afterSlots k n x bs bp left todo t)

/-- The bundle's slots issue (R15, R16, R22, R306, R309, R312, R315): a wait of one slot undoes them all, a consumed poison or a
mismatch of the pair rewinds, a closing bundle issues with its segment closed, and a faulting one commits every other slot. -/
def issueSlots (k : CoreId) (n : StrandId) (x : Strand) (bs : List Byte) (s : State) : Out :=
  let bp := strandBreak s x
  let left := slotsLeft x bs
  let todo := slotsNow x bp left
  let r := runSlots k n bs todo s
  let closing := x.segOpen && (todo.any (slotCloses bs) || (strandAt (coreAt r.s k) n).any fun y => y.fx.close)
  let s' := if closing then withQueue s k n else s
  let r := if closing then runSlots k n bs todo s' else r
  settle k n s r fun t =>
    match strandAt (coreAt t k) n with
    | none => .next t
    | some y =>
      if y.fx.rewind || pairDiffers s k x.team then .next (rewind s k n (if y.fx.rewind then y.fx.rewinder else 0))
      else if x.fx.faults.length < y.fx.faults.length then
        settle k n s (if todo.length = left.length then r else runSlots k n bs left s') fun t =>
          if closing then faultClosing k n x bs left s t else .next (afterSlots k n x bs none left left t)
      else if closing then issueClosing k n x bs bp left todo s
      else .next (afterSlots k n x bs bp left todo t)

/-- A step's next bundle: its operands are read, and the strand halts (R346). -/
def stepArrives (s : State) (k : CoreId) (n : StrandId) (x : Strand) (bs : List Byte) : State :=
  haltPartial s k n x bs (slotsLeft x bs) 5

/-! ## Strands: a turn -/

/-- The bundle at PC cannot be fetched or decoded: nothing of it commits (R33, R306). -/
def stopWhole (s : State) (k : CoreId) (n : StrandId) (bs : List Byte) (m : Slot) (t : TrapInfo) : State :=
  stopStrand s k n bs [(m, t)] allSlots

/-- The other slots of a counted body bundle that would wait in this cycle too, for a unit, a tile or a line (R100). -/
def alsoLate (s : State) (k : CoreId) (n : StrandId) (x : Strand) (bs : List Byte) (late : List Slot) : List Slot :=
  if !loopsCounted (coreAt s k).loopCtr[n].sel x.loops then []
  else ((runSlots k n bs ((slotsLeft x bs).filter fun m => !late.contains m) s).late.filter fun p => countsStall p.2).map (·.1)

/-- The bundle at PC is issued, waits, or stops (R22, R29, R33, R211). -/
def bundleTurn (k : CoreId) (n : StrandId) (x : Strand) (s : State) : Out :=
  match fetchCode s k x.team x.pc 32 32 1 0 with
  | .pager va =>
    if x.failed = some (va.toNat / 4096) then .next (stopWhole s k n [] 0 (trapMemv va 5 1 0))
    else .next (stallStrand s k n (.pager va) [])
  | .wait => .next (stallStrand s k n .landing [])
  | .trap t => .next (stopWhole s k n [] 0 t)
  | .ok s bs =>
    match badSlot bs with
    | some (m, w) =>
      mapNext (fun t => match strandAt (coreAt t k) n with
        | some y => stopStrand t k n bs y.fx.faults allSlots
        | none => t) (issueAs (.strand k n m) (.illop w) s)
    | none =>
      let late := allSlots.filter (slotWaits s k n x bs)
      if earlierWaits s k n x bs || !late.isEmpty then .next (stallStrand s k n .landing (late ++ alsoLate s k n x bs late))
      else if x.step && !x.resume then .next (stepArrives s k n x bs)
      else issueSlots k n x bs s

/-- Up to four bundles are skipped (R31, R32). -/
def skipBundles (k : CoreId) (n : StrandId) : Nat → State → State
  | 0, s => s
  | m + 1, s => match skipBundle s k n with | some t => skipBundles k n m t | none => s

/-- A turn of a strand: what is due lands, empty bundles are skipped, and the next bundle is tried. -/
def strandTurn (k : CoreId) (n : StrandId) (s : State) : Out :=
  match strandAt (coreAt s k) n with
  | none => .next s
  | some x =>
    if !strandRuns s k n x then .next s
    else if x.rewinding then .next (rewind s k n x.fx.rewinder)
    else
      let s := landDue (skipBundles k n 4 s) k n
      match strandAt (coreAt s k) n with
      | none => .next s
      | some x =>
        if !strandRuns s k n x then .next s
        else if x.fx.segb then
          .next (if segDrained s k n x then startSegment s k n else stallStrand s k n .landing [])
        else bundleTurn k n x s

/-! ## The end of a strand (R28) -/

/-- A strand that has ended retires once its results have landed and its accesses are performed. -/
def retireEnded (s : State) (k : CoreId) (n : StrandId) : State :=
  match strandAt (coreAt s k) n with
  | some { state := .ending, holds := [], pend := ps, .. } =>
    let open_ := s.reqs.any fun r => r.who == .strand k n && (match r.op with | .engine .. => false | _ => true)
    if open_ || ps.any fun p => decide ((coreAt s k).cycle < p.arrive) then s else finishStrand (landAll s k n) k n
  | _ => s

end Sys2Proof.Machine
end

