-- ==== Sys2Proof/Machine/Errors.lean ====
section
/-! DEFINITION. What the hardware does to itself (R114, R304, R315): an uncorrectable error, a beat whose checksum lane disagrees,
and a protected pair whose signatures differ. The manual says what follows of each, and not when it happens: free values
decide (log entries 31 and 32). -/

namespace Sys2Proof.Machine

/-- An item of a list that a free value picks. -/
def pickOf {α : Type} (xs : List α) (v : W64) : Option α := xs[v.toNat % max 1 xs.length]?

/-- Matrix results in flight, those that were given away with their tile among them: the core, the team and the tile (R114, R152). -/
def mxFlights (s : State) : List (CoreId × Nat × Nat) :=
  allCores.flatMap fun k =>
    (allStrands.flatMap fun n =>
      match strandAt (coreAt s k) n with
      | some x => x.pend.filterMap fun p => match p.dst with | .tile t true _ => some (k, x.team, t) | _ => none
      | none => []) ++
    (coreAt s k).seats.flatMap fun x =>
      ((List.range x.tiles.length).filter fun t => (x.tiles[t]?).any fun y => decide ((coreAt s k).cycle < y.mx)).map fun t => (k, x.team, t)

/-- An FP32 magnitude of a free value, of at least `low`: no NaN, no sign. -/
def magnitude (v low : W32) : W32 :=
  let m := v &&& 0x7FFFFFFF#32
  if m.ult low then low else if m.ult 0x7F800000#32 then m else 0x7F800000#32

/-- The discrepancies of a suspect tile: a relative one above 2^-10, and an absolute one above 0 (R114, R298). -/
def discrepancy (v : W64) : W64 := magnitude (v.extractLsb' 32 32) 0x3A800001#32 ++ magnitude (v.extractLsb' 0 32) 1#32

/-- The checksum lane of a beat disagrees with its sum: the engine marks the C tile suspect (R114). Which elements are marked is
free, and so are the discrepancies, above the engine's threshold. -/
def suspectTile (s : State) (v : W64) : State :=
  match pickOf (mxFlights s) v with
  | none => s
  | some (k, team, t) =>
    let (s, spot) := freshValue s
    let (s, gap) := freshValue s
    modCore s k fun c => modTile c team t fun x => { x with suspect := true, spot := spot.extractLsb' 0 48, gap := discrepancy gap }

/-- An error counted at a die, as RESYNC reports it (R390). -/
def countError (s : State) (d : DieId) (corrected : Bool) : State :=
  modDie s d fun y => if corrected then { y with corrected := y.corrected + 1 } else { y with uncorrected := y.uncorrected + 1 }

/-- A seat of a core, both picked by a free value. -/
def pickSeat (s : State) (v : W64) : Option (CoreId × Seat) :=
  let k : CoreId := Fin.ofNat 256 (v.extractLsb' 32 8).toNat
  (pickOf (coreAt s k).seats v).map fun x => (k, x)

/-- An uncorrectable error in a word of a team's tile (R304). -/
def poisonedTile (s : State) (v w : W64) : State :=
  match pickSeat s v with
  | none => s
  | some (k, x) =>
    modCore (countError s (coreDie k) false) k fun c => modTile c x.team (w.toNat % max 1 x.tiles.length) fun y =>
      poisonTile (some 13) (4 * (w.extractLsb' 32 9).toNat) 4 y

/-- An uncorrectable error in a line of a team's shared memory. -/
def poisonedShared (s : State) (v w : W64) : State :=
  match pickSeat s v with
  | none => s
  | some (k, x) =>
    let line := w.toNat % max 1 (teamShared s x.team / 128)
    modCore (countError s (coreDie k) false) k fun c => modSeat c x.team fun y => { y with poisoned := line :: y.poisoned.erase line }

/-- An uncorrectable error in a line that an L2 slice holds. -/
def poisonedSlice (s : State) (v : W64) : State :=
  match pickOf s.lines v with
  | some x => modLine (countError s (dieOf (128 * x.line)) false) x.line fun y => { y with poison := true, unit := 11 }
  | none => s

/-- An uncorrectable error in a line of a stack. -/
def poisonedStack (s : State) (v : W64) : State :=
  let line := v.toNat % (Config.pkgBytes / 128)
  modLine (countError s (dieOf (128 * line)) false) line fun y => { y with poison := true, unit := 12 }

/-- An uncorrectable error in the data of a store that is under way (R304, R319). -/
def badStore (s : State) (v : W64) : State :=
  match pickOf (s.reqs.filter fun r => match r.op with | .store _ => true | _ => false) v with
  | some r => modReq (countError s (destDie r.core r.loc) false) r.id fun x => { x with bad := true }
  | none => s

/-- An error in the hand-over record of a restrike: its digest is bad (R393). -/
def badHandOver (s : State) (v w : W64) : State :=
  modDie s (Fin.ofNat 4 v.toNat) fun y => { y with hand := y.hand.map fun h => { h with digest := h.digest ^^^ w.setWidth 256 } }

/-- What the hardware does to itself in a quarter of a tick: most often nothing. -/
def hardwareError (s : State) : State :=
  let (s, what) := freshValue s
  let (s, v) := freshValue s
  let (s, w) := freshValue s
  match what.toNat with
  | 1 => suspectTile s v
  | 2 => poisonedTile s v w
  | 3 => poisonedShared s v w
  | 4 => poisonedSlice s v
  | 5 => poisonedStack s v
  | 6 => badStore s v
  | 7 => badHandOver s v w
  | 8 => countError s (Fin.ofNat 4 v.toNat) true
  | _ => s

/-- A core runs a protected team. -/
def coreProtected (s : State) (k : CoreId) : Bool := (coreAt s k).seats.any fun x => teamProtected s x.team

/-- The pair of a core compares its signatures for the cycle; whether they differ is free (R315). -/
def comparePair (s : State) (k : CoreId) : State :=
  let (s, v) := freshValue s
  modCore s k fun c => { c with mismatch := v.getLsbD 0 }

end Sys2Proof.Machine
end

