-- ==== Sys2Proof/Machine/Plan.lean ====
section
/-! DEFINITION. The model's own schedule (log entry 2): when the agenda is empty, time advances and the steps that are due are
listed. What each of them does is the manual's; in which order they come is one choice among those the manual allows. -/

namespace Sys2Proof.Machine

/-! ## Time (R2, R103, R395) -/

/-- A list in ascending order of a key. -/
def sortBy {α : Type} (key : α → Nat) : List α → List α
  | [] => []
  | a :: as =>
    let rec put : List α → List α
      | [] => [a]
      | b :: bs => if key a ≤ key b then a :: b :: bs else b :: put bs
    put (sortBy key as)

/-- A quarter of a tick passes. -/
def advanceTick (s : State) : State :=
  if s.quarter = 3 then { s with tick := s.tick + 1, quarter := 0 } else { s with quarter := s.quarter + 1 }

/-- The octets of the READY dies whose clock makes a cycle in this quarter: 1.0 GHz + 250 MHz x step. A core leaves reset, and its CLOCK
begins to count, when its die is READY (R103, R385; DESIGN CHOICE, log entry 88). -/
def dueOctets (s : State) : List (DieId × Fin 8) :=
  (List.finRange 4).flatMap fun d =>
    if dieReady s d then
      ((List.finRange 8).filter fun m => 16 ≤ (dieAt s d).phase[m] + 4 + (dieAt s d).freq[m].val).map fun m => (d, m)
    else []

/-- The clocks of the octets move on. -/
def advancePhases (s : State) : State :=
  { s with dies := s.dies.map fun d =>
      if d.state == .ready then { d with phase := Vector.ofFn fun m => (d.phase[m] + 4 + d.freq[m].val) % 16 } else d }

/-- The cores of an octet. -/
def octetCores (d : DieId) (m : Fin 8) : List CoreId := (List.range 8).map fun i => Fin.ofNat 256 (64 * d.val + 8 * m.val + i)

/-! ## A core's cycle (R141, R142, R147) -/

/-- Something is on a core. -/
def coreBusy (c : Core) : Bool :=
  c.warps.any Option.isSome || c.strands.any Option.isSome || !c.copyQ.isEmpty || !c.copies.isEmpty || c.sampler.en

/-- A fragment is READY, and could issue its next op or trap at it (R135, R141). -/
def fragReady (s : State) (k : CoreId) (f : FragId) : Bool :=
  match fragAt (coreAt s k) f with
  | none => false
  | some x =>
    x.state == .ready && fragRuns s k x &&
      (match nextOp s k x with | .op s i => fragCan s k f x i | .illop .. | .pager _ | .trap _ => true | .wait => false)

/-- The ready fragments of a quadrant in the order of selection: long unselected ones, those selected in the last cycle, and then
by age (R142). -/
def quadOrder (c : Core) (ready : List FragId) : List FragId :=
  let get := fun (g : Frag → Nat) (f : FragId) => match fragAt c f with | some x => g x | none => 0
  let last := get fun x => x.lastSel
  let born := get fun x => match warpAt c x.warp with | some w => w.born | none => 0
  let starved := sortBy last (ready.filter fun f => 64 < c.cycle - last f)
  let again := ready.filter c.lastSel.contains
  (starved ++ again ++ sortBy (fun f => 256 * born f + f.val) ready).eraseDups

/-- A fragment is to halt before its next op: it merges with no other on its way to the halt (R344, R346, R349). -/
def haltsFirst (s : State) (k : CoreId) (f : FragId) : Bool :=
  (fragAt (coreAt s k) f).any fun x => x.watch || (x.step && !x.resume) || (breakFrag s k f).isSome

/-- A selected fragment merges with those of its warp at its address, but for those that halt there (R138). -/
def pickMerge (s : State) (k : CoreId) (f : FragId) (ready : List FragId) : State × FragId :=
  if haltsFirst s k f then (s, f) else mergeSelected s k f fun g => ready.contains g && !haltsFirst s k g

/-- A quadrant selects up to two ready fragments; each merges with those of its warp at its address (R138, R141, R142). -/
def pickQuad (s : State) (k : CoreId) (ready : List FragId) : State × List FragId :=
  let order := quadOrder (coreAt s k) ready
  match order with
  | [] => (s, [])
  | f :: rest =>
    let (s, f') := pickMerge s k f ready
    match rest.find? fun g => g != f' && (fragAt (coreAt s k) g).isSome with
    | none => (s, [f'])
    | some g =>
      let (s, g') := pickMerge s k g ready
      (s, [f', g'])

/-- The fragments that issue in a cycle, in ascending FRAG (R52, R101). -/
def pickFrags (s : State) (k : CoreId) : State × List FragId :=
  let ready := allFrags.filter (fragReady s k)
  let quad := fun (f : FragId) => match fragAt (coreAt s k) f with | some x => x.warp.val % 4 | none => 4
  let r := (List.range 4).foldl (fun (r : State × List FragId) q =>
    let (s, fs) := pickQuad r.1 k (ready.filter fun f => quad f == q)
    (s, r.2 ++ fs)) (s, [])
  (r.1, sortBy (fun f => f.val) r.2)

/-- A strand's team holds its cores. -/
def strandPlaced (s : State) (x : Strand) : Bool :=
  match teamAt s x.team with | some t => t.status == .placed | none => false

/-- The front end at the start of a cycle: a strand of a team that is pre-empted gives it up, but for a stopped one; an idle front
end takes the next strand that has become ready, after the one that left it (R147, R306). -/
def pickFront (s : State) (c : Core) : Core :=
  match c.front with
  | some n =>
    match strandAt c n with
    | some x => if strandPlaced s x || x.state == .stopped then c else switchStrand c n
    | none => switchStrand c n
  | none =>
    let ok := fun m => match strandAt c m with | some x => x.state == .ready && strandPlaced s x | none => false
    { c with front := ((List.range 8).map fun i => (Fin.ofNat 8 (c.lastFront.val + 1 + i) : StrandId)).find? ok }

/-- The registers of a warp as a cycle finds them, for one of which two fragments issue in it (R52, R101, R183). -/
def noteCycle (twice : WarpIx → Bool) (c : Core) : Core :=
  allWarps.foldl (fun c w =>
    match warpAt c w with
    | none => c
    | some x =>
      let now := if twice w then some { fpctl := x.fpctl, fpstat := x.fpstat, tbase := x.tbase, sel := x.sel : CycleRegs } else none
      if x.now == now then c else setWarp c w (some { x with now := now })) c

/-- Warps with a fragment at a CONV: its release is looked at again, since a fragment may have come back to it (R139, R158). -/
def openConvs (s : State) (k : CoreId) : State :=
  allWarps.foldl (fun s w =>
    if (liveFrags (coreAt s k) w).any fun f => (fragAt (coreAt s k) f).any fun x => x.state == .convw then convCheck s k w else s) s

/-- A core's cycle begins: its clock, retirements, and the selection; the steps of the cycle. -/
def coreCycle (s : State) (k : CoreId) : State × List Choice :=
  let s := modCore s k fun c => { c with cycle := c.cycle + 1, lastSel := c.issued, issued := [], mismatch := false }
  if !coreBusy (coreAt s k) then (s, [])
  else
    let s := openConvs (allStrands.foldl (fun s n => retireEnded s k n) s) k
    let s := modCore s k (pickFront s)
    let (s, fs) := pickFrags s k
    let place := fun (f : FragId) => (fragAt (coreAt s k) f).map (·.warp)
    let again := allFrags.filter fun f => !fs.contains f &&
      (fragAt (coreAt s k) f).any fun x => match x.state with | .fragw .. => true | _ => false
    let turns := sortBy (fun f => f.val) (fs ++ again)
    let s := modCore s k fun c =>
      let c := noteCycle (fun w => decide (1 < (turns.filter fun f => place f == some w).length)) c
      fs.foldl (fun c f => modFrag c f fun x => { x with lastSel := c.cycle }) { c with issued := fs }
    let c := coreAt s k
    let sample := if c.sampler.en then [Choice.event (.stallSample k)] else []
    let pair := if coreProtected s k then [Choice.compare k] else []
    let strand := match c.front with | some n => [Choice.strand k n] | none => []
    (s, sample ++ pair ++ turns.map (Choice.frag k) ++ strand ++
      (c.copies.filter fun x => !x.moved).map fun x => Choice.engine k x.id)

/-! ## Agents that wait -/

/-- The events that may end a fragment's wait. -/
def fragEvents (s : State) (k : CoreId) (f : FragId) : List Instr :=
  let who := AgentRef.frag k f
  match fragAt (coreAt s k) f with
  | none => []
  | some x =>
    (if x.fetched then [] else [.instructionFetchArrival k f]) ++
      match x.state with
      | .wait _ c =>
        match c with
        | .take _ => [.takeComplete who]
        | .fence .. => [.fenceComplete who]
        | .release _ | .launch _ | .jnew .. | .arrive _ => [.releaseSend who]
        | .spill .. => [.releaseSend who, .spillTimeout who]
        | .await _ => [.awaitWake who]
        | .ring .. => [.ringWake who]
        | .jwait .. => [.jwaitWake who]
        | .landing .. => [.migrationLanding k f, .landingSlotTimeout k f]
        | .copyQueue => []
      | .fragw .. => [.fragxTimeout k f]
      | .parked (.fault vs _) =>
        match fragCtx s k x with
        | some c => vs.flatMap fun v => [.pagerFill c v.2, .pagerPoolTimeout c v.2]
        | none => []
      | .parked (.presence _) => [.presenceResume who]
      | .halted _ (.wait _ (.arrive _)) => [.releaseSend who]
      | .parked .budget | .ready | .convw | .barw .. | .halted .. | .stopped => []

/-- The events that may end a strand's wait. -/
def strandEvents (s : State) (k : CoreId) (n : StrandId) : List Instr :=
  let who := AgentRef.strand k n
  match strandAt (coreAt s k) n with
  | none => []
  | some x =>
    (match x.state with | .rdv .. => [.rdvRelease k n] | _ => []) ++
      (match x.stall with
        | some (.take _) => [.takeComplete who]
        | some (.await _) => [.awaitWake who]
        | some (.ring ..) => [.ringWake who]
        | some (.presence _) => [.presenceResume who]
        | some (.pager va) => [.pagerFill (teamCtx s x.team) va, .pagerPoolTimeout (teamCtx s x.team) va]
        | some (.unit _) => [.unitStallEnd k n]
        | some (.jwait _) => [.jwaitWake who]
        | some .landing | some .copyQueue | some .budget | none => []) ++
      x.holds.flatMap fun h =>
        match h.cond with
        | .spill .. => [.releaseSend who, .spillTimeout who]
        | _ => [.releaseSend who]

/-- The events of a core's agents and engine. -/
def coreEvents (s : State) (k : CoreId) : List Instr :=
  let c := coreAt s k
  if !coreBusy c then []
  else
    (allFrags.filter fun f => (fragAt c f).isSome).flatMap (fragEvents s k) ++ allStrands.flatMap (strandEvents s k) ++
      (if c.copyQ.isEmpty then [] else [.copyAccept k]) ++
      c.copies.flatMap fun x => [.arrivalWordUpdate k x.id, .presenceSet k x.id, .commitOnArrival k x.id]

/-! ## Requests, units and pages -/

/-- The event that a request waits for. -/
def reqEvents (r : Req) : List Instr :=
  if r.reply.isSome then [.loadReply r.id]
  else if r.held then
    match r.op with
    | .fence .. => [.fenceComplete r.who]
    | _ => if r.rel.isSome then [.releaseSend r.who] else if sendable r then [.tokenSend r.id] else []
  else
    match r.loc, r.op with
    | .shared .., .engine .. => [.homeWrite r.id]
    | .shared .., _ => []
    | _, .load .. | _, .fill => [.homeFill r.id]
    | _, .store _ | _, .engine .. => [.homeWrite r.id]
    | _, .atomic .. | _, .cas .. => [.homeAtomic r.id]
    | _, .fence .. | _, .kick => []

/-- The pages of a range. -/
def rangePages (a n : Nat) : List Nat := (List.range ((a % 4096 + n + 4095) / 4096)).map fun i => a / 4096 * 4096 + 4096 * i

/-- The addresses that a core's engine is about to reach: the next indices of the request at the head of its queue, or its
destinations, and the next pieces of the copies under way. -/
def enginePages (s : State) (k : CoreId) : List (UnitRef × CtxId × Nat) :=
  let c := coreAt s k
  let head := match c.copyQ with
    | [] => []
    | q :: _ =>
      if q.idx.length < copyIndices q then [(.copy q.id, q.ctx, (reqField q 0x20 0 64 + 4 * q.idx.length) % 2 ^ 64)]
      else ((List.range (copyCount q)).flatMap fun i => rangePages (copyElem q i).2.toNat (copyLen q)).map fun a => (.copy q.id, q.ctx, a)
  head ++ c.copies.flatMap fun x =>
    if x.moved then []
    else
      let (src, dst) := copyElem x.req x.elem
      [(.copy x.req.id, x.req.ctx, (src + BitVec.ofNat 64 x.off).toNat), (.copy x.req.id, x.req.ctx, (dst + BitVec.ofNat 64 x.off).toNat)]

/-- A LAUNCH of a context waits for the overflow ring. -/
def spillsWait (s : State) (c : CtxId) : Bool :=
  let spill := fun (w : WaitFor) => match w with | .spill .. => true | _ => false
  allCores.any fun k =>
    let x := coreAt s k
    (allFrags.any fun f => match fragAt x f with
      | some y => (match y.state with | .wait _ w => spill w | _ => false) && fragCtx s k y == some c
      | none => false) ||
    allStrands.any fun n => match strandAt x n with
      | some y => y.holds.any (fun h => spill h.cond) && (teamAt s y.team).map (·.ctx) == some c
      | none => false

/-- The addresses that a launch engine is about to reach. -/
def launchPages (s : State) : List (UnitRef × CtxId × Nat) :=
  let events := fun (u : UnitRef) (c : CtxId) (raw : LineData) => [(u, c, recBits raw 0x50 0 64), (u, c, recBits raw 0x60 0 64)]
  (List.finRange 256).flatMap (fun i => match queueAt s i with
    | none => []
    | some x =>
      let u : UnitRef := .queue (Fin.ofNat 4 (i.val / 64)) (64 + i.val % 64)
      if x.head = x.tail then []
      else
        let a := x.ring + BitVec.ofNat 64 (128 * (x.head.toNat % 2 ^ x.log2n))
        (u, x.ctx, a.toNat) :: (match unitRead s x.ctx a 128 with | some bs => events u x.ctx (BitVec.ofNat 1024 (natLE bs)) | none => [])) ++
    (List.finRange 4).flatMap (fun d => (dieAt s d).children.flatMap fun q =>
      match q.recs with | r :: _ => events (.queue d q.ctx.val) q.ctx r.raw | [] => []) ++
    (s.grids.filter fun g => g.ended).map (fun g => (.grid g.id, g.ctx, recBits g.raw 0x70 0 64)) ++
    (List.finRange 64).flatMap fun c => match ctxAt s c with
      | some x => (if !x.spstop && decide (x.spilled.length < 2 ^ x.ovlog) && spillsWait s c
            then [(.spill c, c, (overflowSlot x x.ovtail).toNat)] else []) ++
          (List.range x.spilled.length).map fun i => (.ring c, c, (overflowSlot x (x.ovhead + BitVec.ofNat 16 i)).toNat)
      | none => []

/-- The addresses that a join unit is about to reach. -/
def joinPages (s : State) : List (UnitRef × CtxId × Nat) :=
  s.joins.flatMap fun j =>
    if j.state != .quorum || joinFill j.desc = 0 then []
    else
      let n := joinElem j.desc * descBits j.desc 0x20 0 32
      let rows := if joinFill j.desc = 2 then
          (lostMembers j).flatMap fun i => rangePages ((descBits j.desc 0x28 0 64 + i * descBits j.desc 0x30 0 64) % 2 ^ 64) n
        else []
      (rangePages (descBits j.desc 0x18 0 64) n ++ rows).map fun a => (.join j.cell, j.ctx, a)

/-- The pages that units are about to reach and that the pager is to bring in; a unit that no longer wants a page needs no telling
(R216, R217). -/
def listWants (s : State) : State :=
  let pages := (allCores.flatMap fun k => if coreBusy (coreAt s k) then enginePages s k else []) ++ launchPages s ++ joinPages s
  let out := pages.filter fun p => p.2.2 / 4503599627370496 == 0 &&
    (match translateWalk s p.2.1 .read p.2.2 with | .pager _ => true | .ok .. | .bad _ | .wait => false)
  let ws := (out.map fun p => ({ ctx := p.2.1, page := p.2.2 / 4096, unit := p.1 } : Want)).eraseDups
  { s with wants := ws, failed := s.failed.filter ws.contains }

/-- The fills that the pager is to make for units, and the fills under way. -/
def unitFills (s : State) : List Instr :=
  let ps := (s.wants.filter fun w => !s.failed.contains w).map (fun w => (w.ctx, w.page)) ++ s.fills.map fun (f : Fill) => (f.ctx, f.page)
  ps.eraseDups.flatMap fun p => [.pagerFill p.1 (BitVec.ofNat 64 (4096 * p.2)), .pagerPoolTimeout p.1 (BitVec.ofNat 64 (4096 * p.2))]

/-- The event of a team. -/
def teamEvents (t : Team) : List Instr :=
  match t.status with
  | .placed => if t.drain.isSome then [.drainTimeout t.id] else []
  | .saving => [.teamSave t.id]
  | .flushing => [.preemptChoice t.id]
  | .saved => [.savedTeamRestore t.id]
  | .record => [.teamRetire t.id]
  | .retired => []

/-- A host command by its code. -/
def commandOf (p : PortId) (code : Byte) : Instr :=
  match code.toNat with
  | 1 => .ctxcreate p | 2 => .ctxstop p | 3 => .ctxresume p | 4 => .ctxdestroy p | 5 => .qreg p | 6 => .qunreg p
  | 7 => .spillclr p | 8 => .dbggrant p | 9 => .dbgrevoke p | 10 => .flagclr p | 11 => .resync p | 12 => .attest p
  | 13 => .stage p | 14 => .restrike p | 15 => .tlbinv p | _ => .unknownHostCommand p code

/-- The events of a port: its waiting writes, each the first that waits while one can be sent, and then those that overtake others; and its
command (R382, R397). -/
def portEvents (s : State) (p : PortId) : List Instr :=
  let q := portAt s p
  let n := (q.posted.filter fun w => w.done.isNone).length
  (List.replicate n (Instr.inboundDataSend p 0) ++ (List.range n).reverse.map (Instr.inboundDataSend p)) ++
    if q.hstat = 1 then [commandOf p q.hcmd] else []

/-- The events of a die: bring-up, its launch engine, and a restrike. -/
def dieEvents (s : State) (d : DieId) : List Instr :=
  let y := dieAt s d
  match y.state with
  | .reset | .failed => []
  | .selftest => [.selftestComplete d .pass]
  | .fwload => [.fwloadComplete d (bootOk s d)]
  | .link => [.linkComplete d true true]
  | .ready =>
    let queued := !y.children.isEmpty || (List.range 64).any fun j => (queueAt s (Fin.ofNat 256 (64 * d.val + j))).isSome
    (if queued then [.eventPoll d, .teamPlace d] else []) ++
      if y.striking.isSome then [.placementFallback d, .restrikeTimeout d, .imagePlaceReady d, .imageAlive d] else []

/-- Every event that may be due. -/
def allEvents (s : State) : List Instr :=
  (if s.quarter = 0 then [Instr.tokenRefill] else []) ++ (List.finRange 4).flatMap (dieEvents s) ++ (List.finRange 4).flatMap (portEvents s) ++
    s.reqs.flatMap reqEvents ++ allCores.flatMap (coreEvents s) ++ unitFills s ++ s.teams.flatMap teamEvents ++
    (s.grids.filter fun g => g.ended).map (fun g => .gridRetireSignal g.id) ++
    s.joins.flatMap fun j => match j.state with
      | .opened => if j.members.any (·.stop) then [.joinDeadlineFlush j.cell] else []
      | .quorum | .released | .failed => [.joinDeadlineFlush j.cell, .joinRelease j.cell]

/-! ## The plan -/

/-- The barriers of the placed teams looked at again: the wait of R198 of a release may be over, or a member may have come back
(R144, R145). -/
def openBarriers (s : State) : State :=
  s.teams.foldl (fun s t => if t.status == .placed then barriersCheck s t.id else s) s

/-- The records and flags that wait for an error queue are written as far as they can be (R317, R320). -/
def errqTurns (s : State) : State :=
  (List.finRange 64).foldl (fun s c =>
    match ctxAt s c with
    | some x => if x.recs.isEmpty && x.flagJobs.isEmpty then s else errqTurn s c
    | none => s) s

/-- The debugger's commands that are complete (R341). -/
def debugTurns (s : State) : State := (List.finRange 64).foldl settleDebug s

/-- A quarter of a tick passes, and its steps are listed. -/
def plan (s : State) : State :=
  let s := debugTurns (errqTurns (sweepMarks ((List.finRange 4).foldl settleDie (advanceTick s))))
  let ks := (dueOctets s).flatMap fun p => octetCores p.1 p.2
  let r := ks.foldl (fun (r : State × List Choice) k => let (s, cs) := coreCycle r.1 k; (s, r.2 ++ cs)) (openBarriers (advancePhases s), [])
  let s := listWants r.1
  { s with agenda := r.2 ++ (allEvents s).map Choice.event ++ [.error] }

/-- A step of the agenda; an event that is not enabled has passed. -/
def runChoice (c : Choice) (s : State) : Out :=
  match c with
  | .frag k f => fragTurn k f s
  | .strand k n => strandTurn k n s
  | .engine k c =>
    match movePiece k c s with
    | .refused _ => .next s
    | o => o
  | .compare k => .next (comparePair s k)
  | .error => .next (hardwareError s)
  | .event i =>
    match exec i { s with issuer := .none, start := none } with
    | .refused .notEnabled => .next s
    | o => o

/-- One step of the package: the next step of the agenda, or a new agenda. -/
def runStep (s : State) : Out :=
  match s.agenda with
  | [] => .next (plan s)
  | c :: rest => runChoice c { s with agenda := rest }

/-! ## A word where the machine fetches next -/

/-- The launch record of the team that withFetchWord sets up: code at [0x400000, 0x600000), one warp, one strand, 32 tiles. -/
def probeRecord : LineData :=
  BitVec.ofNat 1024 (natLE (bytesLE 8 0x400000 ++ bytesLE 8 0x400000 ++ bytesLE 8 0x400000 ++ bytesLE 8 0x600000 ++ bytesLE 8 0 ++
    bytesLE 8 (1 + 2 ^ 8 * 32)))

/-- The translation of the probe's code: 2 MiB of die 0's memory, readable, writable and executable. -/
def probeEntry : TlbEntry := { ctx := 0, base := 0x400000, size := 0x200000, pte := 0x8F#64 }

/-- The probe's team on core 0, with the translation of its code. -/
def probeCore (c : Core) (team : Nat) (warp : Bool) : Core :=
  let c := { c with seats := [{ team := team, tiles := List.replicate 32 { owner := ownHeld (holderStrand 0) }, slots := [0], strand := some 0 }],
                    tlb := [probeEntry], front := some 0, bubble := 0 }
  if warp then setFrag (setWarp c 0 (some (warpStart team probeRecord c.cycle))) 0 (some { fragStart 0 probeRecord c.cycle with fetched := true })
  else setStrand c 0 (some (strandStart team probeRecord))

/-- A team ready to run a word on core 0, as its warp's next op or in a slot of its strand's next bundle. -/
def probe (s : State) (warp : Bool) (code : List Byte) : State :=
  let id := s.nextId
  let g : Grid := { id := id, number := 0, depth := 0, ctx := 0, raw := probeRecord, cls := 0, die := 0, key := 64, next := 1 }
  let t : Team := { id := id, grid := id, ctx := 0, cores := [0], bars := Vector.replicate 16 {} }
  let s := { s with teams := [t], grids := [g], nextId := id + 1, dev := memPut s.dev (dieCell 0 0) code,
                    agenda := [if warp then .frag 0 0 else .strand 0 0] }
  modCore s 0 fun c => probeCore c id warp

/-- The state with an instruction's word where the next step fetches it. -/
def fetchWord (s : State) (nbits w : Nat) : State :=
  let bs := tableBytes nbits w
  match decodeFirst bs tableStreams with
  | some (.slot m, _) => probe s false ((List.replicate (4 * m.val) 0 ++ bs ++ List.replicate 32 0).take 32)
  | some (.warp, _) | none => probe s true bs

end Sys2Proof.Machine
end

