-- ==== Sys2Proof/Safety.lean ====
section
/-! DEFINITION. What the claims about the machine are stated in: who issues an op, what an op must meet to complete, what a
completed op leaves, and the form that the memories keep in a safe run. -/

namespace Sys2Proof.Machine

/-! ## The memories -/

/-- Device memory, host memory and every shared memory are in canonical form, that of a team that has ended and whose copies go on among
them. -/
structure State.memOk (s : State) : Prop where
  dev : Memory.wf s.dev = true
  host : Memory.wf s.host = true
  shared : ∀ k, ∀ x ∈ (coreAt s k).seats ++ (coreAt s k).ended, Memory.wf x.shared = true

/-- A state in which every byte of device, host and shared memory reads as in another. -/
structure SameBytes (s t : State) : Prop where
  dev : ∀ a, memRead t.dev a = memRead s.dev a
  host : ∀ a, memRead t.host a = memRead s.host a
  shared : ∀ k m a, memRead (sharedMem t k m) a = memRead (sharedMem s k m) a

/-- Device, host and shared memory read as before, and the other cores are as they were. -/
structure OneCore (s t : State) (k : CoreId) : Prop extends SameBytes s t where
  others : ∀ k', k' ≠ k → coreAt t k' = coreAt s k'

/-! ## Ops of a fragment -/

/-- Fragment f of core k issues; x is its entry and w its warp. -/
structure FragIssues (s : State) (k : CoreId) (f : FragId) (x : Frag) (w : Warp) : Prop where
  issuer : s.issuer = .frag k f
  frag : fragAt (coreAt s k) f = some x
  warp : warpAt (coreAt s k) x.warp = some w

/-- What an op of a fragment has at hand: the warp's registers as the ops of its cycle find them (R52, R101, R183), the lanes of the
guard, and the tile that the warp's window selects. -/
def laneEnv (s : State) (i : Instr) (g : Guard) (k : CoreId) (f : FragId) (x : Frag) (w : Warp) : WarpEnv :=
  { i := i, k := k, f := f, x := x, w := atCycle w, parts := partsOf w x.mask g, tile := selTile (coreAt s k) w }

/-- The fragment's op is one that a warp accepts, and some lane takes part in it. -/
structure LaneTakes (s : State) (i : Instr) (g : Guard) (k : CoreId) (f : FragId) (x : Frag) (w : Warp) : Prop
    extends FragIssues s k f x w where
  accepted : i.wf .warp = true
  takesPart : partsOf w x.mask g ≠ 0#32

/-- Nothing about an op's registers stops it: the window is held if the op names a Y register, and no lane that takes part
reads a poisoned register or reaches a poisoned tile (R161, R304). -/
structure LaneClean (e : WarpEnv) (srcs dsts : List Reg) : Prop where
  window : (∃ r ∈ srcs ++ dsts, isY r = true) → windowHeld e = true
  poison : ∀ l, laneIn e.parts l = true → ∀ r ∈ srcs ++ dsts.filter isY, poisoned e l r = false

/-- The same of an op that acts once, with the lead lane's registers (R160). -/
structure OnceClean (e : WarpEnv) (srcs dsts : List Reg) : Prop where
  window : (∃ r ∈ srcs ++ dsts, isY r = true) → windowHeld e = true
  poison : ∀ r ∈ srcs ++ dsts.filter isY, poisoned e (leadLane e.parts) r = false

/-- The warp after an op of it has been counted (R299). -/
def countedWarp (w : Warp) : Warp := { w with wisn := w.wisn + 1 }

/-- The state after the op has been counted, and before anything else of it. -/
def countedState (s : State) (e : WarpEnv) : State :=
  setCore s e.k (setFrag (modWarp (coreAt s e.k) e.x.warp countedWarp) e.f (some { e.x with num := e.w.wisn }))

/-- A core on which the fragment and the warp of an op are replaced, and nothing else. -/
def fragCore (s : State) (e : WarpEnv) (x : Frag) (w : Warp) : Core :=
  setFrag (setWarp (coreAt s e.k) e.x.warp (some w)) e.f (some x)

/-- The fragment after an op without a transfer: its number, the next address, and the results that later ops wait for. -/
def doneFrag (e : WarpEnv) (now : Nat) (rs : List Reg) (ps : List Pred) (lat : Nat) : Frag :=
  { e.x with num := e.w.wisn, pc := e.x.pc + opLen e.i,
             score := scoreKeys rs ps (now + lat) ++ e.x.score.filter fun q => now < q.2 }

/-- A warp after a per-lane op: the lanes that take part have their results, FPSTAT has the flags, and an SWR of the same cycle
finds them (R52, R101). -/
def doneWarp (e : WarpEnv) (res : Lane → LaneRes) (w : Warp) : Warp :=
  { raiseFlags (laneFlags e.parts res) w with
    wisn := w.wisn + 1
    lanes := Vector.ofFn fun l => if laneIn e.parts l then laneWrite w.lanes[l] (res l) else w.lanes[l] }

/-- Some lane that takes part writes a Y register. -/
def writesWindow (e : WarpEnv) (res : Lane → LaneRes) : Bool :=
  (allLanes.filter (laneIn e.parts)).any fun l => (res l).regs.any fun p => isY p.1

/-- A completed per-lane op: its fragment, its warp, and the tile of the window when it writes Y registers. -/
def laneDone (s : State) (e : WarpEnv) (rs : List Reg) (ps : List Pred) (lat : Nat) (res : Lane → LaneRes) : State :=
  let now := (coreAt s e.k).cycle
  let c := setFrag (modWarp (coreAt s e.k) e.x.warp (doneWarp e res)) e.f (some (doneFrag e now rs ps lat))
  setCore s e.k (match e.w.sel with
    | some t => if writesWindow e res then modTile c e.w.team t fun y =>
        { y with data := tileWrites e.parts res y.data, arrive := max y.arrive (now + lat) } else c
    | none => c)

/-- A completed op that changes its fragment and its warp only. -/
def fragDone (s : State) (e : WarpEnv) (x : Frag) (w : Warp) : State := setCore s e.k (fragCore s e x w)

/-- The fragment goes on to its next op. -/
def nextFrag (e : WarpEnv) : Frag := { e.x with num := e.w.wisn, pc := e.x.pc + opLen e.i }

/-! ## Ops of a strand -/

/-- Slot `slot` of strand n's bundle issues; st is the strand at bundle start, and cur as the slots before have left it. -/
structure SlotIssues (s : State) (k : CoreId) (n : StrandId) (slot : Slot) (st cur : Strand) : Prop where
  issuer : s.issuer = .strand k n slot
  start : strandAt (startCore s k) n = some st
  here : strandAt (coreAt s k) n = some cur

/-- What a slot has at hand. -/
def slotEnv (s : State) (i : Instr) (k : CoreId) (n : StrandId) (slot : Slot) (st : Strand) : StrandEnv :=
  { i := i, k := k, n := n, slot := slot, st := st, c := startCore s k, rep := st.replay[slot] }

/-- The slot's op is one that the slot accepts, its guard holds, and it reads no poisoned register. -/
structure SlotTakes (s : State) (i : Instr) (g : Guard) (k : CoreId) (n : StrandId) (slot : Slot) (st cur : Strand) : Prop
    extends SlotIssues s k n slot st cur where
  accepted : i.wf (.slot slot) = true
  guard : guardless i = true ∨ opGuard (slotEnv s i k n slot st) g = true
  clean : ∀ r ∈ (usesOf false i).srcs, st.poison.getLsbD r.toNat = false

/-- The state with one strand replaced. -/
def strandDone (s : State) (k : CoreId) (n : StrandId) (x : Strand) : State := setCore s k (setStrand (coreAt s k) n (some x))

/-- The result of a slot, due a number of bundle clocks after its bundle (R18). -/
def slotPend (e : StrandEnv) (lat : Nat) (dst : PendDst) : Pend :=
  { due := e.st.clock + lat, arrive := e.c.cycle + lat, pc := tpcSlot e.st.pc e.slot, dst := dst }

/-- A strand with one more result on its way. -/
def addPend (cur : Strand) (e : StrandEnv) (lat : Nat) (dst : PendDst) : Strand :=
  { cur with pend := pendInsert (slotPend e lat dst) cur.pend }

/-! ## Memory ops -/

/-- An op's accesses pass every check and have their places (R222, R223): no trap, no absent line, no walk held at a pending line, no
page to fetch, no budget reached, and nothing that a running member may not do. -/
structure AccsPass (s : State) (q : Issue) (i : Instr) (kind : MemKind) (log : Nat) (irr : Bool) (as : List Acc) : Prop where
  checks : checkAccs s q i kind log irr as = none
  present : kind = .load → as.flatMap (absentLines s q) = []
  walked : (locate s q kind as).wait = false
  mapped : (locate s q kind as).pager = [] ∧ (locate s q kind as).bad = []
  retract : kind = .load ∨ memberRunning s q.team = false ∨ touchesSys (locate s q kind as) = false
  budget : kind = .load ∨ overBudget s q.team (devLines (locate s q kind as).ok) = false

/-- The accesses are seen: their translations enter the TLBs, the sampler counts them, and a watch range that they hit is noted
(R212, R349, R357). -/
def seen (s : State) (q : Issue) (kind : MemKind) (as : List Acc) : State :=
  let ps := (locate s q kind as).ok
  let o := observe (noteWalks s q ps) q kind ps
  if o.2 then noteWatch o.1 q.who else o.1

/-- A fragment's memory op has performed its accesses, and the fragment is ready past it. -/
def memDone (s : State) (e : WarpEnv) (kind : MemKind) (as : List Acc) (perform : State → List Placed → State) : State :=
  let q := warpIssue s e
  warpEnd (perform (seen s q kind as) (locate s q kind as).ok) e

/-- The requests of some accesses, in order. -/
def sendAll (req : State → Placed → Nat → State) (s : State) (ps : List Placed) : State :=
  (lineCosts ps).foldl (fun s p => req s p.1 p.2) s

/-! ## Tile ops -/

/-- What a tile op of a unit leaves: its result is due after `lat` bundles, its unit is busy for `busy` bundles, the tiles that it
writes in an open segment are in the undo log, and no memory has changed (R18, R21, R311). -/
structure UnitDone (s t : State) (e : StrandEnv) (cur : Strand) (busy lat : Nat) (outs : List PendDst) : Prop where
  bytes : OneCore s t e.k
  unit : (coreAt t e.k).unitFree = (coreAt s e.k).unitFree.set (slotUnit e.slot) (e.c.cycle + busy)
  strand : ∃ st', strandAt (coreAt t e.k) e.n = some st' ∧ st'.pend = outs.foldl (fun ps d => pendInsert (slotPend e lat d) ps) cur.pend ∧
    st'.busy = cur.busy.set (slotUnit e.slot) (e.st.clock + busy) ∧ st'.s = cur.s ∧ st'.p = cur.p ∧ st'.fx = cur.fx

/-- No source tile is suspect or poisoned, and an open segment has room for the written tiles in its undo log (R304, R311, R312). -/
structure TilesGood (e : StrandEnv) (cur : Strand) (srcs outs : List Nat) : Prop where
  good : ∀ t ∈ srcs, (viewTile e t).suspect = false ∧ (viewTile e t).poison = false
  room : e.st.segOpen = true → cur.undo.length + (outs.filter fun t => !cur.undo.any fun u => u.1 == t).eraseDups.length ≤ 16

end Sys2Proof.Machine
end

