-- ==== Sys2Proof/Certificates/Slice0/Obligations.lean ====
section
/-! DEFINITION. The statements about the machine, and the tables that they are stated over. -/

open Sys2Proof Sys2Proof.Machine

namespace Sys2Proof.Claims

/-! ## Per-lane ops of a warp -/

/-- A per-lane op: its guard, the registers it reads, the registers and predicates it writes, the cycles after which a later op
of the fragment may use the results, and what a lane writes. -/
structure LaneRow where
  g : Guard
  srcs : List Reg
  dsts : List Reg := []
  pds : List Pred := []
  lat : Nat
  res : WarpEnv → Lane → LaneRes

/-- An op of both streams that writes one integer register: its guard, D and the fields that A, B and the old D are read from, the
registers a lane reads, and D's new value at width w (R78). -/
structure AluRow where
  g : Guard
  d : Reg
  a : Reg
  b : Reg
  srcs : List Reg
  val : (w : Nat) → BitVec w → BitVec w → BitVec w → BitVec w

/-- An op of A and B. -/
def ofAB (g : Guard) (d a b : Reg) (val : (w : Nat) → BitVec w → BitVec w → BitVec w) : AluRow :=
  { g := g, d := d, a := a, b := b, srcs := [a, b], val := fun w x y _ => val w x y }
/-- An op of A, B and the old D. -/
def ofABD (g : Guard) (d a b : Reg) (val : (w : Nat) → BitVec w → BitVec w → BitVec w → BitVec w) : AluRow :=
  { g := g, d := d, a := a, b := b, srcs := [a, b, d], val := val }
/-- An op of A. -/
def ofA (g : Guard) (d a : Reg) (val : (w : Nat) → BitVec w → BitVec w) : AluRow :=
  { g := g, d := d, a := a, b := a, srcs := [a], val := fun w x _ _ => val w x }

/-- A left shift by a whole operand (R82). -/
def leftShift {w : Nat} (x : BitVec w) (n : Nat) : BitVec w := if n < w then x <<< n else 0#w
/-- A right shift by a whole operand, zeros entering (R82). -/
def rightShift {w : Nat} (x : BitVec w) (n : Nat) : BitVec w := if n < w then x >>> n else 0#w
/-- A right shift by a whole operand, copies of the sign bit entering: from n = w on, w copies of it (R82). -/
def signShift {w : Nat} (x : BitVec w) (n : Nat) : BitVec w :=
  if n < w then BitVec.ofInt w (x.toInt / 2 ^ n) else if x.msb then BitVec.allOnes w else 0#w

/-- BFE: f is the field of len bits at pos, and has its sign when sgn is 1 (R85). -/
def extracted {w : Nat} (x y : BitVec w) : BitVec w :=
  let pos := y.toNat % 256
  let len := min (y.toNat / 256 % 256) w
  let f := x.toNat / 2 ^ pos % 2 ^ len
  if len = 0 ∨ w ≤ pos then 0#w
  else if y.getLsbD 16 ∧ 2 ^ (len - 1) ≤ f then BitVec.ofInt w ((f : Int) - 2 ^ len) else BitVec.ofNat w f

/-- BFI: the bits of D from pos on, len of them, are those of A (R85). -/
def inserted {w : Nat} (x y d : BitVec w) : BitVec w :=
  let pos := y.toNat % 256
  let m := BitVec.ofNat w ((2 ^ min (y.toNat / 256 % 256) w - 1) * 2 ^ pos)
  (d &&& ~~~m) ||| (x <<< pos &&& m)

/-- The integer ops that write one register at the stream's width (R81 to R85, R89, R90). -/
def aluRow : Instr → Option AluRow
  | .add g d a b => some (ofAB g d a b fun _ x y => x + y)
  | .sub g d a b => some (ofAB g d a b fun _ x y => x - y)
  | .mul g d a b => some (ofAB g d a b fun _ x y => x * y)
  | .mulh g d a b => some (ofAB g d a b fun w x y => BitVec.ofInt w (x.toInt * y.toInt / 2 ^ w))
  | .mulhn g d a b => some (ofAB g d a b fun w x y => BitVec.ofNat w (x.toNat * y.toNat / 2 ^ w))
  | .min g d a b => some (ofAB g d a b fun _ x y => if x.toInt ≤ y.toInt then x else y)
  | .max g d a b => some (ofAB g d a b fun _ x y => if y.toInt ≤ x.toInt then x else y)
  | .minn g d a b => some (ofAB g d a b fun _ x y => if x.toNat ≤ y.toNat then x else y)
  | .maxn g d a b => some (ofAB g d a b fun _ x y => if y.toNat ≤ x.toNat then x else y)
  | .and g d a b => some (ofAB g d a b fun _ x y => x &&& y)
  | .or g d a b => some (ofAB g d a b fun _ x y => x ||| y)
  | .xor g d a b => some (ofAB g d a b fun _ x y => x ^^^ y)
  | .andn g d a b => some (ofAB g d a b fun _ x y => x &&& ~~~y)
  | .shl g d a b => some (ofAB g d a b fun _ x y => leftShift x y.toNat)
  | .shr g d a b => some (ofAB g d a b fun _ x y => rightShift x y.toNat)
  | .sar g d a b => some (ofAB g d a b fun _ x y => signShift x y.toNat)
  | .mov g d a => some (ofA g d a fun _ x => x)
  | .mac g d a b => some (ofABD g d a b fun _ x y z => z + x * y)
  | .popc g d a => some (ofA g d a fun w x => BitVec.ofNat w (((List.range w).filter x.getLsbD).length))
  | .clz g d a => some (ofA g d a fun w x => BitVec.ofNat w ((List.range w).reverse.takeWhile fun i => !x.getLsbD i).length)
  | .brev g d a => some (ofA g d a fun _ x => x.reverse)
  | .bfe g d a b => some (ofAB g d a b fun _ x y => extracted x y)
  | .bfi g d a b => some (ofABD g d a b fun _ x y z => inserted x y z)
  | .rotl g d a b => some (ofAB g d a b fun w x y => x.rotateLeft (y.toNat % w))
  | .abs g d a => some (ofA g d a fun w x => if 0 ≤ x.toInt then x else 0#w - x)
  | .neg g d a => some (ofA g d a fun w x => 0#w - x)
  | .addi g d a imm => some (ofA g d a fun w x => x + imm.signExtend w)
  | .andi g d a imm => some (ofA g d a fun w x => x &&& imm.signExtend w)
  | .ori g d a imm => some (ofA g d a fun w x => x ||| imm.signExtend w)
  | .xori g d a imm => some (ofA g d a fun w x => x ^^^ imm.signExtend w)
  | .shli g d a n => some (ofA g d a fun _ x => leftShift x n.toNat)
  | .shri g d a n => some (ofA g d a fun _ x => rightShift x n.toNat)
  | .sari g d a n => some (ofA g d a fun _ x => signShift x n.toNat)
  | .movi g d imm => some { g := g, d := d, a := d, b := d, srcs := [], val := fun w _ _ _ => imm.signExtend w }
  | .movh g d imm => some { g := g, d := d, a := d, b := d, srcs := [d], val := fun w _ _ z => (imm ++ z.extractLsb' 0 16).signExtend w }
  | _ => none

/-- The per-lane op of a row. -/
def AluRow.lane (r : AluRow) : LaneRow :=
  { g := r.g, srcs := r.srcs, dsts := [r.d], lat := 2,
    res := fun e l => { regs := [(r.d, r.val 32 (readReg e l r.a) (readReg e l r.b) (readReg e l r.d))] } }

/-- A slot's op: its guard, the bundles until its result is seen, and what it writes. -/
structure SlotRow where
  g : Guard
  dst : State → StrandEnv → PendDst

/-- The slot's op of a row. -/
def AluRow.slot (r : AluRow) : SlotRow :=
  { g := r.g, dst := fun _ e => .sreg r.d (r.val 64 (opA e r.a) (opB e r.b) (opD e r.d)) }

/-- A register pair's results, the low word in D. -/
def pairOf (d : Reg) (v : W64) : List (Reg × W32) := [(d, v.extractLsb' 0 32), (d + 1, v.extractLsb' 32 32)]

/-- SEL, MULW, LEA and LIMM in a warp (R84, R86, R87, R91), and PACK2 and UNPK2 (R172, R176). -/
def wideLane : Instr → Option LaneRow
  | .sel g d a b => some {
      g := always, srcs := [a, b], dsts := [d], lat := 2,
      res := fun e l => { regs := [(d, if predGet e.w.lanes[l].p g.pr != g.neg then readReg e l a else readReg e l b)] } }
  | .mulw g d a b => some {
      g := g, srcs := [a, b], dsts := [d, d + 1], lat := 2,
      res := fun e l => { regs := pairOf d (BitVec.ofInt 64 ((readReg e l a).toInt * (readReg e l b).toInt)) } }
  | .lea g d a b sh => some {
      g := g, srcs := [a, a + 1, b], dsts := [d, d + 1], lat := 2,
      res := fun e l => { regs := pairOf d ((readReg e l (a + 1) ++ readReg e l a) + ((readReg e l b).signExtend 64 <<< sh.toNat)) } }
  | .limm g d _ ext => some {
      g := g, srcs := [], dsts := [d], lat := 2,
      res := fun _ _ => { regs := [(d, ext)] } }
  | .pack2 g d a b => some {
      g := g, srcs := [a, b], dsts := [d], lat := 2,
      res := fun e l => { regs := [(d, (readReg e l b).extractLsb' 0 16 ++ (readReg e l a).extractLsb' 0 16)] } }
  | .unpk2 g d a m => some {
      g := g, srcs := [a], dsts := [d, d + 1], lat := 2,
      res := fun e l => { regs := [(d, widen m ((readReg e l a).extractLsb' 0 16)), (d + 1, widen m ((readReg e l a).extractLsb' 16 16))] } }
  | _ => none

/-- SEL, MULW, LEA and LIMM in a strand (R84, R86, R87, R91). -/
def wideSlot : Instr → Option SlotRow
  | .sel g d a b => some { g := g, dst := fun _ e => .sreg d (if opGuard e g then opA e a else opB e b) }
  | .mulw g d a b => some { g := g, dst := fun _ e => .sreg d (BitVec.ofInt 64 (((opA e a).extractLsb' 0 32).toInt * ((opB e b).extractLsb' 0 32).toInt)) }
  | .lea g d a b sh => some { g := g, dst := fun _ e => .sreg d (opA e a + (opB e b <<< sh.toNat)) }
  | .limm g d imm ext => some { g := g, dst := fun _ _ => .sreg d ((imm ++ ext).signExtend 64) }
  | _ => none

/-- An op that writes one predicate, from a lane's registers and predicates. -/
def onePred (g : Guard) (pd : Pred) (srcs : List Reg) (lat : Nat) (val : (Reg → W32) → (Pred → Bool) → Bool) : LaneRow :=
  { g := g, srcs := srcs, pds := [pd], lat := lat,
    res := fun e l => { preds := [(pd, val (readReg e l) (predGet e.w.lanes[l].p))] } }

/-- A condition code on two values of a width (R92). -/
def holds {w : Nat} (cc : Cond) (x y : BitVec w) : Bool :=
  match cc with
  | .eq => x == y | .ne => x != y
  | .lt => decide (x.toInt < y.toInt) | .le => decide (x.toInt ≤ y.toInt)
  | .gt => decide (y.toInt < x.toInt) | .ge => decide (y.toInt ≤ x.toInt)
  | .ltn => decide (x.toNat < y.toNat) | .gen => decide (y.toNat ≤ x.toNat)

/-- The lanes that take part and whose predicate is true (R177). -/
def trueLanes (e : WarpEnv) (pa : Pred) : LaneMask := maskOf fun l => laneIn e.parts l && predGet e.w.lanes[l].p pa

/-- The comparisons, predicate ops and votes (R92, R93, R177). -/
def predRow : Instr → Option LaneRow
  | .cmp g pd cc a b => some (onePred g pd [a, b] 2 fun r _ => holds cc (r a) (r b))
  | .cmpi g pd cc a imm => some (onePred g pd [a] 2 fun r _ => holds cc (r a) (imm.signExtend 32))
  | .pand g pd pa pb => some (onePred g pd [] 2 fun _ p => p pa && p pb)
  | .por g pd pa pb => some (onePred g pd [] 2 fun _ p => p pa || p pb)
  | .pxor g pd pa pb => some (onePred g pd [] 2 fun _ p => p pa != p pb)
  | .pandn g pd pa pb => some (onePred g pd [] 2 fun _ p => p pa && !p pb)
  | .voteAny g pd pa => some { g := g, srcs := [], pds := [pd], lat := 4, res := fun e _ => { preds := [(pd, trueLanes e pa != 0#32)] } }
  | .voteAll g pd pa => some { g := g, srcs := [], pds := [pd], lat := 4, res := fun e _ => { preds := [(pd, trueLanes e pa == e.parts)] } }
  | .voteBal g d pa => some { g := g, srcs := [], dsts := [d], lat := 4, res := fun e _ => { regs := [(d, trueLanes e pa)] } }
  | _ => none

/-- The lane a shuffle reads: the one that is named if it takes part, and otherwise the lane itself (R178). -/
def shflFrom (e : WarpEnv) (l : Lane) (src : Option Nat) : Lane :=
  match src with
  | some n => if h : n < 32 then (if laneIn e.parts ⟨n, h⟩ then ⟨n, h⟩ else l) else l
  | none => l

/-- The shuffles (R178). -/
def shflRow : Instr → Option LaneRow
  | .shflIdx g d a b => some {
      g := g, srcs := [a, b], dsts := [d], lat := 4,
      res := fun e l => { regs := [(d, readReg e (shflFrom e l (some ((readReg e l b).toNat % 32))) a)] } }
  | .shflUp g d a b => some {
      g := g, srcs := [a, b], dsts := [d], lat := 4,
      res := fun e l => { regs := [(d, readReg e (shflFrom e l
        (if (readReg e l b).toNat ≤ l.val then some (l.val - (readReg e l b).toNat) else none)) a)] } }
  | .shflDn g d a b => some {
      g := g, srcs := [a, b], dsts := [d], lat := 4,
      res := fun e l => { regs := [(d, readReg e (shflFrom e l (some (l.val + (readReg e l b).toNat))) a)] } }
  | .shflXor g d a b => some {
      g := g, srcs := [a, b], dsts := [d], lat := 4,
      res := fun e l => { regs := [(d, readReg e (shflFrom e l (some (l.val ^^^ ((readReg e l b).toNat % 32)))) a)] } }
  | _ => none

/-- A floating-point op: value and flags from the rounding mode of FPCTL and a lane's registers. -/
def flReg (g : Guard) (d : Reg) (srcs : List Reg) (lat : Nat) (val : Rnd → (Reg → W32) → Nat × BitVec 5) : LaneRow :=
  { g := g, srcs := srcs, dsts := [d], lat := lat,
    res := fun e l => { regs := [(d, BitVec.ofNat 32 (val (rndOf e.w.fpctl) (readReg e l)).1)], flags := (val (rndOf e.w.fpctl) (readReg e l)).2 } }

/-- A packed op: the low halves and the high halves, each on its own (R170). -/
def halves (hf : Bool) (f : Fmt → Nat → Nat → Nat → Nat × BitVec 5) (x y z : W32) : Nat × BitVec 5 :=
  let fm := if hf then fp16 else bf16
  let lo := f fm (x.toNat % 65536) (y.toNat % 65536) (z.toNat % 65536)
  let hi := f fm (x.toNat / 65536) (y.toNat / 65536) (z.toNat / 65536)
  (hi.1 * 65536 + lo.1, lo.2 ||| hi.2)

/-- The floating-point ops (R167 to R174). -/
def floatRow : Instr → Option LaneRow
  | .fadd g d a b => some (flReg g d [a, b] 4 fun m r => fAdd fp32 m (r a).toNat (r b).toNat)
  | .fsub g d a b => some (flReg g d [a, b] 4 fun m r => fSub fp32 m (r a).toNat (r b).toNat)
  | .fmul g d a b => some (flReg g d [a, b] 4 fun m r => fMul fp32 m (r a).toNat (r b).toNat)
  | .fmin g d a b => some (flReg g d [a, b] 4 fun _ r => fMin fp32 (r a).toNat (r b).toNat)
  | .fmax g d a b => some (flReg g d [a, b] 4 fun _ r => fMax fp32 (r a).toNat (r b).toNat)
  | .fabs g d a => some (flReg g d [a] 4 fun _ r => (((r a) &&& 0x7FFFFFFF#32).toNat, 0))
  | .fneg g d a => some (flReg g d [a] 4 fun _ r => (((r a) ^^^ 0x80000000#32).toNat, 0))
  | .fcps g d a b => some (flReg g d [a, b] 4 fun _ r => ((((r a) &&& 0x7FFFFFFF#32) ||| ((r b) &&& 0x80000000#32)).toNat, 0))
  | .ffma g d a b rm => some (flReg g d [a, b, d] 4 fun m r => fFma fp32 (fmaRnd rm m) (r a).toNat (r b).toNat (r d).toNat)
  | .fcmp g pd cc a b sig => some {
      g := g, srcs := [a, b], pds := [pd], lat := 4,
      res := fun e l => { preds := [(pd, (fCmp cc sig (readReg e l a).toNat (readReg e l b).toNat).1)],
                          flags := (fCmp cc sig (readReg e l a).toNat (readReg e l b).toNat).2 } }
  | .padd2 g d a b hf => some (flReg g d [a, b] 4 fun m r => halves hf (fun f x y _ => fAdd f m x y) (r a) (r b) (r d))
  | .psub2 g d a b hf => some (flReg g d [a, b] 4 fun m r => halves hf (fun f x y _ => fSub f m x y) (r a) (r b) (r d))
  | .pmul2 g d a b hf => some (flReg g d [a, b] 4 fun m r => halves hf (fun f x y _ => fMul f m x y) (r a) (r b) (r d))
  | .pfma2 g d a b hf => some (flReg g d [a, b, d] 4 fun m r => halves hf (fun f x y z => fFma f m x y z) (r a) (r b) (r d))
  | .pmax2 g d a b hf => some (flReg g d [a, b] 4 fun _ r => halves hf (fun f x y _ => fMax f x y) (r a) (r b) (r d))
  | .pmin2 g d a b hf => some (flReg g d [a, b] 4 fun _ r => halves hf (fun f x y _ => fMin f x y) (r a) (r b) (r d))
  | .xexp2 g d a => some (flReg g d [a] 12 fun _ r => funResult .exp2 false (r a))
  | .xlog2 g d a => some (flReg g d [a] 12 fun _ r => funResult .log2 false (r a))
  | .xrcp g d a => some (flReg g d [a] 12 fun _ r => funResult .rcp false (r a))
  | .xrsq g d a => some (flReg g d [a] 12 fun _ r => funResult .rsq false (r a))
  | .xtanh g d a => some (flReg g d [a] 12 fun _ r => funResult .tanh false (r a))
  | .xsin g d a => some (flReg g d [a] 12 fun _ r => funResult .sin false (r a))
  | .xcos g d a => some (flReg g d [a] 12 fun _ r => funResult .cos false (r a))
  | .xsqrt g d a => some (flReg g d [a] 12 fun m r => sqrtResult m (r a).toNat)
  | .cvtf g d a k hi => some {
      g := g, srcs := (match k with | .bfF32 | .hfF32 => [a, d] | .f32Bf | .f32Hf => [a]), dsts := [d], lat := 4,
      res := fun e l => { regs := [(d, (cvtfOn k hi (rndOf e.w.fpctl) (readReg e l a) (readReg e l d)).1)],
                          flags := (cvtfOn k hi (rndOf e.w.fpctl) (readReg e l a) (readReg e l d)).2 } }
  | .cvti g d a k trunc => some (flReg g d [a] 4 fun m r => cvtiOn k trunc m (r a))
  | _ => none

/-- An op of a table of per-lane ops completes: the lanes that take part have the table's results, the fragment goes on to the next
op, and nothing else of the machine changes. -/
def LaneOpsComplete (row : Instr → Option LaneRow) : Prop :=
  ∀ (i : Instr) (r : LaneRow), row i = some r →
    ∀ (s : State) (k : CoreId) (f : FragId) (x : Frag) (w : Warp), LaneTakes s i r.g k f x w →
      LaneClean (laneEnv s i r.g k f x w) r.srcs r.dsts →
      exec i s = .next (laneDone s (laneEnv s i r.g k f x w) r.dsts r.pds r.lat (r.res (laneEnv s i r.g k f x w)))

/-- An op of a table of slot ops completes: its result is seen one bundle later, and nothing else of the machine changes. -/
def SlotOpsComplete (row : Instr → Option SlotRow) : Prop :=
  ∀ (i : Instr) (r : SlotRow), row i = some r →
    ∀ (s : State) (k : CoreId) (n : StrandId) (slot : Slot) (st cur : Strand), SlotTakes s i r.g k n slot st cur →
      exec i s = .next (strandDone s k n (addPend cur (slotEnv s i k n slot st) 1 (r.dst s (slotEnv s i k n slot st))))

end Sys2Proof.Claims

open Sys2Proof.Claims

/-- The integer ops that write one register at the stream's width, in a warp and in a strand (R78, R81 to R83, R85, R89, R90). -/
def Obligations.IntegerOpsComplete : Prop :=
  LaneOpsComplete (fun i => (aluRow i).map AluRow.lane) ∧ SlotOpsComplete (fun i => (aluRow i).map AluRow.slot)

/-- SEL, MULW, LEA and LIMM in both streams (R84, R86, R87, R91), and PACK2 and UNPK2 (R172, R176). -/
def Obligations.WideOpsComplete : Prop := LaneOpsComplete wideLane ∧ SlotOpsComplete wideSlot

/-- Comparisons, predicate ops and votes of a warp (R92, R93, R177). -/
def Sys2Proof.Claims.LanePredicateOpsComplete : Prop := LaneOpsComplete predRow

/-- The shuffles (R178). -/
def Obligations.LaneShufflesComplete : Prop := LaneOpsComplete shflRow

/-- The floating-point ops of a warp (R167 to R174). -/
def Obligations.LaneFloatOpsComplete : Prop := LaneOpsComplete floatRow

/-! ## Predicates of a strand, and the special registers -/

namespace Sys2Proof.Claims

/-- The comparisons and predicate ops of a strand (R92, R93). -/
def predSlot : Instr → Option SlotRow
  | .cmp g pd cc a b => some { g := g, dst := fun _ e => .pred pd (holds cc ((opA e a).extractLsb' 0 32) ((opB e b).extractLsb' 0 32)) }
  | .cmp64 g pd cc a b => some { g := g, dst := fun _ e => .pred pd (holds cc (opA e a) (opB e b)) }
  | .cmpi g pd cc a imm => some { g := g, dst := fun _ e => .pred pd (holds cc (opA e a) (imm.signExtend 64)) }
  | .pand g pd pa pb => some { g := g, dst := fun _ e => .pred pd (opPred e (·.a) pa && opPred e (·.b) pb) }
  | .por g pd pa pb => some { g := g, dst := fun _ e => .pred pd (opPred e (·.a) pa || opPred e (·.b) pb) }
  | .pxor g pd pa pb => some { g := g, dst := fun _ e => .pred pd (opPred e (·.a) pa != opPred e (·.b) pb) }
  | .pandn g pd pa pb => some { g := g, dst := fun _ e => .pred pd (opPred e (·.a) pa && !opPred e (·.b) pb) }
  | _ => none

/-- The trap registers by number (R103). -/
def trapNumbers (r : TrapRegs) : List (Nat × W64) :=
  [(0x020, r.cause.zeroExtend 64), (0x021, r.pc), (0x022, r.addr), (0x023, r.synd), (0x024, r.unit.zeroExtend 64), (0x025, r.coord),
   (0x026, r.townf.zeroExtend 64)]

/-- The special registers of a warp by number, as lane l reads them (R103). -/
def warpNumbers (s : State) (e : WarpEnv) (l : Lane) : List (Nat × W64) :=
  let home := match e.w.away with | some o => o.core | none => e.k
  let slot := match e.w.away with | some o => o.ix | none => e.x.warp
  [(0x000, BitVec.ofNat 64 l.val), (0x001, BitVec.ofNat 64 slot.val), (0x002, BitVec.ofNat 64 e.f.val), (0x003, teamRegOf s e.w.team),
   (0x004, gridReg s e.w.team), (0x005, coreReg s e.w.team e.k home), (0x006, BitVec.ofNat 64 (coreDie e.k).val),
   (0x008, BitVec.ofNat 64 (coreAt s e.k).cycle), (0x009, BitVec.ofNat 64 s.tick), (0x012, e.w.fpctl.zeroExtend 64),
   (0x013, e.w.fpstat.zeroExtend 64), (0x027, e.w.tbase), (0x028, e.w.wisn), (0x02A, if e.w.kill then 1 else 0)] ++ trapNumbers e.x.trap

/-- The special registers of a strand by number (R103). -/
def strandNumbers (s : State) (e : StrandEnv) : List (Nat × W64) :=
  [(0x001, BitVec.ofNat 64 (64 + e.n.val)), (0x003, teamRegOf s e.st.team), (0x004, gridReg s e.st.team),
   (0x005, coreReg s e.st.team e.k e.k), (0x006, BitVec.ofNat 64 (coreDie e.k).val), (0x008, BitVec.ofNat 64 e.c.cycle),
   (0x009, BitVec.ofNat 64 s.tick), (0x010, (viewTwb e.st).zeroExtend 64), (0x011, viewMxcfg e.st),
   (0x014, (e.st.loops.head?.map (·.count)).getD 0), (0x015, BitVec.ofNat 64 e.st.loops.length),
   (0x029, (e.st.snap.map (·.pc)).getD 0), (0x02A, if e.st.kill then 1 else 0)] ++ trapNumbers e.st.trap

/-- The register of a number; a number that names nothing reads as 0 (R101). -/
def numbered (rs : List (Nat × W64)) (n : Nat) : W64 := (rs.lookup n).getD 0

/-- The special registers that SWR writes in a warp; FPSTAT takes the flags of the cycle's other ops with it (R52, R101 to R103). -/
def writtenWarp (n : Nat) (v : W32) (w : Warp) : Warp :=
  if n = 0x012 then { w with fpctl := v &&& 3#32 }
  else if n = 0x013 then { w with fpstat := (v &&& 31#32) ||| (0#27 ++ (w.now.elim 0#5 (·.flags))) }
  else if n = 0x027 then { w with tbase := (w.tbase.extractLsb' 32 32 ++ v) &&& ~~~(0x3FF#64) }
  else if n = 0x827 then { w with tbase := (v ++ w.tbase.extractLsb' 0 32) &&& ~~~(0x3FF#64) }
  else w

end Sys2Proof.Claims

/-- CMP, CMP.64, CMPI and the predicate ops of a strand (R92, R93). -/
def Sys2Proof.Claims.StrandPredicateOpsComplete : Prop := SlotOpsComplete predSlot

/-- Comparisons, predicate ops and votes complete in a warp, and comparisons and predicate ops in a strand (R92, R93, R177). -/
def Obligations.PredicateOpsComplete : Prop := LanePredicateOpsComplete ∧ StrandPredicateOpsComplete

/-- SRD: a lane reads the low half of a special register, or the high half under the number with 0x800 added; a strand reads all 64
bits (R101, R102, R103; that SEGPC reads 0 before a strand's first segment, and its last entry after a close, is log entry 81). -/
def Obligations.SpecialRegisterReads : Prop :=
  (∀ (g : Guard) (d : Reg) (n : BitVec 12) (s : State) (k : CoreId) (f : FragId) (x : Frag) (w : Warp),
    LaneTakes s (.srd g d n) g k f x w → LaneClean (laneEnv s (.srd g d n) g k f x w) [] [d] →
    exec (.srd g d n) s = .next (laneDone s (laneEnv s (.srd g d n) g k f x w) [d] [] 2 fun l =>
      { regs := [(d, (numbered (warpNumbers s (laneEnv s (.srd g d n) g k f x w) l) (n.toNat % 0x800)).extractLsb'
          (if 0x800 ≤ n.toNat then 32 else 0) 32)] })) ∧
  ∀ (g : Guard) (d : Reg) (n : BitVec 12) (s : State) (k : CoreId) (m : StrandId) (slot : Slot) (st cur : Strand),
    SlotTakes s (.srd g d n) g k m slot st cur →
    exec (.srd g d n) s = .next (strandDone s k m (addPend cur (slotEnv s (.srd g d n) k m slot st) 1
      (.sreg d (numbered (strandNumbers s (slotEnv s (.srd g d n) k m slot st)) n.toNat))))

/-- SWR: a warp writes once, with the lead lane's register; a strand's write is seen one bundle later; a register that cannot be
written ignores it. MXC writes MXCFG (R101, R102, R107, R108, R160). -/
def Obligations.SpecialRegisterWrites : Prop :=
  (∀ (g : Guard) (d : Reg) (n : BitVec 12) (s : State) (k : CoreId) (f : FragId) (x : Frag) (w : Warp),
    LaneTakes s (.swr g d n) g k f x w → OnceClean (laneEnv s (.swr g d n) g k f x w) [d] [] →
    exec (.swr g d n) s = .next (fragDone s (laneEnv s (.swr g d n) g k f x w) (nextFrag (laneEnv s (.swr g d n) g k f x w))
      (writtenWarp n.toNat (readReg (laneEnv s (.swr g d n) g k f x w) (leadLane (partsOf w x.mask g)) d) (countedWarp w)))) ∧
  (∀ (g : Guard) (d : Reg) (n : BitVec 12) (s : State) (k : CoreId) (m : StrandId) (slot : Slot) (st cur : Strand),
    SlotTakes s (.swr g d n) g k m slot st cur →
    exec (.swr g d n) s = .next (
      if n = 0x010#12 then strandDone s k m (addPend cur (slotEnv s (.swr g d n) k m slot st) 1
        (.twb ((opD (slotEnv s (.swr g d n) k m slot st) d).extractLsb' 0 9)))
      else if n = 0x011#12 then strandDone s k m (addPend cur (slotEnv s (.swr g d n) k m slot st) 1
        (.mxcfg (opD (slotEnv s (.swr g d n) k m slot st) d &&& 0x1FFFFFFFFFFF#64)))
      else s)) ∧
  ∀ (g : Guard) (a : Reg) (s : State) (k : CoreId) (m : StrandId) (slot : Slot) (st cur : Strand),
    SlotTakes s (.mxc g a) g k m slot st cur →
    exec (.mxc g a) s = .next (strandDone s k m (addPend cur (slotEnv s (.mxc g a) k m slot st) 1
      (.mxcfg (opA (slotEnv s (.mxc g a) k m slot st) a &&& 0x1FFFFFFFFFFF#64))))

/-! ## Tile ownership -/

namespace Sys2Proof.Claims

/-- The owner field that TOWN reads: 0x200 where there is no such tile (R184). -/
def ownerRead : Option Tile → W32
  | some y => 0#23 ++ y.owner
  | none => 0x200#32

/-- The tile that a warp on its own core names by a register; a warp away from its core has none (R185). -/
def namedTile (s : State) (e : WarpEnv) (a : Reg) : Option Tile :=
  if e.w.away.isSome then none else tileAt (coreAt s e.k) e.w.team (readReg e (leadLane e.parts) a).toNat

/-- The tiles of a team on a core are as they were, but for one. -/
def OtherTiles (s t : State) (k : CoreId) (team n : Nat) : Prop :=
  ∀ u, u ≠ n → tileAt (coreAt t k) team u = tileAt (coreAt s k) team u

end Sys2Proof.Claims

/-- TOWN reads the owner field, in both streams; TSEL selects a tile that the team has, or none (R161, R183, R184). -/
def Obligations.TileOwnershipReads : Prop :=
  (∀ (g : Guard) (d a : Reg) (s : State) (k : CoreId) (f : FragId) (x : Frag) (w : Warp),
    LaneTakes s (.town g d a) g k f x w → OnceClean (laneEnv s (.town g d a) g k f x w) [a] [d] →
    exec (.town g d a) s = .next (laneDone s (laneEnv s (.town g d a) g k f x w) [d] [] 2 fun _ =>
      { regs := [(d, ownerRead (namedTile s (laneEnv s (.town g d a) g k f x w) a))] })) ∧
  (∀ (g : Guard) (d a : Reg) (s : State) (k : CoreId) (n : StrandId) (slot : Slot) (st cur : Strand),
    SlotTakes s (.town g d a) g k n slot st cur →
    exec (.town g d a) s = .next (strandDone s k n (addPend cur (slotEnv s (.town g d a) k n slot st) 1
      (.sreg d ((ownerRead (tileAt (startCore s k) st.team ((viewTwb st).toNat + a.toNat))).zeroExtend 64))))) ∧
  ∀ (g : Guard) (a : Reg) (s : State) (k : CoreId) (f : FragId) (x : Frag) (w : Warp),
    LaneTakes s (.tsel g a) g k f x w → OnceClean (laneEnv s (.tsel g a) g k f x w) [a] [] → w.away = none →
    ∀ n, n = (readReg (laneEnv s (.tsel g a) g k f x w) (leadLane (partsOf w x.mask g)) a).toNat →
    (0x80000000 ≤ n ∨ (tileAt (coreAt s k) w.team n).isSome = true) →
    exec (.tsel g a) s = .next (fragDone s (laneEnv s (.tsel g a) g k f x w) (nextFrag (laneEnv s (.tsel g a) g k f x w))
      { countedWarp w with sel := if 0x80000000 ≤ n then none else some n, sels := keepSels (coreAt s k) x.warp w })

/-- GIVE: a tile that its holder gives to a live agent becomes OFFERED to it, in both streams, once the wait of a CORE-scope release is
over: a fragment waits for it, and a strand's bundle is tried again (R152, R180, R198). -/
def Obligations.GiveOffersTile : Prop :=
  (∀ (g : Guard) (a b : Reg) (s : State) (k : CoreId) (f : FragId) (x : Frag) (w : Warp) (n : Nat) (r : BitVec 7) (y : Tile),
    LaneTakes s (.give g a b) g k f x w → OnceClean (laneEnv s (.give g a b) g k f x w) [a, b] [] → w.away = none →
    n = (readReg (laneEnv s (.give g a b) g k f x w) (leadLane (partsOf w x.mask g)) a).toNat →
    r = (readReg (laneEnv s (.give g a b) g k f x w) (leadLane (partsOf w x.mask g)) b).extractLsb' 0 7 →
    tileAt (coreAt s k) w.team n = some y → y.owner = ownHeld (holderWarp x.warp) → liveHolder (coreAt s k) w.team r = true →
    (waitDone s (.frag k f) .core (owned s (.frag k f)) = true →
      ∃ t ms, exec (.give g a b) s = .next t ∧ OneCore s t k ∧ OtherTiles s t k w.team n ∧
        tileAt (coreAt t k) w.team n = some { y with owner := ownOffered r, given := (coreAt s k).cycle, mark := ms } ∧
        ∃ x', fragAt (coreAt t k) f = some x' ∧ x'.pc = x.pc + 4 ∧ x'.state = .ready) ∧
    (waitDone s (.frag k f) .core (owned s (.frag k f)) = false →
      exec (.give g a b) s = .next (fragDone s (laneEnv s (.give g a b) g k f x w)
        { x with num := w.wisn, state := .wait (.give g a b) (.release .core) } (countedWarp w)))) ∧
  ∀ (g : Guard) (a b : Reg) (s : State) (k : CoreId) (m : StrandId) (slot : Slot) (st cur : Strand) (n : Nat) (r : BitVec 7) (y : Tile),
    SlotTakes s (.give g a b) g k m slot st cur →
    n = (viewTwb st).toNat + a.toNat → r = (opB (slotEnv s (.give g a b) k m slot st) b).extractLsb' 0 7 →
    tileAt (startCore s k) st.team n = some y → tileAt (coreAt s k) st.team n = some y →
    y.owner = ownHeld (holderStrand m) → liveHolder (startCore s k) st.team r = true →
    (waitDone s (.strand k m) .core (ownedBefore s (slotEnv s (.give g a b) k m slot st)) = true →
      ∃ t ms, exec (.give g a b) s = .next t ∧ OneCore s t k ∧ OtherTiles s t k st.team n ∧
        tileAt (coreAt t k) st.team n = some { y with owner := ownOffered r, given := (coreAt s k).cycle, mark := ms } ∧
        ∃ st', strandAt (coreAt t k) m = some st' ∧ st'.fx = { cur.fx with close := true, gave := some n } ∧ st'.pend = cur.pend) ∧
    (waitDone s (.strand k m) .core (ownedBefore s (slotEnv s (.give g a b) k m slot st)) = false →
      exec (.give g a b) s = .next (slotStall s k m .landing))

/-- TAKE of a tile that is offered to the taker since an earlier cycle, with the wait of its GIVE over, or free, with nothing pending
into it: the taker holds it (R152, R153, R180, R181). TTRY does the same at once, and its predicate says so (R182). -/
def Obligations.TakeHoldsTile : Prop :=
  (∀ (g : Guard) (a : Reg) (s : State) (k : CoreId) (f : FragId) (x : Frag) (w : Warp) (n : Nat) (y : Tile),
    LaneTakes s (.take g a) g k f x w → OnceClean (laneEnv s (.take g a) g k f x w) [a] [] → w.away = none →
    n = (readReg (laneEnv s (.take g a) g k f x w) (leadLane (partsOf w x.mask g)) a).toNat →
    tileAt (coreAt s k) w.team n = some y → tileArrived s k w.team n y = true →
    (y.owner = ownOffered (holderWarp x.warp) ∧ y.given < (coreAt s k).cycle ∧ giveReleased s y = true) ∨ y.owner = ownFree →
    y.suspect = false → y.poison = false →
    ∃ t, exec (.take g a) s = .next t ∧ OneCore s t k ∧ OtherTiles s t k w.team n ∧
      tileAt (coreAt t k) w.team n = some { y with owner := ownHeld (holderWarp x.warp), mark := [] } ∧
      ∃ x', fragAt (coreAt t k) f = some x' ∧ x'.pc = x.pc + 4 ∧ x'.state = .ready) ∧
  (∀ (g : Guard) (a : Reg) (s : State) (k : CoreId) (m : StrandId) (slot : Slot) (st cur : Strand) (n : Nat) (y : Tile),
    SlotTakes s (.take g a) g k m slot st cur → n = (viewTwb st).toNat + a.toNat →
    tileAt (startCore s k) st.team n = some y → tileAt (coreAt s k) st.team n = some y → tileArrived s k st.team n y = true →
    (y.owner = ownOffered (holderStrand m) ∧ y.given < (coreAt s k).cycle ∧ giveReleased s y = true) ∨ y.owner = ownFree →
    ∃ t y', exec (.take g a) s = .next t ∧ OneCore s t k ∧ OtherTiles s t k st.team n ∧
      tileAt (coreAt t k) st.team n = some y' ∧ y'.owner = ownHeld (holderStrand m) ∧
      ∃ st', strandAt (coreAt t k) m = some st' ∧ st'.fx.close = true) ∧
  (∀ (g : Guard) (pd : Pred) (a : Reg) (s : State) (k : CoreId) (f : FragId) (x : Frag) (w : Warp) (n : Nat) (y : Tile),
    LaneTakes s (.ttry g pd a) g k f x w → OnceClean (laneEnv s (.ttry g pd a) g k f x w) [a] [] → w.away = none →
    n = (readReg (laneEnv s (.ttry g pd a) g k f x w) (leadLane (partsOf w x.mask g)) a).toNat →
    tileAt (coreAt s k) w.team n = some y →
    ∃ t ok, exec (.ttry g pd a) s = .next t ∧ OneCore s t k ∧ OtherTiles s t k w.team n ∧
      (ok = true ↔ takeRes s k w.team n (holderWarp x.warp) y = .done) ∧
      tileAt (coreAt t k) w.team n = some (if ok then { y with owner := ownHeld (holderWarp x.warp), mark := [] } else y) ∧
      (∃ x', fragAt (coreAt t k) f = some x' ∧ x'.pc = x.pc + 4 ∧ x'.state = x.state) ∧
      ∃ w', warpAt (coreAt t k) x.warp = some w' ∧
        ∀ l, laneIn (partsOf w x.mask g) l = true → predGet w'.lanes[l].p pd = (pd == 0#3 || ok)) ∧
  ∀ (g : Guard) (pd : Pred) (a : Reg) (s : State) (k : CoreId) (m : StrandId) (slot : Slot) (st cur : Strand) (n : Nat) (y : Tile),
    SlotTakes s (.ttry g pd a) g k m slot st cur → n = (viewTwb st).toNat + a.toNat →
    tileAt (startCore s k) st.team n = some y → tileAt (coreAt s k) st.team n = some y →
    (takeRes s k st.team n (holderStrand m) y = .done →
      ∃ t y' st', exec (.ttry g pd a) s = .next t ∧ OneCore s t k ∧ tileAt (coreAt t k) st.team n = some y' ∧
        y'.owner = ownHeld (holderStrand m) ∧ strandAt (coreAt t k) m = some st' ∧ st'.fx.close = true ∧
        slotPend (slotEnv s (.ttry g pd a) k m slot st) 1 (.pred pd true) ∈ st'.pend) ∧
    (takeRes s k st.team n (holderStrand m) y ≠ .done →
      exec (.ttry g pd a) s = .next (strandDone s k m
        { addPend cur (slotEnv s (.ttry g pd a) k m slot st) 1 (.pred pd false) with fx := { cur.fx with close := true } }))

/-! ## Control of a strand -/

namespace Sys2Proof.Claims

/-- A slot of control: its guard, and what it leaves of the strand. -/
structure SlotChange where
  g : Guard
  upd : StrandEnv → Strand → Strand

/-- A transfer to a target after the bundle (R26); a backward one ends at a kill point where `kp` says so (R97). -/
def goTo (e : StrandEnv) (target : W64) (kp : Bool) (x : Strand) : Strand :=
  { x with fx := { x.fx with target := some target, killPoint := x.fx.killPoint || (kp && decide (target.toNat ≤ e.st.pc.toNat)) } }

/-- The loop entries whose range holds the target (R99). -/
def keepLoops (target : W64) (x : Strand) : Strand :=
  { x with loops := x.loops.filter fun l => decide (l.start.toNat ≤ target.toNat) && decide (target.toNat ≤ l.stop.toNat) }

/-- The address of the bundle after this one, into S62 (R95). -/
def linked (e : StrandEnv) (x : Strand) : Strand := addPend x e 1 (.sreg 62 (e.st.pc + 32))

/-- The bundle address plus 32 times the offset (R95). -/
def relTarget (e : StrandEnv) (off : BitVec 22) : W64 := e.st.pc + (off.signExtend 64 <<< 5)

/-- The ops that mark the bundle, and the transfers of a strand (R26, R28, R95 to R97, R99, R149, R280, R310). -/
def controlSlot : Instr → Option SlotChange
  | .endOp g => some { g := g, upd := fun _ x => { x with fx := { x.fx with isEnd := true, close := true } } }
  | .yield g => some { g := g, upd := fun _ x => { x with fx := { x.fx with isYield := true, close := true, killPoint := true } } }
  | .segb g => some { g := g, upd := fun _ x => { x with fx := { x.fx with close := true, segb := true } } }
  | .kpt g => some { g := g, upd := fun _ x => { x with fx := { x.fx with killPoint := true } } }
  | .bra g off => some { g := g, upd := fun e x => goTo e (relTarget e off) true (keepLoops (relTarget e off) x) }
  | .brx g a => some { g := g, upd := fun e x => goTo e (opA e a) true (keepLoops (opA e a) x) }
  | .call g off => some { g := g, upd := fun e x => goTo e (relTarget e off) false (linked e x) }
  | .callx g a => some { g := g, upd := fun e x => goTo e (opA e a) false (linked e x) }
  | .ret g => some { g := g, upd := fun e x => goTo e (opA e 62) true x }
  | _ => none

end Sys2Proof.Claims

/-- END, YIELD, SEGB, KPT and the transfers of a strand take effect at the end of their bundle; NOP does nothing (R14, R26, R28, R95 to
R97, R99, R149, R280, R310). -/
def Sys2Proof.Claims.StrandControlCompletes : Prop :=
  (∀ (i : Instr) (r : SlotChange), controlSlot i = some r →
    ∀ (s : State) (k : CoreId) (n : StrandId) (slot : Slot) (st cur : Strand), SlotTakes s i r.g k n slot st cur →
      exec i s = .next (strandDone s k n (r.upd (slotEnv s i k n slot st) cur))) ∧
  ∀ (g : Guard) (s : State) (k : CoreId) (n : StrandId) (slot : Slot) (st cur : Strand), SlotTakes s (.nop g) g k n slot st cur →
    exec (.nop g) s = .next s

/-- LOOP pushes an entry for its count, goes past the body when the count is 0, and traps with ILLOP when the stack is full or the
body would end after the enclosing one (R98). -/
def Sys2Proof.Claims.LoopPushesOrSkips : Prop :=
  ∀ (g : Guard) (d : Reg) (len : BitVec 10) (s : State) (k : CoreId) (n : StrandId) (slot : Slot) (st cur : Strand) (stop : W64),
    SlotTakes s (.loop g d len) g k n slot st cur → stop = st.pc + (len.zeroExtend 64 <<< 5) →
    exec (.loop g d len) s = .next (strandDone s k n (
      if 4 ≤ st.loops.length ∨ (∃ t, st.loops.head? = some t ∧ t.stop.toNat < stop.toNat) then
        { cur with fx := { cur.fx with faults := cur.fx.faults ++ [(slot, trapIllop (Instr.encode (.loop g d len)) slot.val)] } }
      else if opD (slotEnv s (.loop g d len) k n slot st) d = 0#64 then { cur with fx := { cur.fx with target := some (stop + 32) } }
      else { cur with loops := { start := st.pc + 32, stop := stop, count := opD (slotEnv s (.loop g d len) k n slot st) d } :: cur.loops }))

/-- The transfers, ends and loops of a strand complete (R28, R94 to R98, R149). -/
def Obligations.StrandTransfersComplete : Prop := StrandControlCompletes ∧ LoopPushesOrSkips

/-- RDV is a kill point that closes the segment; it passes when no partner is behind, and otherwise waits for those that are (R313). -/
def Obligations.RdvPassesOrWaits : Prop :=
  ∀ (g : Guard) (num : BitVec 16) (s : State) (k : CoreId) (n : StrandId) (slot : Slot) (st cur : Strand),
    SlotTakes s (.rdv g num) g k n slot st cur → st.kill = false →
    ∃ t st', exec (.rdv g num) s = .next t ∧ SameBytes s t ∧ strandAt (coreAt t k) n = some st' ∧
      st'.fx = { cur.fx with close := true, killPoint := true } ∧ st'.s = cur.s ∧ st'.p = cur.p ∧ st'.pend = cur.pend ∧
      (behindPartners s st.team k n ≠ [] → st'.state = .rdv num (behindPartners s st.team k n) ∧ st'.behind = cur.behind) ∧
      (behindPartners s st.team k n = [] → st'.behind = false ∧ (cur.state = .ready → st'.state = .ready))

/-! ## Control of a warp -/

namespace Sys2Proof.Claims

/-- A transfer of a warp: its guard, the registers that it reads, where a lane that takes part goes, and whether it links. -/
structure WarpJump where
  g : Guard
  srcs : List Reg
  target : WarpEnv → Lane → W64
  link : Bool

/-- The transfers of a warp (R95, R96). -/
def jumpRow : Instr → Option WarpJump
  | .bra g off => some { g := g, srcs := [], target := fun e _ => e.x.pc + (off.signExtend 64 <<< 2), link := false }
  | .call g off => some { g := g, srcs := [], target := fun e _ => e.x.pc + (off.signExtend 64 <<< 2), link := true }
  | .brx g a => some { g := g, srcs := [a, a + 1], target := fun e l => readReg e l (a + 1) ++ readReg e l a, link := false }
  | .callx g a => some { g := g, srcs := [a, a + 1], target := fun e l => readReg e l (a + 1) ++ readReg e l a, link := true }
  | .ret g => some { g := g, srcs := [46, 47], target := fun e l => readReg e l 47 ++ readReg e l 46, link := false }
  | _ => none

/-- Where a lane of the fragment goes: a lane that does not take part goes on to the next op (R97). -/
def nextAddr (e : WarpEnv) (target : WarpEnv → Lane → W64) (l : Lane) : W64 := if laneIn e.parts l then target e l else e.x.pc + 4

/-- The distinct next addresses of the fragment's lanes. -/
def nextAddrs (e : WarpEnv) (target : WarpEnv → Lane → W64) : List W64 :=
  ((allLanes.filter (laneIn e.x.mask)).map (nextAddr e target)).eraseDups

end Sys2Proof.Claims

/-- A warp's transfer: every lane of the fragment goes to its own next address, the lanes of one address in one fragment of it; the
lanes that take part in CALL and CALLX have the return address in V46:V47. It completes while the fragment entries suffice (R95 to R97,
R136, R137). -/
def Sys2Proof.Claims.WarpTransfersComplete : Prop :=
  ∀ (i : Instr) (r : WarpJump), jumpRow i = some r →
    ∀ (s : State) (k : CoreId) (f : FragId) (x : Frag) (w : Warp) (e : WarpEnv), LaneTakes s i r.g k f x w → e = laneEnv s i r.g k f x w →
      LaneClean e r.srcs [] →
      (nextAddrs e r.target).length ≤ (freeEntries (coreAt s k) x.warp).length + 1 →
      (liveFrags (coreAt s k) x.warp).length + (nextAddrs e r.target).length ≤ 9 →
      ∃ t, exec i s = .next t ∧ OneCore s t k ∧
        (∀ l, laneIn x.mask l = true → ∃ f' y, fragAt (coreAt t k) f' = some y ∧ y.warp = x.warp ∧ laneIn y.mask l = true ∧
          ∀ l', laneIn y.mask l' = true → laneIn x.mask l' = true ∧ y.pc = nextAddr e r.target l') ∧
        ∃ w', warpAt (coreAt t k) x.warp = some w' ∧ w'.wisn = w.wisn + 1 ∧ ∀ l, w'.lanes[l].p = w.lanes[l].p ∧
          ∀ q : Fin 48, w'.lanes[l].v[q] =
            if r.link = true ∧ laneIn e.parts l = true ∧ q = 46 then (x.pc + 4).extractLsb' 0 32
            else if r.link = true ∧ laneIn e.parts l = true ∧ q = 47 then (x.pc + 4).extractLsb' 32 32 else w.lanes[l].v[q]

/-- NOP and, with no kill request pending, KPT go on to the next op; KPT takes a pending kill (R94, R280, R285). -/
def Sys2Proof.Claims.WarpNopAndKptComplete : Prop :=
  (∀ (g : Guard) (s : State) (k : CoreId) (f : FragId) (x : Frag) (w : Warp), LaneTakes s (.nop g) g k f x w →
    exec (.nop g) s = .next (fragDone s (laneEnv s (.nop g) g k f x w) (nextFrag (laneEnv s (.nop g) g k f x w)) (countedWarp w))) ∧
  ∀ (g : Guard) (s : State) (k : CoreId) (f : FragId) (x : Frag) (w : Warp), LaneTakes s (.kpt g) g k f x w →
    exec (.kpt g) s = .next (fragDone s (laneEnv s (.kpt g) g k f x w)
      (if w.kill then { x with num := w.wisn, state := .stopped } else nextFrag (laneEnv s (.kpt g) g k f x w)) (countedWarp w))

/-- EXIT: the lanes that take part leave their fragment for good, and the others go on to the next op; a fragment that none is left of
is gone, and its warp with its last one (R140, R164). -/
def Sys2Proof.Claims.ExitLeavesOthersRunning : Prop :=
  ∀ (g : Guard) (s t : State) (k : CoreId) (f : FragId) (x : Frag) (w : Warp), LaneTakes s (.exit g) g k f x w →
    t = exitLanes (fragDone s (laneEnv s (.exit g) g k f x w) (nextFrag (laneEnv s (.exit g) g k f x w)) (countedWarp w)) k f
      (partsOf w x.mask g) →
    exec (.exit g) s = .next t ∧ (∀ a, memRead t.dev a = memRead s.dev a) ∧ (∀ a, memRead t.host a = memRead s.host a) ∧
    (x.mask &&& ~~~(partsOf w x.mask g) ≠ 0#32 → x.state = .ready → SameBytes s t ∧ ∃ y, fragAt (coreAt t k) f = some y ∧
      y.mask = x.mask &&& ~~~(partsOf w x.mask g) ∧ y.state = .ready ∧ y.pc = x.pc + 4) ∧
    (x.mask &&& ~~~(partsOf w x.mask g) = 0#32 → fragAt (coreAt t k) f = none ∧
      (liveFrags (coreAt s k) x.warp = [f] → warpAt (coreAt t k) x.warp = none))

/-- The transfers, NOP, KPT and EXIT of a warp complete (R94 to R96, R137, R138, R164, R280). -/
def Obligations.WarpControlCompletes : Prop := WarpTransfersComplete ∧ WarpNopAndKptComplete ∧ ExitLeavesOthersRunning

/-- CONV: the fragment waits while another live fragment of its warp is not at one; a warp's only fragment goes on (R139, R165). -/
def Obligations.ConvWaitsForWarp : Prop :=
  ∀ (g : Guard) (s : State) (k : CoreId) (f : FragId) (x : Frag) (w : Warp), LaneTakes s (.conv g) g k f x w → w.kill = false →
    ∃ t, exec (.conv g) s = .next t ∧ SameBytes s t ∧
      ((∃ f', f' ∈ liveFrags (coreAt s k) x.warp ∧ f' ≠ f ∧ ∃ y, fragAt (coreAt s k) f' = some y ∧ y.state ≠ .convw) →
        t = fragDone s (laneEnv s (.conv g) g k f x w) { x with num := w.wisn, state := .convw } (countedWarp w)) ∧
      (liveFrags (coreAt s k) x.warp = [f] →
        ∃ y, fragAt (coreAt t k) f = some y ∧ y.state = .ready ∧ y.pc = x.pc + 4 ∧ y.mask = x.mask)

/-- BAR: an arriving fragment waits in BARW with the barrier's number and its count, and an arriving strand waits at the barrier's
number, until the barrier releases; a warp away from its core goes on at once (R143 to R145, R166). -/
def Obligations.BarArrives : Prop :=
  (∀ (g : Guard) (n : Byte) (id : BitVec 4) (s : State) (k : CoreId) (f : FragId) (x : Frag) (w : Warp),
    LaneTakes s (.bar g n id) g k f x w → w.kill = false →
    exec (.bar g n id) s = .next (
      if w.away.isSome then
        fragDone s (laneEnv s (.bar g n id) g k f x w) (nextFrag (laneEnv s (.bar g n id) g k f x w)) (countedWarp w)
      else barrierCheck (fragDone s (laneEnv s (.bar g n id) g k f x w) { x with num := w.wisn, state := .barw id n (coreAt s k).cycle }
        (countedWarp w)) w.team id n)) ∧
  ∀ (g : Guard) (n : Byte) (id : BitVec 4) (s : State) (k : CoreId) (m : StrandId) (slot : Slot) (st cur : Strand),
    SlotTakes s (.bar g n id) g k m slot st cur → st.kill = false →
    exec (.bar g n id) s = .next (barrierCheck (strandDone s k m
      { cur with fx := { cur.fx with close := true, killPoint := true }, state := .bar id }) st.team id n)

/-! ## Traps, and the return from them -/

namespace Sys2Proof.Claims

/-- The trap that TRAP, an unarmed BRK, and RFT and RFT.NEXT with nothing to return from raise: its class, code and syndrome (R296 to
R298, R302, R303; TSYND of TRAP is the model's choice, log entry 11). -/
def raised (s : State) (i : Instr) (team : Nat) (unit : Nat) : Option (Guard × TrapInfo) :=
  match i with
  | .trap g code => some (g, { cls := .trap, code := code, synd := code.zeroExtend 64, unit := unit })
  | .brk g n => if brkArmed s team then none else some (g, { cls := .brk, code := n.zeroExtend 16, unit := unit })
  | .rft g | .rftNext g => some (g, { cls := .trap, code := 0xFFFF, synd := 0xFFFF, unit := unit })
  | _ => none

/-- The registers of a trapping lane after the entry: V44 to V47 and P1 to P7 are in the bank, and still in place (R300). -/
def Banked (a b : LaneRegs) : Prop :=
  b = { a with bankV := #v[a.v[44], a.v[45], a.v[46], a.v[47]], bankP := a.p }

end Sys2Proof.Claims

/-- TRAP, an unarmed BRK, RFT and RFT.NEXT of an unflagged fragment whose warp has a handler: the fragment is flagged and goes to TBASE
plus 64 times the class, its trap registers name the op, and its lanes' V44 to V47 and P1 to P7 are banked (R296, R297, R300, R302,
R303). -/
def Sys2Proof.Claims.TrapEntersHandler : Prop :=
  ∀ (i : Instr) (g : Guard) (s : State) (k : CoreId) (f : FragId) (x : Frag) (w : Warp) (v : TrapInfo),
    LaneTakes s i g k f x w → raised s i w.team 8 = some (g, v) → x.flag = false → (atCycle w).tbase ≠ 0#64 →
    ∃ w', exec i s = .next (fragDone s (laneEnv s i g k f x w)
        { x with num := w.wisn, state := .ready, flag := true, resume := false,
                 pc := (atCycle w).tbase + BitVec.ofNat 64 (64 * classCode v.cls),
                 trap := { cause := 0#8 ++ v.code ++ BitVec.ofNat 8 (classCode v.cls), pc := tpcOf x.pc, addr := 0, synd := v.synd,
                           unit := 8, coord := 0, townf := 0 } } w') ∧
      (∀ l, if laneIn x.mask l then Banked w.lanes[l] w'.lanes[l] else w'.lanes[l] = w.lanes[l]) ∧
      { w' with lanes := w.lanes } = countedWarp w

/-- TRAP, an unarmed BRK, RFT and RFT.NEXT of a strand are noted for the end of their bundle (R302, R303, R306). -/
def Sys2Proof.Claims.StrandTrapsNoted : Prop :=
  ∀ (i : Instr) (g : Guard) (s : State) (k : CoreId) (n : StrandId) (slot : Slot) (st cur : Strand) (v : TrapInfo),
    SlotTakes s i g k n slot st cur → raised s i st.team slot.val = some (g, v) →
    exec i s = .next (strandDone s k n { cur with fx := { cur.fx with faults := cur.fx.faults ++ [(slot, v)] } })

/-- TRAP and an unarmed BRK enter the handler in a warp, and are noted for the end of the bundle in a strand, as are RFT and RFT.NEXT
there (R300 to R303, R306). -/
def Obligations.TrapOpsTaken : Prop := TrapEntersHandler ∧ StrandTrapsNoted

/-- BRK under a debugger that has armed it: a fragment of which every lane takes part halts before the next op, or takes a pending kill
there, and a strand halts (R303, R344, R348; that the fragment's PC is past the BRK, and where the strand stands, is log entry 55). -/
def Obligations.ArmedBrkHalts : Prop :=
  (∀ (g : Guard) (n : BitVec 6) (s : State) (k : CoreId) (f : FragId) (x : Frag) (w : Warp),
    LaneTakes s (.brk g n) g k f x w → brkArmed s w.team = true → partsOf w x.mask g = x.mask →
    ∃ t, exec (.brk g n) s = .next t ∧ OneCore s t k ∧
      ∃ y, fragAt (coreAt t k) f = some y ∧ y.state = (if w.kill then .stopped else .halted 2 .ready) ∧ y.pc = x.pc + 4 ∧ y.mask = x.mask) ∧
  ∀ (g : Guard) (n : BitVec 6) (s : State) (k : CoreId) (m : StrandId) (slot : Slot) (st cur : Strand),
    SlotTakes s (.brk g n) g k m slot st cur → brkArmed s st.team = true →
    exec (.brk g n) s = .next (strandDone s k m { cur with state := .halted 2 .ready })

namespace Sys2Proof.Claims

/-- A lane after a return: V44 to V47 and P1 to P7 have come back from the bank, and V44 to V47 are not poisoned (R302, R304). -/
def returnedLane (r : LaneRegs) : LaneRegs :=
  { r with v := Vector.ofFn fun q => if h : 44 ≤ q.val then r.bankV[q.val - 44]'(by omega) else r.v[q]
           p := (r.bankP &&& 0xFE#8) ||| (r.p &&& 1#8)
           poison := r.poison &&& 0x0FFFFFFFFFFF#48 }

/-- A warp after a return of some lanes. -/
def returnedWarp (w : Warp) (m : LaneMask) : Warp :=
  { countedWarp w with lanes := Vector.ofFn fun l => if laneIn m l then returnedLane w.lanes[l] else w.lanes[l] }

/-- The byte address that a TPC names (R297). -/
def returnAddr (tpc : W64) : W64 := (tpc &&& ~~~(31#64)) + ((tpc &&& 7#64) <<< 2)

/-- The length of the op at a code address: 8 bytes for a word of a long form's major, and 4 for any other (R61, R302). -/
def skipLength (s : State) (k : CoreId) (c : CtxId) (a : W64) : W64 :=
  match codeWord s k c a with
  | some b => if b.extractLsb' 26 6 = 0x13#6 ∨ b.extractLsb' 26 6 = 0x22#6 ∨ b.extractLsb' 26 6 = 0x23#6 then 8 else 4
  | none => 4

end Sys2Proof.Claims

/-- RFT of a flagged fragment: V44 to V47 and P1 to P7 of its lanes come back from the bank, the flag goes, and the fragment goes to the
op that TPC names; RFT.NEXT goes past that op, 8 bytes for a long form and 4 otherwise (R302; that the word's major says which is
log entry 80). -/
def Obligations.ReturnFromTrap : Prop :=
  (∀ (g : Guard) (s : State) (k : CoreId) (f : FragId) (x : Frag) (w : Warp), LaneTakes s (.rft g) g k f x w → x.flag = true →
    exec (.rft g) s = .next (fragDone s (laneEnv s (.rft g) g k f x w)
      { x with num := w.wisn, flag := false, pc := returnAddr x.trap.pc } (returnedWarp w x.mask))) ∧
  ∀ (g : Guard) (s : State) (k : CoreId) (f : FragId) (x : Frag) (w : Warp), LaneTakes s (.rftNext g) g k f x w → x.flag = true →
    exec (.rftNext g) s = .next (fragDone s (laneEnv s (.rftNext g) g k f x w)
      { x with num := w.wisn, flag := false,
               pc := returnAddr x.trap.pc + skipLength s k (teamCtx s w.team) (returnAddr x.trap.pc) } (returnedWarp w x.mask))

/-! ## Loads, stores and atomics -/

namespace Sys2Proof.Claims

/-- A load: its guard, destination, address, scope, order, width and extension, and its offset (R218 to R221). -/
structure LoadRow where
  g : Guard
  d : Reg
  a : Reg
  sc : Scope
  ord : Order
  w : Width
  sx : Bool
  off : W64

/-- LD and LDO. -/
def loadRow : Instr → Option LoadRow
  | .ld g d a sc ord w sx => some ⟨g, d, a, sc, ord, w, sx, 0⟩
  | .ldo g d a sc ord w sx ext => some ⟨g, d, a, sc, ord, w, sx, ext.signExtend 64⟩
  | _ => none

/-- ST and STO. -/
def storeRow : Instr → Option LoadRow
  | .st g d a sc ord w => some ⟨g, d, a, sc, ord, w, false, 0⟩
  | .sto g d a sc ord w ext => some ⟨g, d, a, sc, ord, w, false, ext.signExtend 64⟩
  | _ => none

/-- log2 of a width in bytes (R220). -/
def logWidth : Width → Nat
  | .b8 => 0 | .b16 => 1 | .b32 => 2 | .b64 => 3 | .b128 => 4

/-- The registers of a value: one of 32 bits, a pair of 64, and an aligned four of 128 (R220). -/
def valueRegs (r : Reg) : Width → List Reg
  | .b8 | .b16 | .b32 => [r]
  | .b64 => [r, r + 1]
  | .b128 => [r, r + 1, r + 2, r + 3]

/-- The address of a lane: the pair A plus the offset (R221). -/
def laneAddr (e : WarpEnv) (a : Reg) (off : W64) (l : Lane) : W64 := (readReg e l (a + 1) ++ readReg e l a) + off

/-- The accesses of the lanes that take part, in ascending order (R225). -/
def accesses (e : WarpEnv) (a : Reg) (off : W64) (len : Nat) : List Acc :=
  (allLanes.filter (laneIn e.parts)).map fun l => ⟨l, laneAddr e a off l, len⟩

/-- The low bytes of a lane's value. -/
def storeBytes (e : WarpEnv) (l : Lane) (d : Reg) (w : Width) : List Byte :=
  ((valueRegs d w).flatMap fun r => bytesLE 4 (readReg e l r).toNat).take (2 ^ logWidth w)

/-- The low bytes of a strand's value: S[D], and S[D+1] above it for 128 bits (R220). -/
def slotBytes (e : StrandEnv) (d : Reg) (w : Width) : List Byte :=
  (bytesLE 8 (opD e d).toNat ++ if w = .b128 then bytesLE 8 (opE e d).toNat else []).take (2 ^ logWidth w)

end Sys2Proof.Claims

/-- LD and LDO of a warp: every lane that takes part asks for its own address, and its value will go to its own registers; the fragment
goes on (R218 to R226). -/
def Sys2Proof.Claims.WarpLoadsComplete : Prop :=
  ∀ (i : Instr) (r : LoadRow), loadRow i = some r →
    ∀ (s : State) (k : CoreId) (f : FragId) (x : Frag) (w : Warp) (e : WarpEnv), LaneTakes s i r.g k f x w → e = laneEnv s i r.g k f x w →
      LaneClean e [r.a, r.a + 1] (valueRegs r.d r.w) →
      AccsPass (countedState s e) (warpIssue s e) i .load (logWidth r.w) false (accesses e r.a r.off (2 ^ logWidth r.w)) →
      exec i s = .next (memDone (countedState s e) e .load (accesses e r.a r.off (2 ^ logWidth r.w))
        (sendAll fun s p cost => newLoad s (warpIssue s e) (r.ord != .strong) (r.ord == .sync) r.sc p cost
          (if 48 ≤ r.d.toNat then .row (e.tile.elim 0 (·.1)) (r.d.toNat - 48) p.lane r.w r.sx else .lane p.lane r.d r.w r.sx) [] 0 []))

/-- LD and LDO of a strand: one request, whose value will go to S[D]; it is overlaid with the strand's own queued stores (R218 to R222,
R227, R311). -/
def Sys2Proof.Claims.StrandLoadsComplete : Prop :=
  ∀ (i : Instr) (r : LoadRow), loadRow i = some r →
    ∀ (s u : State) (k : CoreId) (n : StrandId) (slot : Slot) (st cur : Strand) (e : StrandEnv) (as : List Acc) (p : Placed),
      SlotTakes s i r.g k n slot st cur → e = slotEnv s i k n slot st → as = [⟨0, opA e r.a + r.off, 2 ^ logWidth r.w⟩] →
      AccsPass s (strandIssue s e) i .load (logWidth r.w) false as → (locate s (strandIssue s e) .load as).ok = [p] →
      u = seen s (strandIssue s e) .load as →
      exec i s = .next (newLoad u (strandIssue s e) (r.ord != .strong) (r.ord == .sync) r.sc p 1 (.sreg r.d r.w r.sx) (slotOrder u e) 0
        (queuedBytes u e p.loc p.len))

/-- Loads complete in a warp and in a strand (R218 to R224, R227). -/
def Obligations.LoadsComplete : Prop := WarpLoadsComplete ∧ StrandLoadsComplete

/-- ST and STO of a warp: every lane that takes part stores the low bytes of its own value at its own address, in ascending order of
lanes; at the kick register's address it hands its request to the copy engine (R218 to R226, R240). -/
def Sys2Proof.Claims.WarpStoresComplete : Prop :=
  ∀ (i : Instr) (r : LoadRow), storeRow i = some r →
    ∀ (s : State) (k : CoreId) (f : FragId) (x : Frag) (w : Warp) (e : WarpEnv) (as : List Acc) (val : Lane → W64),
      LaneTakes s i r.g k f x w → e = laneEnv s i r.g k f x w → as = accesses e r.a r.off (2 ^ logWidth r.w) →
      val = (fun l => BitVec.ofNat 64 (natLE (storeBytes e l r.d r.w))) →
      LaneClean e ([r.a, r.a + 1] ++ valueRegs r.d r.w) [] →
      AccsPass (countedState s e) (warpIssue s e) i .store (logWidth r.w) false as →
      (r.ord = .sync → waitDone (countedState s e) (.frag k f) r.sc (owned s (.frag k f)) = true) →
      (∀ a, a ∈ as → a.va = kickAddr → kickCheck (countedState s e) (warpIssue s e) (val a.lane) (1#32 <<< a.lane.val) = none) →
      ((∀ a, a ∈ as → a.va ≠ kickAddr) ∨ (coreAt s k).copyQ.length + (as.filter fun a => a.va == kickAddr).length ≤ Config.copyQueue) →
      exec i s = .next (memDone (countedState s e) e .store as (sendAll fun s p cost =>
        if p.va = kickAddr then kickSend s (warpIssue s e) (val p.lane) none []
        else newReq s (warpIssue s e)
          { loc := p.loc, len := 2 ^ logWidth r.w, op := .store (storeBytes e p.lane r.d r.w), lease := p.lease, cost := cost, va := p.va,
            lanes := 1#32 <<< p.lane.val, isRel := r.ord == .sync }))

/-- ST and STO of a strand: outside a segment one request, in an open segment an entry of the store queue; a release waits its turn
and closes the segment; at the kick register's address the copy engine gets a request (R218 to R222, R227, R240, R309, R311). -/
def Sys2Proof.Claims.StrandStoresComplete : Prop :=
  ∀ (i : Instr) (r : LoadRow), storeRow i = some r →
    ∀ (s u : State) (k : CoreId) (n : StrandId) (slot : Slot) (st cur : Strand) (e : StrandEnv) (as : List Acc) (p : Placed),
      SlotTakes s i r.g k n slot st cur → e = slotEnv s i k n slot st → as = [⟨0, opA e r.a + r.off, 2 ^ logWidth r.w⟩] →
      AccsPass s (strandIssue s e) i .store (logWidth r.w) false as → (locate s (strandIssue s e) .store as).ok = [p] →
      u = seen s (strandIssue s e) .store as →
      let rel := if r.ord = .sync ∧ waitDone u (.strand k n) r.sc (owned u (.strand k n)) = false then some r.sc else none
      let req : NewReq := { loc := p.loc, len := 2 ^ logWidth r.w, op := .store (slotBytes e r.d r.w), lease := p.lease, cost := 1, va := p.va,
                            after := slotOrder u e }
      let held : SegStore := { va := p.va, loc := p.loc, data := slotBytes e r.d r.w, lease := p.lease, pc := tpcSlot st.pc slot,
                               wisn := BitVec.ofNat 64 st.clock, cost := 1 }
      (opA e r.a + r.off = kickAddr → kickCheck u (strandIssue s e) (opD e r.d) 1 = none → (coreAt s k).copyQ.length < Config.copyQueue →
        exec i s = .next (markFx (kickSend u (strandIssue s e) (opD e r.d) rel (slotOrder u e)) e fun y => { y with close := true })) ∧
      (opA e r.a + r.off ≠ kickAddr → r.ord ≠ .sync → st.segOpen = false → exec i s = .next (newReq u (strandIssue s e) req)) ∧
      (opA e r.a + r.off ≠ kickAddr → r.ord ≠ .sync → st.segOpen = true → (queueLines (cur.queue ++ [held])).length ≤ 64 →
        exec i s = .next (onStrand u k n fun y => { y with queue := y.queue ++ [held] })) ∧
      (opA e r.a + r.off ≠ kickAddr → r.ord = .sync →
        exec i s = .next (markFx (newReq u (strandIssue s e) { req with rel := rel, isRel := true }) e fun y => { y with close := true }))

/-- Stores complete in a warp and in a strand (R218 to R226, R240). -/
def Obligations.StoresComplete : Prop := WarpStoresComplete ∧ StrandStoresComplete

/-- ATOM and RED of a warp merge the lanes of one word into one request, and of a strand make one; a strand's closes the segment (R208,
R229 to R233, R309). -/
def Sys2Proof.Claims.AtomicsComplete : Prop :=
  ∀ (i : Instr) (g : Guard) (d : Option Reg) (a b : Reg) (op : AtomOp), (d = none ∧ i = .red g a b op) ∨ (∃ d', d = some d' ∧ i = .atom g d' a b op) →
    (∀ (s : State) (k : CoreId) (f : FragId) (x : Frag) (w : Warp) (e : WarpEnv) (as : List Acc),
      LaneTakes s i g k f x w → e = laneEnv s i g k f x w → as = accesses e a 0 (if op = .add64 then 8 else 4) →
      LaneClean e ([a, a + 1] ++ if op = .add64 then [b, b + 1] else [b]) (d.elim [] fun d => if op = .add64 then [d, d + 1] else [d]) →
      AccsPass (countedState s e) (warpIssue s e) i .atomic (if op = .add64 then 3 else 2) (op == .exch) as →
      exec i s = .next (memDone (countedState s e) e .atomic as fun s ps => sendAtoms s (warpIssue s e) op (ps.map fun p =>
        ⟨p, if op = .add64 then readReg e p.lane (b + 1) ++ readReg e p.lane b else 0#32 ++ readReg e p.lane b,
          d.map fun d => laneDest e p.lane d (if op = .add64 then .b64 else .b32) false⟩) [])) ∧
    ∀ (s u : State) (k : CoreId) (n : StrandId) (slot : Slot) (st cur : Strand) (e : StrandEnv) (as : List Acc) (p : Placed),
      SlotTakes s i g k n slot st cur → e = slotEnv s i k n slot st → as = [⟨0, opA e a, if op = .add64 then 8 else 4⟩] →
      AccsPass s (strandIssue s e) i .atomic (if op = .add64 then 3 else 2) (op == .exch) as → (locate s (strandIssue s e) .atomic as).ok = [p] →
      u = seen s (strandIssue s e) .atomic as →
      exec i s = .next (markFx (sendAtoms u (strandIssue s e) op
        [⟨p, if op = .add64 then opB e b else 0#32 ++ (opB e b).extractLsb' 0 32,
          d.map fun d => .sreg d (if op = .add64 then .b64 else .b32) false⟩] (slotOrder u e)) e fun y => { y with close := true })

/-- ATCAS: one compare-and-swap for each lane that takes part, in ascending order of lanes; a strand makes one and closes the segment
(R234, R309). -/
def Sys2Proof.Claims.AtcasCompletes : Prop :=
  ∀ (g : Guard) (d a b : Reg) (w64 : Bool) (i : Instr) (len : Nat), i = .atcas g d a b w64 → len = (if w64 then 8 else 4) →
    (∀ (s : State) (k : CoreId) (f : FragId) (x : Frag) (w : Warp) (e : WarpEnv) (val : Lane → Reg → W64),
      LaneTakes s i g k f x w → e = laneEnv s i g k f x w →
      val = (fun l r => if w64 then readReg e l (r + 1) ++ readReg e l r else 0#32 ++ readReg e l r) →
      LaneClean e ([a, a + 1] ++ (if w64 then [b, b + 1] else [b]) ++ if w64 then [d, d + 1] else [d]) (if w64 then [d, d + 1] else [d]) →
      AccsPass (countedState s e) (warpIssue s e) i .atomic (if w64 then 3 else 2) true (accesses e a 0 len) →
      exec i s = .next (memDone (countedState s e) e .atomic (accesses e a 0 len) fun s ps => ps.foldl (fun s p =>
        newReq s (warpIssue s e) {
          loc := p.loc, len := len, lease := p.lease, cost := if isRemote k p.loc then 1 else 0, va := p.va, lanes := 1#32 <<< p.lane.val,
          op := .cas w64 (val p.lane d) (val p.lane b) (laneDest e p.lane d (if w64 then .b64 else .b32) false) }) s)) ∧
    ∀ (s u : State) (k : CoreId) (n : StrandId) (slot : Slot) (st cur : Strand) (e : StrandEnv) (as : List Acc) (p : Placed) (cut : W64 → W64),
      SlotTakes s i g k n slot st cur → e = slotEnv s i k n slot st → as = [⟨0, opA e a, len⟩] →
      AccsPass s (strandIssue s e) i .atomic (if w64 then 3 else 2) true as → (locate s (strandIssue s e) .atomic as).ok = [p] →
      u = seen s (strandIssue s e) .atomic as → cut = (fun v => if w64 then v else 0#32 ++ v.extractLsb' 0 32) →
      exec i s = .next (markFx (newReq u (strandIssue s e)
        { loc := p.loc, len := len, lease := p.lease, cost := if isRemote k p.loc then 1 else 0, va := p.va,
          op := .cas w64 (cut (opD e d)) (cut (opB e b)) (.sreg d .b64 false), after := slotOrder u e }) e fun y => { y with close := true })

/-- ATOM, RED and ATCAS complete in a warp and in a strand (R229 to R234). -/
def Obligations.AtomicOpsComplete : Prop := AtomicsComplete ∧ AtcasCompletes

/-- FENCE and TFENCE whose wait is over: TFENCE removes translations at its scope, and the agent acquires; otherwise a fragment waits and
a strand's fence is held (R198, R213, R235). -/
def Sys2Proof.Claims.FencesComplete : Prop :=
  ∀ (i : Instr) (g : Guard) (sc wait : Scope) (tlb : Bool), (tlb = false ∧ i = .fence g sc) ∨ (tlb = true ∧ i = .tfence g sc) →
    wait = (if tlb = true ∧ sc ≠ .sys then .dev else sc) →
    (∀ (s c : State) (k : CoreId) (f : FragId) (x : Frag) (w : Warp) (e : WarpEnv), LaneTakes s i g k f x w → e = laneEnv s i g k f x w →
      c = countedState s e →
      exec i s = .next (
        if waitDone c (.frag k f) wait (owned c (.frag k f)) then
          warpAdvance (acquireCore (if tlb then tlbRemove c k (teamCtx s w.team) sc else c) (.frag k f)) e
        else fragDone s e { x with num := w.wisn, state := .wait i (.fence sc tlb) } (countedWarp w))) ∧
    ∀ (s c : State) (k : CoreId) (n : StrandId) (slot : Slot) (st cur : Strand) (e : StrandEnv), SlotTakes s i g k n slot st cur →
      e = slotEnv s i k n slot st → c = strandDone s k n { cur with fx := { cur.fx with close := true } } →
      exec i s = .next (
        if waitDone c (.strand k n) wait (owned c (.strand k n)) then
          acquireCore (if tlb then tlbRemove c k (teamCtx s st.team) sc else c) (.strand k n)
        else newReq c (strandIssue s e) { loc := .shared k st.team 0, len := 0, op := .fence sc tlb, rel := some wait })

/-- PFT asks for a fill for every lane that takes part and whose address registers are usable, a line costing one token; a strand asks for one, unless its
address is poisoned: PFT never faults (R236, R365; an address whose walk meets an engine-pending line is dropped by log entry 82). -/
def Sys2Proof.Claims.PrefetchCompletes : Prop :=
  (∀ (g : Guard) (a : Reg) (s : State) (k : CoreId) (f : FragId) (x : Frag) (w : Warp) (e : WarpEnv) (usable : Lane → Bool),
    LaneTakes s (.pft g a) g k f x w → e = laneEnv s (.pft g a) g k f x w →
    usable = (fun l => laneIn e.parts l && (!(isY a || isY (a + 1)) || windowHeld e) && !poisoned e l a && !poisoned e l (a + 1)) →
    exec (.pft g a) s = .next (warpAdvance
      (prefetch (countedState s e) (warpIssue s e) ((allLanes.filter usable).map (laneAddr e a 0))) e)) ∧
  ∀ (g : Guard) (a : Reg) (s : State) (k : CoreId) (n : StrandId) (slot : Slot) (st cur : Strand) (e : StrandEnv),
    SlotIssues s k n slot st cur → (Instr.pft g a).wf (.slot slot) = true → e = slotEnv s (.pft g a) k n slot st → opGuard e g = true →
    exec (.pft g a) s = .next (if st.poison.getLsbD a.toNat then s else prefetch s (strandIssue s e) [opA e a])

/-- FENCE, TFENCE and PFT complete (R198, R213, R235, R236). -/
def Obligations.FencesAndPrefetchComplete : Prop := FencesComplete ∧ PrefetchCompletes

/-! ## Tile ops of a strand -/

namespace Sys2Proof.Claims

/-- An op of the TV, TR or SF unit: its guard, its destination and sources, whether it only moves elements, its beats and its latency,
and the destination's new bytes from VT and the sources' (R116, R119, R122, R124). -/
structure TileRow where
  g : Guard
  d : Reg
  srcs : List Reg
  moves : Bool
  busy : Nat
  lat : Nat
  val : StrandEnv → Nat → (Nat → TileData) → TileData

/-- An element of a tile under VT, by row and column (R43, R116). -/
def element (vt : Nat) (x : TileData) (r c : Nat) : Nat := tileBits x (vtWidth vt * (r * vtCols vt + c)) (vtWidth vt)

/-- An element-wise op of the TV unit on A, B and D (R117, R119). -/
def tvRow (g : Guard) (d : Reg) (srcs : List Reg) (val : Fmt → Nat → Nat → Nat → Nat) : TileRow :=
  { g := g, d := d, srcs := srcs, moves := false, busy := 2, lat := 4,
    val := fun _ vt src => tileOf vt fun r c => val (codeFmt vt) (element vt (src 0) r c) (element vt (src 1) r c) (element vt (src 2) r c) }

/-- An op of the TR unit on A (R122, R123). -/
def trRow (g : Guard) (d a : Reg) (moves : Bool) (val : Nat → TileData → Nat → Nat → Nat) : TileRow :=
  { g := g, d := d, srcs := [a], moves := moves, busy := 4, lat := 6, val := fun _ vt src => tileOf vt (val vt (src 0)) }

/-- The values of a row of a tile. -/
def rowVals (vt : Nat) (x : TileData) (r : Nat) : List Val := (List.range (vtCols vt)).map fun c => unpack (codeFmt vt) (element vt x r c)
/-- The values of a column of a tile. -/
def colVals (vt : Nat) (x : TileData) (c : Nat) : List Val := (List.range 16).map fun r => unpack (codeFmt vt) (element vt x r c)

/-- An op of the SF unit on A: each element widened to FP32, approximated, and rounded to VT (R124). -/
def sfRow (g : Guard) (d a : Reg) (f : Fun) : TileRow :=
  { g := g, d := d, srcs := [a], moves := false, busy := 8, lat := 12,
    val := fun _ vt src => tileOf vt fun r c =>
      (convert fp32 (codeFmt vt) .rne (funResult f true (BitVec.ofNat 32 (roundTo fp32 .rne (unpack (codeFmt vt) (element vt (src 0) r c))).1)).1).1 }

/-- The ops of the TV, TR and SF units but for TCVT (R119, R120, R122 to R124). -/
def tileRow : Instr → Option TileRow
  | .tadd g d a b => some (tvRow g d [a, b] fun f x y _ => (fAdd f .rne x y).1)
  | .tsub g d a b => some (tvRow g d [a, b] fun f x y _ => (fSub f .rne x y).1)
  | .tmul g d a b => some (tvRow g d [a, b] fun f x y _ => (fMul f .rne x y).1)
  | .tfma g d a b => some (tvRow g d [a, b, d] fun f x y z => (fFma f .rne x y z).1)
  | .tmax g d a b => some (tvRow g d [a, b] fun f x y _ => (fMax f x y).1)
  | .tmin g d a b => some (tvRow g d [a, b] fun f x y _ => (fMin f x y).1)
  | .tsclr g d a b => some {
      g := g, d := d, srcs := [a, b], moves := false, busy := 2, lat := 4,
      val := fun _ vt src => tileOf vt fun r c => (fMul (codeFmt vt) .rne (element vt (src 0) r c) (element vt (src 1) r 0)).1 }
  | .tsclc g d a b => some {
      g := g, d := d, srcs := [a, b], moves := false, busy := 2, lat := 4,
      val := fun _ vt src => tileOf vt fun r c => (fMul (codeFmt vt) .rne (element vt (src 0) r c) (element vt (src 1) 0 c)).1 }
  | .tcpy g d a => some { g := g, d := d, srcs := [a], moves := true, busy := 2, lat := 4, val := fun _ _ src => src 0 }
  | .tfill g d a => some {
      g := g, d := d, srcs := [], moves := true, busy := 2, lat := 4,
      val := fun e vt _ => tileOf vt fun _ _ => (opA e a).toNat % 2 ^ vtWidth vt }
  | .tmsk g d a b => some {
      g := g, d := d, srcs := [a], moves := false, busy := 2, lat := 4,
      val := fun e vt src => tileOf vt fun r c =>
        let off := ((opB e b).extractLsb' 0 32).toInt
        let keep : Bool := match ((opB e b).extractLsb' 32 2).toNat with
          | 0 => decide ((c : Int) ≤ r + off) | 1 => decide ((c : Int) ≥ r + off) | 2 => decide ((c : Int) < off) | _ => decide ((r : Int) < off)
        if keep then element vt (src 0) r c else if (opB e b).getLsbD 34 then 0 else infBits (codeFmt vt) true }
  | .trmax g d a => some (trRow g d a false fun vt x r c => if c = 0 then (roundTo (codeFmt vt) .rne (maxAll (codeFmt vt) (rowVals vt x r))).1 else 0)
  | .trsum g d a => some (trRow g d a false fun vt x r c => if c = 0 then (roundTo (codeFmt vt) .rne (valSum (rowVals vt x r))).1 else 0)
  | .tcmax g d a => some (trRow g d a false fun vt x r c => if r = 0 then (roundTo (codeFmt vt) .rne (maxAll (codeFmt vt) (colVals vt x c))).1 else 0)
  | .tcsum g d a => some (trRow g d a false fun vt x r c => if r = 0 then (roundTo (codeFmt vt) .rne (valSum (colVals vt x c))).1 else 0)
  | .ttrn g d a => some (trRow g d a true fun vt x r c => element vt x (c % 16) (c / 16 * 16 + r))
  | .tbcr g d a => some (trRow g d a true fun vt x r _ => element vt x r 0)
  | .tbcc g d a => some (trRow g d a true fun vt x _ c => element vt x 0 c)
  | .sexp2 g d a => some (sfRow g d a .exp2)
  | .slog2 g d a => some (sfRow g d a .log2)
  | .srcp g d a => some (sfRow g d a .rcp)
  | .srsq g d a => some (sfRow g d a .rsq)
  | .stanh g d a => some (sfRow g d a .tanh)
  | _ => none

end Sys2Proof.Claims

/-- The ops of the TV, TR and SF units complete when their checks pass: the destination's whole new content is due after the unit's
latency (R18, R19, R21, R116, R117, R119, R120, R122 to R124). -/
def Obligations.TileUnitOpsComplete : Prop :=
  ∀ (i : Instr) (r : TileRow), tileRow i = some r →
    ∀ (s : State) (k : CoreId) (n : StrandId) (slot : Slot) (st cur : Strand) (e : StrandEnv) (vt td : Nat) (rd : List Nat),
      SlotTakes s i r.g k n slot st cur → e = slotEnv s i k n slot st → vt = ((viewMxcfg st).extractLsb' 41 4).toNat →
      vt ≤ (if r.moves then 4 else 2) → td = (viewTwb st).toNat + r.d.toNat → rd = r.srcs.map (fun a => (viewTwb st).toNat + a.toNat) →
      tileGate s e true (rd ++ [td]) rd none = .ok → TilesGood e cur rd [td] →
      ∃ t, exec i s = .next t ∧ UnitDone s t e cur r.busy r.lat [.tile td false (r.val e vt fun m => (viewTile e (rd.getD m 0)).data)]

/-- TCVT completes: the destination and its scale bytes are due after four bundles (R39 to R46, R109, R121). -/
def Obligations.TcvtCompletes : Prop :=
  ∀ (g : Guard) (d a b : Reg) (s u : State) (k : CoreId) (n : StrandId) (slot : Slot) (st cur now : Strand) (e : StrandEnv) (raw : List Byte)
    (r : FormatRec) (ta td cs cso : Nat) (srcs : List Nat) (data : TileData) (bs : List Byte),
    SlotTakes s (.tcvt g d a b) g k n slot st cur → e = slotEnv s (.tcvt g d a b) k n slot st →
    readRecord s (strandIssue s e) (.tcvt g d a b) (opB e b) 6 64 (fun l => queuedBytes s e l 64) = .ok u raw →
    strandAt (coreAt u k) n = some now → r = formatRec raw →
    formatBad r = false → rowElems r.src ≤ rowElems r.tgt → ta = (viewTwb st).toNat + a.toNat → td = (viewTwb st).toNat + d.toNat →
    cs = ((viewMxcfg st).extractLsb' 30 6).toNat → cso = ((viewMxcfg st).extractLsb' 36 5).toNat →
    srcs = (List.range (max 1 (rowElems r.tgt / rowElems r.src))).map (ta + ·) →
    (data, bs) = tcvtGroups r (tcvtSource r fun m => (viewTile e (ta + m)).data) →
    tileGate u e true (srcs ++ [td] ++ streamTiles (viewTwb st).toNat cs cso (scaleBytes r.tgt)) srcs none = .ok →
    TilesGood e now srcs (td :: (scaleWrites (viewTwb st).toNat cs cso bs).map (·.1)) →
    ∃ t, exec (.tcvt g d a b) s = .next t ∧
      UnitDone u t e now 2 4 (.tile td false data :: (scaleWrites (viewTwb st).toNat cs cso bs).map (·.2))

/-- MMA, MMAZ and MMAR complete: the accumulator's new content, from its old one or from zero, is due eight bundles after the last beat
(R55, R56, R104 to R113, R115). -/
def Obligations.MatrixOpsComplete : Prop :=
  ∀ (i : Instr) (kind : MxKind) (g : Guard) (d a b : Reg) (fn : BitVec 4),
    (kind = .mma ∧ i = .mma g d a b fn) ∨ (kind = .mmaz ∧ i = .mmaz g d a b fn) ∨ (kind = .mmar ∧ i = .mmar g d a b fn) →
    ∀ (s : State) (k : CoreId) (n : StrandId) (slot : Slot) (st cur : Strand) (e : StrandEnv) (field : Nat → Nat → Nat) (tile : Reg → Nat)
      (beats : Nat) (sas sbs srcs : List Nat) (image : Nat → TileData) (sc : Nat → Nat → Nat → Nat) (c0 : List Nat) (m : MxOp),
      SlotTakes s i g k n slot st cur → e = slotEnv s i k n slot st →
      field = (fun lo len => ((viewMxcfg st).extractLsb' lo len).toNat) → tile = (fun r => (viewTwb st).toNat + r.toNat) →
      beats = 2 * (fn.toNat + 1) → kGroup (field 0 4) ≠ 0 → kGroup (field 0 4) = kGroup (field 4 4) →
      sas = streamTiles (viewTwb st).toNat (field 8 6) (field 14 5) (blockScale (field 0 4) * (beats / 2 * tileBlocks (field 0 4))) →
      sbs = streamTiles (viewTwb st).toNat (field 19 6) (field 25 5) (blockScale (field 4 4) * (beats * tileBlocks (field 4 4))) →
      srcs = (if kind = .mmar then [] else (List.range (beats / 2)).map (tile a + ·)) ++ (List.range beats).map (tile b + ·) ++ sas ++ sbs →
      tileGate s e true (tile d :: srcs) (srcs ++ if kind = .mmaz then [] else [tile d])
        (if srcs.contains (tile d) then none else some (tile d)) = .ok →
      (kind ≠ .mmar → image = fun q => (viewTile e (tile a + q)).data) →
      (kind = .mmar → mxImage s e (opA e a) (beats / 2) = .ok image ∧
        sharedPoison s k st.team ((opA e a).toNat % 281474976710656) (1024 * beats) = false) →
      sc = (fun first off q => tileBits (viewTile e ((viewTwb st).toNat + (streamByte first off q).1)).data (8 * (streamByte first off q).2) 8) →
      c0 = (if kind = .mmaz then List.replicate 512 0 else
        tileElems 32 ((notDue e (tile d)).foldl (fun x p => (pendTile (tile d) x p).getD x) (viewTile e (tile d))).data) →
      m = { af := field 0 4, bf := field 4 4, beats := beats, a := image, b := fun j => (viewTile e (tile b + j)).data,
            sa := sc (field 8 6) (field 14 5), sb := sc (field 19 6) (field 25 5) } →
      TilesGood e cur (srcs ++ if kind = .mmaz then [] else [tile d]) [tile d] →
      ∃ t, exec i s = .next t ∧ UnitDone s t e cur beats (beats + 8) [.tile (tile d) true (tileOfElems 32 (mxRun m c0))]

/-- TLD asks for every row or column of the tile, all of which land together; TST stores the tile as it is, row after row or column after
column, or holds it in an open segment's queue (R125 to R127, R311). -/
def Obligations.TileTransfersComplete : Prop :=
  ∀ (g : Guard) (d a b : Reg) (strong : Bool) (mode : TileMode) (s u : State) (k : CoreId) (n : StrandId) (slot : Slot) (st cur : Strand)
    (e : StrandEnv) (td log : Nat) (parts : List (Nat × W64 × Nat)) (as : List Acc) (i : Instr) (kind : MemKind),
    SlotTakes s i g k n slot st cur → e = slotEnv s i k n slot st → td = (viewTwb st).toNat + d.toNat →
    log = (if mode = .cols then 6 else 7) →
    parts = (match mode with
      | .rows => (List.range 16).map fun r => (128 * r, opA e a + BitVec.ofNat 64 r * opB e b, 128)
      | .cont => (List.range 16).map fun r => (128 * r, opA e a + BitVec.ofNat 64 (128 * r), 128)
      | .cols => (List.range 32).map fun c => (64 * c, opA e a + BitVec.ofNat 64 c * opB e b, 64)) →
    as = parts.map (fun p => ⟨0, p.2.1, p.2.2⟩) → tileGate s e false [td] (if kind = .load then [] else [td]) none = .ok →
    AccsPass s (strandIssue s e) i kind log false as →
    u = seen s (strandIssue s e) kind as →
    (i = .tld g d a b strong mode → kind = .load → ∀ z : State, logTiles u e [td] = some z →
      exec i s = .next (((lineCosts (locate s (strandIssue s e) .load as).ok).zip parts).foldl (fun v p =>
        newLoad v (strandIssue s e) (!strong) false .core p.1.1 p.1.2 (.tile td p.2.1) (slotOrder z e) (z.nextId + 1)
          (queuedBytes v e p.1.1.loc p.1.1.len)) { z with nextId := z.nextId + 1 })) ∧
    (i = .tst g d a b strong mode → kind = .store → (viewTile e td).suspect = false → (viewTile e td).poison = false →
      (st.segOpen = false →
        exec i s = .next (((lineCosts (locate s (strandIssue s e) .store as).ok).zip parts).foldl (fun v p =>
          newReq v (strandIssue s e) {
            loc := p.1.1.loc, len := p.2.2.2, op := .store (tileBytes (viewTile e td).data p.2.1 p.2.2.2), lease := p.1.1.lease,
            cost := p.1.2, va := p.1.1.va, after := slotOrder v e }) u)) ∧
      (st.segOpen = true → ∀ new : List SegStore,
        new = ((lineCosts (locate s (strandIssue s e) .store as).ok).zip parts).map (fun p =>
          { va := p.1.1.va, loc := p.1.1.loc, data := tileBytes (viewTile e td).data p.2.1 p.2.2.2, lease := p.1.1.lease, pc := tpcSlot st.pc slot,
            wisn := BitVec.ofNat 64 st.clock, cost := p.1.2 }) →
        (queueLines (cur.queue ++ new)).length ≤ 64 →
        exec i s = .next (onStrand u k n fun y => { y with queue := y.queue ++ new })))

/-- CVTN completes: its record is read once, and every lane that takes part has its converted value; the flags go to FPSTAT (R39, R41,
R44 to R46, R175). -/
def Obligations.CvtnCompletes : Prop :=
  ∀ (g : Guard) (d a b : Reg) (s u : State) (k : CoreId) (f : FragId) (x : Frag) (w : Warp) (e : WarpEnv) (raw : List Byte) (r : FormatRec)
    (pair : Bool), LaneTakes s (.cvtn g d a b) g k f x w → e = laneEnv s (.cvtn g d a b) g k f x w →
    ((∃ q ∈ [a, b, b + 1, d], isY q = true) → windowHeld e = true) → OnceClean e [b, b + 1] [] →
    readRecord (countedState s e) (warpIssue s e) (.cvtn g d a b) (readReg e (leadLane e.parts) (b + 1) ++ readReg e (leadLane e.parts) b) 6 64
      (fun _ => []) = .ok u raw →
    r = formatRec raw → formatBad r = false → cvtnOk r a = true → pair = (r.src == 0 && r.tgt != 0) →
    LaneClean e (if pair then [a, a + 1] else [a]) [d] →
    exec (.cvtn g d a b) s = .next (warpAdvance (setScore (writeLanes u k x.warp e.parts 4 fun l =>
      { regs := [(d, (cvtnLane r l (readReg e l a) (if pair then readReg e l (a + 1) else 0)).1)],
        flags := (cvtnLane r l (readReg e l a) (if pair then readReg e l (a + 1) else 0)).2 }) k f [d] [] 4) e)

/-! ## Copy requests, presence and rings -/

namespace Sys2Proof.Claims

/-- The address in a register pair of the lead lane (R160, R221). -/
def leadAddr (e : WarpEnv) (a : Reg) : W64 := readReg e (leadLane e.parts) (a + 1) ++ readReg e (leadLane e.parts) a

/-- The lead lane alone. -/
def leadOnly (e : WarpEnv) : LaneMask := laneBit (leadLane e.parts)

/-- The request at the end of a core's queue is the 64 bytes at an address of its own shared memory, with its issuer (R240, R242). -/
def Queued (s t : State) (k : CoreId) (team : Nat) (who : AgentRef) (a : W64) : Prop :=
  ∃ r : CopyReq, (coreAt t k).copyQ = (coreAt s k).copyQ ++ [r] ∧ r.team = team ∧ r.who = who ∧
    r.raw = BitVec.ofNat 512 (natLE (sharedBytes s k team (a.toNat % 2 ^ 48) 64))

/-- Nothing that the bundle's slot 6 has begun stands before the slot: no acquire, no release that waits, and before slot 7 no access that
is still to be sent (R16, R199, R227). -/
def slotFree (s : State) (e : StrandEnv) : Prop :=
  slotOrder s e = [] ∧ (e.slot = 7 → allSent s (.strand e.k e.n) = true)

/-- RACQ, RPEK and their TRY forms: whether it is a peek, guard, destination, address, and the predicate of TRY (R252). -/
def ringTake : Instr → Option (Bool × Guard × Reg × Reg × Option Pred)
  | .racq g d a => some (false, g, d, a, none)
  | .racqTry g d a p => some (false, g, d, a, some p)
  | .rpek g d a => some (true, g, d, a, none)
  | .rpekTry g d a p => some (true, g, d, a, some p)
  | _ => none

end Sys2Proof.Claims

open Sys2Proof.Claims

/-- CPK, and KICK as the store that names its request, send a copy request, which takes the last place of the engine's queue; a full
queue holds the op back. A request is sent at once when nothing of its core waits to be sent (R240, R242, R367). -/
def Obligations.CopyRequestsQueue : Prop :=
  (∀ (g : Guard) (a : Reg) (s c : State) (k : CoreId) (f : FragId) (x : Frag) (w : Warp) (e : WarpEnv),
    LaneTakes s (.cpk g a) g k f x w → e = laneEnv s (.cpk g a) g k f x w → OnceClean e [a, a + 1] [] → c = countedState s e →
    kickCheck c (warpIssue c e) (leadAddr e a) (leadOnly e) = none →
    ((coreAt s k).copyQ.length < Config.copyQueue →
      exec (.cpk g a) s = .next (warpEnd (kickSend c (warpIssue c e) (leadAddr e a) none []) e)) ∧
    (Config.copyQueue ≤ (coreAt s k).copyQ.length →
      exec (.cpk g a) s = .next (fragDone s e { x with num := w.wisn, state := .wait (.cpk g a) .copyQueue } (countedWarp w)))) ∧
  (∀ (g : Guard) (a : Reg) (s : State) (k : CoreId) (n : StrandId) (slot : Slot) (st cur : Strand) (e : StrandEnv),
    SlotTakes s (.cpk g a) g k n slot st cur → e = slotEnv s (.cpk g a) k n slot st → kickCheck s (strandIssue s e) (opA e a) 1 = none →
    ((coreAt s k).copyQ.length < Config.copyQueue →
      exec (.cpk g a) s = .next (markFx (kickSend s (strandIssue s e) (opA e a) none (slotOrder s e)) e fun y => { y with close := true })) ∧
    (Config.copyQueue ≤ (coreAt s k).copyQ.length → exec (.cpk g a) s = .next (slotStall s k n .copyQueue))) ∧
  (∀ (a : W64) (s : State) (k : CoreId) (n : StrandId) (slot : Slot) (st cur : Strand) (e : StrandEnv),
    SlotIssues s k n slot st cur → e = slotEnv s (.kick a) k n slot st → kickCheck s (strandIssue s e) a 1 = none →
    (coreAt s k).copyQ.length < Config.copyQueue →
    exec (.kick a) s = .next (kickSend s (strandIssue s e) a none (slotOrder s e))) ∧
  (∀ (a : W64) (s : State) (k : CoreId) (f : FragId) (x : Frag) (w : Warp) (e : WarpEnv), FragIssues s k f x w →
    e = { laneEnv s (.kick a) always k f x w with w := { w with wisn := x.num } } → kickCheck s (warpIssue s e) a (leadOnly e) = none →
    (coreAt s k).copyQ.length < Config.copyQueue → exec (.kick a) s = .next (kickSend s (warpIssue s e) a none [])) ∧
  ∀ (s : State) (q : Issue) (a : W64), (∀ r ∈ s.reqs, r.core = q.k → r.held = false) → reqAt s s.nextId = none →
    (coreAt s q.k).copyQ.length < Config.copyQueue →
    SameBytes s (kickSend s q a none []) ∧ Queued s (kickSend s q a none []) q.k q.team q.who a

/-- PCLR clears the presence bits of every line of a range in the owning core's shared memory, and a strand's once its earlier
accesses have been sent; AWAIT passes when its word is zero or negative, as an acquire, and otherwise waits; a slot 7 comes after
what slot 6 has begun (R16, R199, R227, R247). That such a slot is left to a later turn of its bundle, with the other slots done, is log
entry 84 (and 42); that AWAIT in an open segment reads the shared word alone is log entry 87. -/
def Obligations.PresenceClearsAndAwaits : Prop :=
  (∀ (g : Guard) (a b : Reg) (s c : State) (k k' : CoreId) (f : FragId) (x : Frag) (w : Warp) (e : WarpEnv) (off n : Nat),
    LaneTakes s (.pclr g a b) g k f x w → e = laneEnv s (.pclr g a b) g k f x w → OnceClean e [a, a + 1, b] [] → c = countedState s e →
    sharedTarget c (warpIssue c e) (leadAddr e a) 0 (leadOnly e) = .ok (k', off) → n = (readReg e (leadLane e.parts) b).toNat →
    off + n ≤ teamShared c w.team →
    exec (.pclr g a b) s = .next (warpEnd (setPresence c k' w.team (linesOf off n) false) e)) ∧
  (∀ (g : Guard) (a b : Reg) (s : State) (k k' : CoreId) (n : StrandId) (slot : Slot) (st cur : Strand) (e : StrandEnv) (off len : Nat),
    SlotTakes s (.pclr g a b) g k n slot st cur → e = slotEnv s (.pclr g a b) k n slot st →
    sharedTarget s (strandIssue s e) (opA e a) 0 1 = .ok (k', off) → len = (opB e b).toNat → off + len ≤ teamShared s st.team →
    exec (.pclr g a b) s = .next (
      if allSent s (.strand k n) = true ∧ slotOrder s e = [] then
        markFx (setPresence s k' st.team (linesOf off len) false) e fun y => { y with close := true }
      else markFx s e fun y => { y with later := y.later ++ [slot] })) ∧
  (∀ (g : Guard) (a : Reg) (s c : State) (k k' : CoreId) (f : FragId) (x : Frag) (w : Warp) (e : WarpEnv) (off : Nat) (v : W32),
    LaneTakes s (.await g a) g k f x w → e = laneEnv s (.await g a) g k f x w → OnceClean e [a, a + 1] [] → c = countedState s e →
    sharedTarget c (warpIssue c e) (leadAddr e a) 2 (leadOnly e) = .ok (k', off) → v = BitVec.ofNat 32 (natLE (sharedBytes s k' w.team off 4)) →
    (v = 0#32 ∨ v.msb = true → exec (.await g a) s = .next (warpEnd (acquireAt c (.frag k f) (.shared k' w.team off) 4) e)) ∧
    (v ≠ 0#32 → v.msb = false → w.kill = false → exec (.await g a) s =
      .next (fragDone s e { x with num := w.wisn, state := .wait (.await g a) (.await (.shared k' w.team off)) } (countedWarp w)))) ∧
  ∀ (g : Guard) (a : Reg) (s : State) (k k' : CoreId) (n : StrandId) (slot : Slot) (st cur : Strand) (e : StrandEnv) (off : Nat) (v : W32),
    SlotTakes s (.await g a) g k n slot st cur → e = slotEnv s (.await g a) k n slot st →
    sharedTarget s (strandIssue s e) (opA e a) 2 1 = .ok (k', off) → v = BitVec.ofNat 32 (natLE (sharedBytes s k' st.team off 4)) →
    (¬ slotFree s e → exec (.await g a) s = .next (markFx s e fun y => { y with later := y.later ++ [slot] })) ∧
    (slotFree s e → v = 0#32 ∨ v.msb = true →
      exec (.await g a) s = .next (acquireAt s (.strand k n) (.shared k' st.team off) 4)) ∧
    (slotFree s e → v ≠ 0#32 → v.msb = false → exec (.await g a) s = .next (slotStall s k n (.await (.shared k' st.team off))))

namespace Sys2Proof.Claims

/-- RACQ finds a free slot while fewer than CAP are in use, and RPEK a slot at PEEK that is committed, or that the team's own
provisional commit covers (R249, R250, R275). -/
def slotReady (s : State) (r : Ring) (peek : Bool) : Bool :=
  if peek then decide (r.peek ≠ r.tail) && (cmapBit s r (r.peek.toNat % r.cap) || heldBit s r (r.peek.toNat % r.cap))
  else decide ((r.tail - r.head).toNat < r.cap)

/-- The ring after RACQ, or after RPEK (R250). -/
def ringTaken (r : Ring) (peek : Bool) : Ring := if peek then { r with peek := r.peek + 1 } else { r with tail := r.tail + 1 }

/-- The address that RACQ or RPEK returns: that of the slot at TAIL, or at PEEK (R250). -/
def takenAddr (r : Ring) (peek : Bool) : W64 := slotAddr r (if peek then r.peek else r.tail)

/-- Where RACQ and RPEK acquire from: HEAD, which RREL has released, and the slot's committed bit, which RCMT has (R202, R252). -/
def takePlace (r : Ring) (peek : Bool) : Loc × Nat :=
  if peek then (cmapPlace r (r.peek.toNat % r.cap), 1) else (.shared r.k r.team (r.off + 0x14), 2)

/-- The memory after RCMT of a slot, or after RREL: the slot's bit is set; or HEAD has advanced and its slot's bits are clear
(R250). -/
def ringReleased (s : State) (r : Ring) : Option Nat → State
  | some j => commitSlot s r j
  | none =>
    let u := setCmap s r.k r.team r.off (r.head.toNat % r.cap) false
    putRing { u with heldCmap := u.heldCmap.filter fun h =>
      !(h.core == r.k && h.team == r.team && h.off == r.off && h.slot == r.head.toNat % r.cap) } { r with head := r.head + 1 }

/-- RCMT may commit a slot that is ACQUIRED, and RREL may release while a slot has been taken out (R249, R250). -/
def mayRelease (s : State) (r : Ring) : Option Nat → Prop
  | some j => slotAcquired s r j = true
  | none => r.head ≠ r.peek

/-- Where RCMT and RREL publish their release. -/
def releasePlace (r : Ring) : Option Nat → Loc × Nat
  | some j => (cmapPlace r j, 1)
  | none => (.shared r.k r.team (r.off + 0x14), 2)

/-- The scope of a ring's acquires and releases (R252). -/
def ringSc (r : Ring) : Scope := if r.clu then .clu else .core

/-- RCMT names a slot of its ring by its address, and RREL none. -/
def releases (i : Instr) (g : Guard) (a b : Reg) (r : Ring) (slot : W64) (j : Option Nat) : Prop :=
  (i = .rcmt g a b ∧ j ≠ none ∧ slotIndex r slot = j) ∨ (i = .rrel g a ∧ j = none)

end Sys2Proof.Claims

/-- RACQ and RPEK of a ring whose control block is valid return the address of the slot when there is one, as an acquire, and advance
TAIL or PEEK; without one a TRY form returns false, and the other waits. RCMT commits an ACQUIRED slot and RREL frees the slot at HEAD,
once the wait at the ring's scope is over (R198, R202, R250, R252). That a strand's RCMT or RREL makes its bundle wait for earlier bundles
alone, and is otherwise left to a later turn of the bundle, is log entries 42 and 84. -/
def Sys2Proof.Claims.RingOpsComplete : Prop :=
  (∀ (i : Instr) (peek : Bool) (g : Guard) (d a : Reg) (p : Option Pred), ringTake i = some (peek, g, d, a, p) →
    (∀ (s c : State) (k k' : CoreId) (f : FragId) (x : Frag) (w : Warp) (e : WarpEnv) (off : Nat) (r : Ring),
      LaneTakes s i g k f x w → e = laneEnv s i g k f x w → OnceClean e [a, a + 1] [d, d + 1] → c = countedState s e →
      sharedTarget c (warpIssue c e) (leadAddr e a) 6 (leadOnly e) = .ok (k', off) → ringAt c k' w.team off = some r →
      (slotReady c r peek = true →
        exec i s = .next (warpEnd (setScore (writeLanes
          (acquireAt (putRing c (ringTaken r peek)) (.frag k f) (takePlace r peek).1 (takePlace r peek).2) k x.warp e.parts 1 fun _ =>
            { regs := Claims.pairOf d (takenAddr r peek), preds := p.toList.map fun p => (p, true) }) k f [d, d + 1] p.toList 1) e)) ∧
      (∀ q, p = some q → slotReady c r peek = false →
        exec i s = .next (warpEnd (setScore (writeLanes c k x.warp e.parts 1 fun _ => { preds := [(q, false)] }) k f [] [q] 1) e)) ∧
      (p = none → slotReady c r peek = false → w.kill = false → exec i s = .next (fragDone s e
        { x with num := w.wisn, state := .wait i (.ring (.shared k' w.team off) peek) } (countedWarp w)))) ∧
    ∀ (s : State) (k k' : CoreId) (n : StrandId) (slot : Slot) (st cur : Strand) (e : StrandEnv) (off : Nat) (r : Ring)
      (close : BundleFx → BundleFx),
      SlotTakes s i g k n slot st cur → e = slotEnv s i k n slot st → close = (fun y => { y with close := true }) →
      sharedTarget s (strandIssue s e) (opA e a) 6 1 = .ok (k', off) → ringAt s k' st.team off = some r → slotFree s e →
      (slotReady s r peek = true →
        exec i s = .next (markFx (p.toList.foldl (fun t p => pendAdd t e 1 (.pred p true)) (pendAdd
          (acquireAt (putRing s (ringTaken r peek)) (.strand k n) (takePlace r peek).1 (takePlace r peek).2) e 1
            (.sreg d (takenAddr r peek)))) e close)) ∧
      (∀ q, p = some q → slotReady s r peek = false → exec i s = .next (markFx (pendAdd s e 1 (.pred q false)) e close)) ∧
      (p = none → slotReady s r peek = false → exec i s = .next (slotStall s k n (.ring (.shared k' st.team off) peek)))) ∧
  ∀ (i : Instr) (g : Guard) (a b : Reg) (r : Ring) (j : Option Nat),
    (∀ (s c : State) (k k' : CoreId) (f : FragId) (x : Frag) (w : Warp) (e : WarpEnv) (off : Nat),
      LaneTakes s i g k f x w → e = laneEnv s i g k f x w → releases i g a b r (leadAddr e b) j →
      OnceClean e ([a, a + 1] ++ if j.isSome then [b, b + 1] else []) [] → c = countedState s e →
      sharedTarget c (warpIssue c e) (leadAddr e a) 6 (leadOnly e) = .ok (k', off) → ringAt c k' w.team off = some r → mayRelease c r j →
      exec i s = .next (
        if waitDone c (.frag k f) (ringSc r) (owned c (.frag k f)) then
          warpEnd (releaseAt (ringReleased c r j) (.frag k f) (releasePlace r j).1 (releasePlace r j).2) e
        else fragDone s e { x with num := w.wisn, state := .wait i (.release (ringSc r)) } (countedWarp w))) ∧
    ∀ (s : State) (k k' : CoreId) (n : StrandId) (slot : Slot) (st cur : Strand) (e : StrandEnv) (off : Nat),
      SlotTakes s i g k n slot st cur → e = slotEnv s i k n slot st → releases i g a b r (opB e b) j →
      sharedTarget s (strandIssue s e) (opA e a) 6 1 = .ok (k', off) → ringAt s k' st.team off = some r → mayRelease s r j →
      exec i s = .next (
        if waitDone s (.strand k n) (ringSc r) (ownedBefore s e) = false then slotStall s k n .landing
        else if slotOrder s e = [] ∧ (slot = 7#4 → allSent s (.strand k n) = true) ∧
            waitDone s (.strand k n) (ringSc r) (owned s (.strand k n)) = true then
          markFx (releaseAt (ringReleased s r j) (.strand k n) (releasePlace r j).1 (releasePlace r j).2) e fun y => { y with close := true }
        else markFx s e fun y => { y with later := y.later ++ [slot] })

/-- The pointers and the committed bits of a ring: an acquire advances TAIL while fewer than CAP slots are in use, a peek advances PEEK
past a committed slot, a release advances HEAD and clears the slot's bit, and a commit moves no pointer (R248 to R250). -/
def Sys2Proof.Claims.RingPointersAdvance : Prop :=
  ∀ (s : State) (k : CoreId) (t off : Nat) (r : Ring), s.memOk → ringAt s k t off = some r →
    ((r.tail - r.head).toNat < r.cap → ∃ u, ringDo s k t off .acquire = .done u (slotAddr r r.tail) ∧
      ringAt u k t off = some { r with tail := r.tail + 1 }) ∧
    ((r.tail - r.head).toNat = r.cap → ringDo s k t off .acquire = .wait) ∧
    (r.peek ≠ r.tail → cmapBit s r (r.peek.toNat % r.cap) = true → ∃ u, ringDo s k t off .peek = .done u (slotAddr r r.peek) ∧
      ringAt u k t off = some { r with peek := r.peek + 1 }) ∧
    (r.head ≠ r.peek → ∃ u, ringDo s k t off .release = .done u 0#64 ∧ ringAt u k t off = some { r with head := r.head + 1 } ∧
      cmapBit u r (r.head.toNat % r.cap) = false) ∧
    ∀ i, slotAcquired s r i = true → heldTag s t = none → ∃ u, ringDo s k t off (.commit (slotAddr r (BitVec.ofNat 16 i))) = .done u 0#64 ∧
      ringAt u k t off = some r ∧ cmapBit u r i = true

/-- RACQ, RPEK, RCMT and RREL complete (R251 to R253; log entries 42 and 84 for the strand's clauses). -/
def Obligations.RingOpsTakeAndAdvance : Prop := RingOpsComplete ∧ RingPointersAdvance

/-! ## Launches, tile queues and joins -/

namespace Sys2Proof.Claims

/-- What LAUNCH comes to at va, by issuer q with the bytes `own` of its own store queue: status 3 when the issuer may not launch, 4 for an
invalid record, and otherwise, once its wait is over, the status of the child queue (R262, R263). -/
def LaunchEnds (c : State) (q : State → Issue) (i : Instr) (va : W64) (own : Loc → List (Nat × Byte))
    (fin : State → Nat → State) (wait : State → LineData → State) (o : Out) : Prop :=
  (launchRefused c (q c) = true → o = .next (fin c 3)) ∧
  (launchRefused c (q c) = false → ∀ (u : State) (bs : List Byte) (raw : LineData), readRecord c (q c) i va 7 128 own = .ok u bs →
    raw = BitVec.ofNat 1024 (natLE bs) →
    (launchBad raw = true → o = .next (fin u 4)) ∧
    (launchBad raw = false → waitDone u (q c).who .dev (owned u (q c).who) = false → o = .next (wait u raw)) ∧
    (launchBad raw = false → waitDone u (q c).who .dev (owned u (q c).who) = true →
      ∀ z v, enqueue u (q u) raw = .done z v → o = .next (fin z v)))

/-- The commit of a member's arrival or pledge, counted at once when no tick has to pass; no other agent's packed atomic is half done in a
word that it adds to (R207, R280 to R282). -/
def Commits (c : State) (who : AgentRef) (team : Nat) (goal : MemberState) (fin : State → Nat → State) (wait : State → Nat → State) (o : Out) : Prop :=
  ∀ (j : Join) (m : Member) (i z : Nat) (u : State), memberOf c team = some (j, i, m) →
    m.state = .running ∨ (goal = .arrived ∧ m.state = .pledged) → waitDone c who .dev (owned c who) = true → j.busy = none →
    commitWaits c j.cell i = false →
    beginCommit c j.cell i goal = (u, z) → o = .next (if z = 0 then fin (countMember u j.cell) 0 else wait u z)

/-- What JWAIT at the object at va, whose place is l, gives issuer q: of a live join that has been released or has failed, F and the first
mask word; of an object that is not live, the F and the mask word that it holds when its STATE says released or failed, and otherwise the
canonical NaN and 0; the words that it reads in memory are seen as an acquire's (R289, R349, R357). -/
def JoinGives (c : State) (q : Issue) (i : Instr) (l : Loc) (va : W64) (u : State) (lo hi : W32) : Prop :=
  (∃ j, liveJoin c l = some j ∧ (j.state = .released ∨ j.state = .failed) ∧ u = c ∧ lo = j.f ∧ hi = (maskWord j 0).extractLsb' 0 32) ∨
  liveJoin c l = none ∧ ∃ y st, objectWord c q true (locPlus 0x40 l) = some (y, st) ∧
    ((st.toNat / 2 ^ 48 % 4 < 2 ∧ u = seeWords y q [va + 0x40] ∧ lo = 0x7FC00000#32 ∧ hi = 0#32) ∨
      2 ≤ st.toNat / 2 ^ 48 % 4 ∧ ∃ z f p r m, objectWord y q true (locPlus 0x50 l) = some (z, f) ∧
        objectAddr y q i (va + 0x80) 3 8 = .ok p ∧ objectWord z q true p = some (r, m) ∧
        u = seeWords r q [va + 0x40, va + 0x50, va + 0x80] ∧ lo = f.extractLsb' 0 32 ∧ hi = m.extractLsb' 0 32)

/-- What JQRY of a word of the object at va, whose place is l, gives issuer q: word 5 its own membership of the join there, bit 31
with the code of its state and its index, or 0; any other word as the live join has it, or as the object holds it (R289). -/
def JoinHas (c : State) (q : Issue) (l : Loc) (va : W64) (sel : BitVec 6) (u : State) (v : W64) : Prop :=
  (sel = 5#6 ∧ u = c ∧
    ((∃ j i m, memberOf c q.team = some (j, i, m) ∧ l = .dev j.cell ∧ v = BitVec.ofNat 64 (2 ^ 31 + 2 ^ 16 * memberCode m.state + i)) ∨
      (∀ j i m, memberOf c q.team = some (j, i, m) → l ≠ .dev j.cell) ∧ v = 0#64)) ∨
  (sel ≠ 5#6 ∧ ∃ j, liveJoin c l = some j ∧ u = c ∧ v = joinWord j true sel.toNat) ∨
  sel ≠ 5#6 ∧ liveJoin c l = none ∧ ∃ y, objectWord c q false (locPlus (0x40 + 8 * sel.toNat) l) = some (y, v) ∧
    u = seeWords y q [va + BitVec.ofNat 64 (0x40 + 8 * sel.toNat)]

/-- A fragment's op waits. -/
def waiting (s : State) (e : WarpEnv) (c : WaitFor) : State := onFrag s e.k e.f fun y => { y with state := .wait e.i c }

/-- A pair of registers written in every lane that takes part, and the fragment goes on. -/
def pairDone (s : State) (e : WarpEnv) (d : Reg) (lo hi : W32) : State :=
  warpEnd (setScore (writeLanes s e.k e.x.warp e.parts 1 fun _ => { regs := [(d, lo), (d + 1, hi)] }) e.k e.f [d, d + 1] [] 1) e

end Sys2Proof.Claims

/-- LAUNCH: the status that its record gets (R156, R259, R262); a record enters the child queue of the issuer's die while the queue has room
and no record of that die waits in the overflow ring, a record that finds no room gets status 2 under SPSTOP and waits for a full ring
otherwise; with spilling stopped and room in the queue it waits behind the die's spilled records (R263, R264). -/
def Sys2Proof.Claims.LaunchQueuesRecords : Prop :=
  (∀ (g : Guard) (d a : Reg) (s c : State) (k : CoreId) (f : FragId) (x : Frag) (w : Warp) (e : WarpEnv),
    LaneTakes s (.launch g d a) g k f x w → e = laneEnv s (.launch g d a) g k f x w → OnceClean e [a, a + 1] [d] → c = countedState s e →
    checkAccs c (warpIssue c e) (.launch g d a) .load 7 true [⟨leadLane e.parts, leadAddr e a, 128⟩] = none →
    LaunchEnds c (fun s => warpIssue s e) (.launch g d a) (leadAddr e a) (fun _ => []) (fun s v => warpStatus s e d v) (fun s raw => waiting s e (.launch raw))
      (exec (.launch g d a) s)) ∧
  (∀ (g : Guard) (d a : Reg) (s : State) (k : CoreId) (n : StrandId) (slot : Slot) (st cur : Strand) (e : StrandEnv) (close : BundleFx → BundleFx),
    SlotTakes s (.launch g d a) g k n slot st cur → e = slotEnv s (.launch g d a) k n slot st → close = (fun y => { y with close := true }) →
    checkAccs s (strandIssue s e) (.launch g d a) .load 7 true [⟨0, opA e a, 128⟩] = none →
    LaunchEnds s (fun _ => strandIssue s e) (.launch g d a) (opA e a) (fun l => queuedBytes s e l 128)
      (fun s v => markFx (pendAdd s e 1 (.sreg d (BitVec.ofNat 64 v))) e close)
      (fun s raw => markFx (holdStrand s e (.launch raw)) e close) (exec (.launch g d a) s)) ∧
  ∀ (s : State) (q : Issue) (raw : LineData) (cq : ChildQueue) (x : Ctx), childAt s (coreDie q.k) q.ctx = some cq → ctxAt s q.ctx = some x →
    (cq.recs.length < Config.childQueue → (∀ y ∈ x.spilled, y.die = coreDie q.k → y.back = true) → ∃ t cq', enqueue s q raw = .done t 0 ∧
      childAt t (coreDie q.k) q.ctx = some cq' ∧ cq'.recs.map (·.raw) = cq.recs.map (·.raw) ++ [raw] ∧ t.dev = s.dev) ∧
    (Config.childQueue ≤ cq.recs.length → x.spstop = true → enqueue s q raw = .done s 2) ∧
    ((∃ y ∈ x.spilled, y.die = coreDie q.k ∧ y.back = false) → cq.recs.length < Config.childQueue → x.spstop = true → enqueue s q raw = .fill) ∧
    (Config.childQueue ≤ cq.recs.length → x.spstop = false → 2 ^ x.ovlog ≤ x.spilled.length → enqueue s q raw = .full)

/-- NXT gives a strand the next coordinate set, 32 bundles later, in S56 to S59 in turn: a set to be replayed, one to be delivered again, or
the next of the grid's tile queue, and bit 63 alone when there is none (R265, R266). -/
def Sys2Proof.Claims.NxtDeliversSet : Prop :=
  ∀ (g : Guard) (sel : BitVec 16) (s : State) (k : CoreId) (n : StrandId) (slot : Slot) (st cur : Strand) (e : StrandEnv) (tm : Team) (gr : Grid)
    (set : Option Nat), SlotTakes s (.nxt g sel) g k n slot st cur → e = slotEnv s (.nxt g sel) k n slot st →
    teamAt s st.team = some tm → gridAt s tm.grid = some gr → gr ∈ s.grids →
    set = (if sel ≠ 0#16 then none else match st.replaySets, tm.again with
      | c :: _, _ => some c
      | [], c :: _ => some c
      | [], [] => if gr.tq < tileSets gr then some gr.tq else none) →
    ∃ t st', exec (.nxt g sel) s = .next t ∧ SameBytes s t ∧ strandAt (coreAt t k) n = some st' ∧ st'.nxt = cur.nxt + 1 ∧
      st'.pend = pendInsert (slotPend e 32 (.sreg (BitVec.ofNat 6 (56 + st.nxt.toNat))
        (match set with | some c => tileSet gr c | none => 0x8000000000000000#64))) cur.pend ∧
      (sel = 0#16 → st.replaySets = [] → tm.again = [] → gr.tq < tileSets gr → gridAt t tm.grid = some { gr with tq := gr.tq + 1 }) ∧
      (sel ≠ 0#16 → t.grids = s.grids)

/-- LAUNCH and NXT complete (R262 to R266). -/
def Obligations.LaunchAndNxtComplete : Prop := LaunchQueuesRecords ∧ NxtDeliversSet

/-- What JNEW comes to, by issuer q: a bad descriptor, weight or total weight gives status 4, a live join at the object's place 5, and too
many live joins on its die 1; otherwise the object is stored, seen by watchpoints and the sampler as a store, the core's L1 drops its
lines, and the op waits to register it (R271, R349, R357). -/
def Sys2Proof.Claims.JnewEnds (c : State) (q : Issue) (i : Instr) (obj dsc : W64) (fin : State → Nat → State) (wait : State → WaitFor → State)
    (o : Out) : Prop :=
  ∀ (cell0 cell n : Nat) (u v : State) (bs b : List Byte) (r : BitVec 512) (ws : List W32) (wt : W32), jnewCheck c q i obj dsc = none →
    objectPlace c q obj 128 = .ok cell0 → readRecord c q i dsc 6 64 (fun _ => []) = .ok u bs → r = BitVec.ofNat 512 (natLE bs) →
    (descBad r = true → o = .next (fin u 4)) ∧
    (descBad r = false →
      readWeights u q i (BitVec.ofNat 64 (descBits r 0x10 0 64)) (if joinTable r then joinN r else 0) = (.ok v b, ws) → wt = totalWeight r ws →
      ((∃ x ∈ ws, badWeight x = true) ∨ totalBad wt = true → o = .next (fin v 4)) ∧
      ((∀ x ∈ ws, badWeight x = false) → totalBad wt = false → n = 128 + 8 * ((joinN r + 63) / 64) → objectPlace v q obj n = .ok cell →
        ((joinAt v cell).isSome = true → o = .next (fin v 5)) ∧
        ((joinAt v cell).isSome = false → Config.liveJoins ≤ dieJoins v (dieOf cell) → o = .next (fin v 1)) ∧
        ((joinAt v cell).isSome = false → dieJoins v (dieOf cell) < Config.liveJoins →
          (∀ x ∈ owned v q.who, ∀ a, x.loc = .dev a → lineOf a ∉ linesOf cell n) →
          ∀ (j : Join) (x y z : State) (hit : Bool) (hy hz : Nat),
            observe v q .store ((linesOf cell n).map fun b => ⟨q.lane, obj + BitVec.ofNat 64 (128 * (b - lineOf cell)), 128, .dev (128 * b), 0⟩) =
              (x, hit) →
            j = { cell := cell, va := obj, ctx := q.ctx, desc := r, wt := wt, q := BitVec.ofNat 16 (joinQuorum r) } →
            storeJoin (if hit then noteWatch x q.who else x) j false = (y, hy) →
            homeStores y [(cell, bytesLE 64 r.toNat), (cell + 0x68, bytesLE 24 0)] = (z, hz) →
            o = .next (wait (dropL1 z q.k (linesOf cell n)) (.jnew cell obj r wt ws (max hy hz))))))

/-- JNEW completes with its status, or stores its object and waits to register the join (R271). -/
def Obligations.JnewStoresObject : Prop :=
  ∀ (g : Guard) (d a b : Reg) (i : Instr), i = .jnew g d a b →
    (∀ (s c : State) (k : CoreId) (f : FragId) (x : Frag) (w : Warp) (e : WarpEnv), LaneTakes s i g k f x w → e = laneEnv s i g k f x w →
      OnceClean e [a, a + 1, b, b + 1] [d] → c = countedState s e →
      JnewEnds c (warpIssue c e) i (leadAddr e a) (leadAddr e b) (fun s v => warpStatus s e d v) (fun s h => waiting s e h) (exec i s)) ∧
    ∀ (s : State) (k : CoreId) (n : StrandId) (slot : Slot) (st cur : Strand) (e : StrandEnv) (close : BundleFx → BundleFx),
      SlotTakes s i g k n slot st cur → e = slotEnv s i k n slot st → close = (fun y => { y with close := true }) →
      JnewEnds s (strandIssue s e) i (opA e a) (opB e b) (fun s v => markFx (pendAdd s e 1 (.sreg d (BitVec.ofNat 64 v))) e close)
        (fun s h => markFx (holdStrand s e h) e close) (exec i s)

/-- JARR and IRREV of a team: a team that is no member gets status 3, a member that has arrived status 2, and a member that runs commits
with its wait over; IRREV has no effect on any but a running member (R280, R281). -/
def Obligations.ArrivalsAndPledgesCommit : Prop :=
  (∀ (g : Guard) (d : Reg) (s c : State) (k : CoreId) (f : FragId) (x : Frag) (w : Warp) (e : WarpEnv),
    LaneTakes s (.jarr g d) g k f x w → e = laneEnv s (.jarr g d) g k f x w → OnceClean e [] [d] → w.kill = false → c = countedState s e →
    (memberOf c w.team = none → exec (.jarr g d) s = .next (warpStatus c e d 3)) ∧
    (∀ j i m, memberOf c w.team = some (j, i, m) → m.state = .arrived → j.busy = none → waitDone c (.frag k f) .dev (owned c (.frag k f)) = true →
      exec (.jarr g d) s = .next (warpStatus c e d 2)) ∧
    Commits c (.frag k f) w.team .arrived (fun s v => warpStatus s e d v) (fun s z => waiting s e (.arrive z)) (exec (.jarr g d) s)) ∧
  (∀ (g : Guard) (s c : State) (k : CoreId) (f : FragId) (x : Frag) (w : Warp) (e : WarpEnv),
    LaneTakes s (.irrev g) g k f x w → e = laneEnv s (.irrev g) g k f x w → w.kill = false → c = countedState s e →
    (memberOf c w.team = none → exec (.irrev g) s = .next (warpEnd c e)) ∧
    (∀ j i m, memberOf c w.team = some (j, i, m) → m.state = .pledged ∨ m.state = .arrived → exec (.irrev g) s = .next (warpEnd c e)) ∧
    Commits c (.frag k f) w.team .pledged (fun s _ => warpEnd s e) (fun s z => waiting s e (.arrive z)) (exec (.irrev g) s)) ∧
  (∀ (g : Guard) (d : Reg) (s c : State) (k : CoreId) (n : StrandId) (slot : Slot) (st cur : Strand) (e : StrandEnv) (fin : State → Nat → State),
    SlotTakes s (.jarr g d) g k n slot st cur → e = slotEnv s (.jarr g d) k n slot st → st.kill = false →
    c = strandDone s k n { cur with fx := { cur.fx with close := true, killPoint := true } } →
    fin = (fun s v => pendAdd s e 1 (.sreg d (BitVec.ofNat 64 v))) →
    (memberOf c st.team = none → exec (.jarr g d) s = .next (fin c 3)) ∧
    (∀ j i m, memberOf c st.team = some (j, i, m) → m.state = .arrived → j.busy = none → waitDone c (.strand k n) .dev (owned c (.strand k n)) = true →
      exec (.jarr g d) s = .next (fin c 2)) ∧
    Commits c (.strand k n) st.team .arrived fin (fun s z => holdStrand s e (.arrive z)) (exec (.jarr g d) s)) ∧
  ∀ (g : Guard) (s c : State) (k : CoreId) (n : StrandId) (slot : Slot) (st cur : Strand) (e : StrandEnv),
    SlotTakes s (.irrev g) g k n slot st cur → e = slotEnv s (.irrev g) k n slot st → st.kill = false →
    c = strandDone s k n { cur with fx := { cur.fx with close := true, killPoint := true } } →
    (memberOf c st.team = none → exec (.irrev g) s = .next c) ∧
    (∀ j i m, memberOf c st.team = some (j, i, m) → m.state = .pledged ∨ m.state = .arrived → exec (.irrev g) s = .next c) ∧
    Commits c (.strand k n) st.team .pledged (fun s _ => s) (fun s z => holdStrand s e (.arrive z)) (exec (.irrev g) s)

/-- JWAIT at a live join that has been released or has failed gives F and the first mask word, and waits at one that has not; at an object
that is not live, the result is the stored F and mask word, or the canonical NaN and 0 in an object of no such state. JQRY gives a snapshot
of a word of the object (R276, R289; that an address of a shared window names no live join, and gives the result of no join, is log entry
20). -/
def Obligations.JoinReadsComplete : Prop :=
  (∀ (g : Guard) (d a : Reg) (i : Instr), i = .jwait g d a →
    (∀ (s c : State) (k : CoreId) (f : FragId) (x : Frag) (w : Warp) (e : WarpEnv) (l : Loc), LaneTakes s i g k f x w → e = laneEnv s i g k f x w →
      OnceClean e [a, a + 1] [d, d + 1] → c = countedState s e → joinAddr c (warpIssue c e) i (leadAddr e a) = .ok l →
      (∀ u lo hi, JoinGives c (warpIssue c e) i l (leadAddr e a) u lo hi → exec i s = .next (pairDone u e d lo hi)) ∧
      (∀ j, liveJoin c l = some j → j.state ≠ .released → j.state ≠ .failed → w.kill = false →
        exec i s = .next (waiting c e (.jwait (locCell l) (leadAddr e a))))) ∧
    ∀ (s : State) (k : CoreId) (n : StrandId) (slot : Slot) (st cur : Strand) (e : StrandEnv) (l : Loc), SlotTakes s i g k n slot st cur →
      e = slotEnv s i k n slot st → joinAddr s (strandIssue s e) i (opA e a) = .ok l →
      (∀ u lo hi, JoinGives s (strandIssue s e) i l (opA e a) u lo hi → exec i s = .next (pendAdd u e 1 (.sreg d (hi ++ lo)))) ∧
      (∀ j, liveJoin s l = some j → j.state ≠ .released → j.state ≠ .failed → exec i s = .next (slotStall s k n (.jwait (opA e a))))) ∧
  ∀ (g : Guard) (d a : Reg) (sel : BitVec 6) (i : Instr), i = .jqry g d a sel →
    (∀ (s c u : State) (k : CoreId) (f : FragId) (x : Frag) (w : Warp) (e : WarpEnv) (l : Loc) (v : W64), LaneTakes s i g k f x w →
      e = laneEnv s i g k f x w → OnceClean e [a, a + 1] [d, d + 1] → c = countedState s e → joinAddr c (warpIssue c e) i (leadAddr e a) = .ok l →
      JoinHas c (warpIssue c e) l (leadAddr e a) sel u v → exec i s = .next (pairDone u e d (v.extractLsb' 0 32) (v.extractLsb' 32 32))) ∧
    ∀ (s u : State) (k : CoreId) (n : StrandId) (slot : Slot) (st cur : Strand) (e : StrandEnv) (l : Loc) (v : W64), SlotTakes s i g k n slot st cur →
      e = slotEnv s i k n slot st → joinAddr s (strandIssue s e) i (opA e a) = .ok l → JoinHas s (strandIssue s e) l (opA e a) sel u v →
      exec i s = .next (pendAdd u e 1 (.sreg d v))

/-- MHOME gives each lane the die of its address's page, or all ones where the page has no one home die (R370). MIGR to the die that the
warp is on gives a true predicate; of a protected team, a false one; and otherwise the warp waits for its accesses, and then for a landing
slot (R371 to R373). -/
def Obligations.MigrAndMhomeComplete : Prop :=
  (∀ (g : Guard) (d a : Reg) (s c : State) (k : CoreId) (f : FragId) (x : Frag) (w : Warp) (e : WarpEnv) (pte : Lane → W64),
    LaneTakes s (.mhome g d a) g k f x w → e = laneEnv s (.mhome g d a) g k f x w → LaneClean e [a, a + 1] [d] → c = countedState s e →
    (∀ l, laneIn e.parts l = true → (laneAddr e a 0 l).toNat / 2 ^ 52 = 0 ∧
      leafEntry c k (teamCtx s w.team) (laneAddr e a 0 l).toNat = some (pte l)) →
    exec (.mhome g d a) s = .next (warpEnd (setScore (writeLanes
      ((accesses e a 0 1).foldl (fun s x => noteWalk s k (teamCtx c w.team) x.va.toNat) c) k x.warp e.parts 1 fun l =>
        { regs := [(d, match entryDie (pte l) with | some t => BitVec.ofNat 32 t.val | none => 0xFFFFFFFF#32)] }) k f [d] [] 1) e)) ∧
  ∀ (g : Guard) (pd : Pred) (a : Reg) (i : Instr) (s c : State) (k : CoreId) (f : FragId) (x : Frag) (w : Warp) (e : WarpEnv) (dd : DieId) (gr : Grid),
    i = .migr g pd a → LaneTakes s i g k f x w → e = laneEnv s i g k f x w → OnceClean e [a, a + 1] [] → c = countedState s e →
    w.kill = false → (leadAddr e a).toNat / 2 ^ 52 = 0 → memberRunning c w.team = false → teamGrid c w.team = some gr →
    migrTarget c k (teamCtx c w.team) w (leadAddr e a).toNat = some dd →
    (dd = coreDie k ∨ teamProt gr = true → ∃ t y w', exec i s = .next t ∧ SameBytes s t ∧ fragAt (coreAt t k) f = some y ∧ y.state = .ready ∧
      y.pc = x.pc + 4 ∧ warpAt (coreAt t k) x.warp = some w' ∧
      ∀ l, laneIn e.parts l = true → predGet w'.lanes[l].p pd = (pd == 0#3 || decide (dd = coreDie k))) ∧
    (dd ≠ coreDie k → teamProt gr = false → ∀ u, u = noteWalk c k (teamCtx c w.team) (leadAddr e a).toNat →
      migrBlocked u k f x.warp w.team = 0#64 →
      exec i s = .next (waiting u e (if migrQuiet u k x.warp then .landing dd s.tick else .release .dev)))

/-! ## The ends of waits -/

namespace Sys2Proof.Claims

/-- NULLIFIER_SKIP: a bundle of a running strand whose every slot is NOP, or guarded off with nothing pending, is passed over: no result is
made, and the bundle clock and the loop step go on (R31, R32, R98). -/
def NullBundlesAreSkipped : Prop :=
  ∀ (s u v : State) (k : CoreId) (n : StrandId) (x : Strand) (bs : List Byte),
    u = landDue s k n → strandAt (coreAt u k) n = some x → strandRuns u k n x = true → x.rewinding = false →
    x.fx = {} → x.back = .ready → x.done = 0#8 →
    x.replay = Vector.replicate 8 none → x.step = false → x.stepAll = false → x.kill = false → x.haltReq = none →
    fetchCode u k x.team x.pc 32 32 1 0 = .ok v bs →
    (∀ m, slotOp bs m = .ext ∨ ∃ i, slotOp bs m = .op i ∧ (isNop i = true ∨ (guardless i = false ∧ guardQuiet x (guardOf i) = true))) →
    earlierWaits v k n x bs = false → breakBundle v (teamCtx v x.team) x.pc = none →
    ∃ t y, exec (.nullifierSkip k n) s = .next t ∧ SameBytes s t ∧ strandAt (coreAt t k) n = some y ∧ y.state = .ready ∧
      y.clock = x.clock + 1 ∧ y.loops = (loopEnd x.pc x.loops).1 ∧ y.pc = (loopEnd x.pc x.loops).2.getD (x.pc + 32) ∧
      y.s = x.s ∧ y.p = x.p ∧ y.twb = x.twb ∧ y.mxcfg = x.mxcfg ∧ y.pend = x.pend

/-- RESULT_LANDING: the results that are due and have arrived land and leave the pending list; one for an S register is its value (R18, R19,
R23). -/
def DueResultsLand : Prop :=
  ∀ (s : State) (k : CoreId) (n : StrandId) (x : Strand) (p : Pend), strandAt (coreAt s k) n = some x → p ∈ x.pend →
    landsNow x (coreAt s k).cycle p = true →
    (∃ t y, exec (.resultLanding k n) s = .next t ∧ SameBytes s t ∧ strandAt (coreAt t k) n = some y ∧ y.pc = x.pc ∧ y.clock = x.clock ∧
      y.pend = x.pend.filter fun q => !landsNow x (coreAt s k).cycle q) ∧
    ∀ r v, x.pend = [p] → p.dst = .sreg r v → exec (.resultLanding k n) s = .next (strandDone s k n
      { x with pend := [], s := x.s.set r.toFin v, poison := x.poison &&& ~~~(1#64 <<< r.toNat) })

/-- UNIT_STALL_END: a bundle that waited for a unit waits no longer once the unit is free (R21, R148). -/
def UnitStallsEnd : Prop :=
  ∀ (s : State) (k : CoreId) (n : StrandId) (x : Strand) (m : Slot), strandAt (coreAt s k) n = some x → x.stall = some (.unit m) →
    (coreAt s k).unitFree[(Fin.ofNat 4 (m.val - 2))] ≤ (coreAt s k).cycle →
    exec (.unitStallEnd k n) s = .next (strandDone s k n { x with stall := none })

/-- RDV_RELEASE: a strand at a rendezvous goes on when no partner behind it is left, and is behind no more (R313). -/
def RendezvousReleases : Prop :=
  ∀ (s : State) (k : CoreId) (n : StrandId) (x : Strand) (m : BitVec 16), strandAt (coreAt s k) n = some x → x.state = .rdv m [] →
    ∃ t, exec (.rdvRelease k n) s = .next t ∧ SameBytes s t ∧ strandAt (coreAt t k) n = some { x with state := .ready, behind := false }

/-- ILLOP: a word that is not an instruction traps: a fragment is counted and goes to its handler, and a strand's slot is noted (R64,
R298 to R300, R306). -/
def BadWordsTrap : Prop :=
  (∀ (b : W32) (s : State) (k : CoreId) (f : FragId) (x : Frag) (w : Warp), FragIssues s k f x w → x.flag = false →
    (atCycle w).tbase ≠ 0#64 →
    ∃ w', exec (.illop b) s = .next (fragDone s (laneEnv s (.illop b) always k f x w)
        { x with num := w.wisn, state := .ready, flag := true, resume := false,
                 pc := (atCycle w).tbase + BitVec.ofNat 64 (64 * classCode .illop),
                 trap := { cause := 0#8 ++ 0#16 ++ BitVec.ofNat 8 (classCode .illop), pc := tpcOf x.pc, addr := 0, synd := 0#32 ++ b,
                           unit := 8, coord := 0, townf := 0 } } w') ∧
      (∀ l, if laneIn x.mask l then Banked w.lanes[l] w'.lanes[l] else w'.lanes[l] = w.lanes[l]) ∧
      { w' with lanes := w.lanes } = countedWarp w) ∧
  ∀ (b : W32) (s : State) (k : CoreId) (n : StrandId) (slot : Slot) (st cur : Strand), SlotIssues s k n slot st cur →
    exec (.illop b) s = .next (strandDone s k n { cur with fx := { cur.fx with faults := cur.fx.faults ++ [(slot, trapIllop b slot.val)] } })

/-- FRAGX_TIMEOUT: a fragment that has waited 4096 cycles for an entry traps; INSTRUCTION_FETCH_ARRIVAL: a fragment's next op has come
(R137, R298, R353). -/
def FragmentWaitsEnd : Prop :=
  (∀ (s : State) (k : CoreId) (f : FragId) (x : Frag) (w : Warp) (since groups : Nat), fragAt (coreAt s k) f = some x →
    warpAt (coreAt s k) x.warp = some w → x.state = .fragw since groups → since + 4096 ≤ (coreAt s k).cycle → x.flag = false →
    (atCycle w).tbase ≠ 0#64 →
    ∃ t y, exec (.fragxTimeout k f) s = .next t ∧ SameBytes s t ∧ fragAt (coreAt t k) f = some y ∧ y.flag = true ∧ y.state = .ready ∧
      y.mask = x.mask ∧ y.pc = (atCycle w).tbase + BitVec.ofNat 64 (64 * classCode .fragx) ∧ y.trap.pc = tpcOf x.pc ∧
      y.trap.synd = BitVec.ofNat 64 (groups % 16 + 2 ^ 8 * ((liveFrags (coreAt s k) x.warp).length % 16))) ∧
  ∀ (s : State) (k : CoreId) (f : FragId) (x : Frag), fragAt (coreAt s k) f = some x → x.fetched = false →
    exec (.instructionFetchArrival k f) s = .next (setCore s k (setFrag (coreAt s k) f (some { x with fetched := true })))

/-- The environment of a fragment's waiting op, at the end of the wait (R226). -/
def waitEnv (s : State) (i : Instr) (g : Guard) (k : CoreId) (f : FragId) (x : Frag) (w : Warp) : WarpEnv :=
  { laneEnv s i g k f x w with w := { w with wisn := x.num } }

/-- No TSEL of the warp has issued since the fragment's waiting op did, so the op still sees the selection that it issued under (R183). -/
def SameSel (w : Warp) (f : FragId) : Prop := ∀ p ∈ w.sels, p.1 ≠ f

/-- RELEASE_SEND: once the wait is over a fragment's release store is performed, and a strand's is sent; and a strand's JNEW registers its
join, OPEN and empty, with status 0 (R198, R227, R271). -/
def ReleasesAreSent : Prop :=
  (∀ (i : Instr) (r : LoadRow) (s : State) (k : CoreId) (f : FragId) (x : Frag) (w : Warp) (e : WarpEnv) (as : List Acc) (sc : Scope),
    storeRow i = some r → fragAt (coreAt s k) f = some x → x.state = .wait i (.release sc) → warpAt (coreAt s k) x.warp = some w →
    SameSel w f →
    e = waitEnv s i r.g k f x w → as = accesses e r.a r.off (2 ^ logWidth r.w) → LaneClean e ([r.a, r.a + 1] ++ valueRegs r.d r.w) [] →
    AccsPass s (warpIssue s e) i .store (logWidth r.w) false as → (∀ a, a ∈ as → a.va ≠ kickAddr) →
    (r.ord = .sync → waitDone s (.frag k f) r.sc (owned s (.frag k f)) = true) →
    exec (.releaseSend (.frag k f)) s = .next (memDone s e .store as (sendAll fun s p cost => newReq s (warpIssue s e)
      { loc := p.loc, len := 2 ^ logWidth r.w, op := .store (storeBytes e p.lane r.d r.w), lease := p.lease, cost := cost, va := p.va,
        lanes := 1#32 <<< p.lane.val, isRel := r.ord == .sync }))) ∧
  (∀ (s : State) (k : CoreId) (n : StrandId) (x : Strand) (r : Req) (before : List Req) (sc : Scope) (data : List Byte),
    strandAt (coreAt s k) n = some x → x.holds = [] →
    firstWait s (.strand k n) (fun r => match r.op with | .fence .. => false | _ => true) = some (r, before) →
    r.rel = some sc → r.op = .store data → waitDone s (.strand k n) sc before = true →
    exec (.releaseSend (.strand k n)) s = .next (trySend (modReq s r.id fun y => { y with rel := none }) r.id)) ∧
  ∀ (s : State) (k : CoreId) (n : StrandId) (x : Strand) (h : Hold) (g : Guard) (d a b : Reg) (cell after : Nat) (va : W64) (desc : BitVec 512)
    (wt : W32) (ws : List W32),
    strandAt (coreAt s k) n = some x → x.holds = [h] → h.i = .jnew g d a b → h.cond = .jnew cell va desc wt ws after →
    marksQuiet s h.mark = true → after < s.tick → joinAt s cell = none →
    dieJoins s (dieOf cell) < Config.liveJoins →
    ∃ t y j, exec (.releaseSend (.strand k n)) s = .next t ∧ strandAt (coreAt t k) n = some y ∧ y.holds = [] ∧ y.s[d.toFin] = 0#64 ∧
      joinAt t cell = some j ∧ j.va = va ∧ j.desc = desc ∧ j.wt = wt ∧ j.state = .opened ∧ j.members = []

/-- FENCE_COMPLETE: a fence whose wait is over removes translations when it is a TFENCE, acquires, and ends (R198, R213, R235). -/
def FencesEnd : Prop :=
  (∀ (s : State) (k : CoreId) (f : FragId) (x : Frag) (w : Warp) (i : Instr) (sc : Scope) (tlb : Bool), fragAt (coreAt s k) f = some x →
    warpAt (coreAt s k) x.warp = some w → x.state = .wait i (.fence sc tlb) →
    waitDone s (.frag k f) (if tlb = true ∧ sc ≠ .sys then .dev else sc) (owned s (.frag k f)) = true →
    exec (.fenceComplete (.frag k f)) s = .next (onFrag
      (acquireCore (if tlb then tlbRemove s k (teamCtx s w.team) sc else s) (.frag k f)) k f fun y =>
        { y with state := .ready, pc := y.pc + 4 })) ∧
  ∀ (s : State) (k : CoreId) (n : StrandId) (r : Req) (before : List Req) (sc : Scope) (tlb : Bool),
    firstWait s (.strand k n) (fun r => match r.op with | .fence .. => true | _ => false) = some (r, before) → r.op = .fence sc tlb →
    waitDone s (.strand k n) (if tlb = true ∧ sc ≠ .sys then .dev else sc) before = true →
    exec (.fenceComplete (.strand k n)) s = .next (endReq
      (acquireCore (if tlb then tlbRemove s k r.ctx sc else s) (.strand k n)) r.id)

/-! ## Homes, replies, tokens and peers -/

/-- A memory after some bytes have been written. -/
def Wrote (m m' : Memory) (a : Nat) (bs : List Byte) : Prop :=
  ∀ x, memRead m' x = if a ≤ x ∧ x < a + bs.length then bs.getD (x - a) 0 else memRead m x

/-- A request that may be performed at its home now: nothing earlier holds it back, nothing refuses it, and no provisional view is held. -/
structure Performs (s : State) (r : Nat) (q : Req) : Prop where
  here : reqAt s r = some q
  can : canPerform s q = true
  open_ : refused s q = false
  plain : heldTag s q.team = none

/-- A request's reply has come. -/
def Replied (t : State) (r : Nat) (bs : List Byte) (bad : Bool) : Prop := ∃ q, reqAt t r = some q ∧ q.reply = some (bs, bad)

/-- HOME_FILL: a load reads its bytes at their home, with the line's poison; a fill that the L1 keeps is granted a lease from now (R192,
R195, R304). A load of host memory reads host memory. -/
def HomesAnswerLoads : Prop :=
  ∀ (s : State) (r : Nat) (q : Req) (keep acq : Bool) (d : Dest), Performs s r q → q.op = .load keep acq d →
    (∀ c, q.loc = .dev c → ∃ t, exec (.homeFill r) s = .next t ∧ t.dev = s.dev ∧ t.host = s.host ∧
      Replied t r (devBytes s c q.len) ((linesOf c q.len).any (linePoison s)) ∧
      lineExpiry t (lineOf c) = if keep then max (lineExpiry s (lineOf c)) (s.tick + q.lease) else lineExpiry s (lineOf c)) ∧
    (∀ a, q.loc = .host a → ∃ t, exec (.homeFill r) s = .next t ∧ t.dev = s.dev ∧ t.host = s.host ∧ Replied t r (memBytes s.host a q.len) false)

/-- HOME_WRITE: a store writes its bytes, and no others, at their home; its completion tick is one past the line's expiry and past now, and
its team's writes are not complete before (R196, R198, R260). -/
def HomesPerformStores : Prop :=
  ∀ (s : State) (r : Nat) (q : Req) (data : List Byte), s.memOk → Performs s r q → q.op = .store data → q.bad = false →
    (∀ c, q.loc = .dev c → ∃ t, exec (.homeWrite r) s = .next t ∧ Wrote s.dev t.dev c data ∧ t.host = s.host ∧ reqAt t r = none ∧
      ∀ tm ∈ t.teams, tm.id = q.team → max (lineExpiry s (lineOf c)) s.tick + 1 ≤ tm.hz) ∧
    (∀ a, q.loc = .host a → ∃ t, exec (.homeWrite r) s = .next t ∧ Wrote s.host t.host a data ∧ t.dev = s.dev ∧ reqAt t r = none)

/-- HOME_ATOMIC: the old value is returned, and the new one is written; a packed atomic performs its low half and then its high half, and a
compare-and-swap writes when the old value equals its comparand (R205 to R208, R230, R234). -/
def HomesPerformAtomics : Prop :=
  ∀ (s : State) (r c : Nat) (q : Req) (old : List Byte), s.memOk → Performs s r q → q.loc = .dev c → old = devBytes s c q.len →
    (∀ op v parts rets, q.op = .atomic op v parts rets → isPacked op = false →
      ∃ t, exec (.homeAtomic r) s = .next t ∧
        Wrote s.dev t.dev c (bytesLE q.len (atomNew op (BitVec.ofNat 64 (natLE old)) v parts).toNat) ∧ t.host = s.host ∧
        if rets = [] then reqAt t r = none else Replied t r old (linePoison s (lineOf c))) ∧
    (∀ w64 cmp new d, q.op = .cas w64 cmp new d → ∃ t, exec (.homeAtomic r) s = .next t ∧
      (if BitVec.ofNat 64 (natLE old) = cmp then Wrote s.dev t.dev c (bytesLE q.len new.toNat) else t.dev = s.dev) ∧ t.host = s.host ∧
      Replied t r old (linePoison s (lineOf c))) ∧
    (∀ op v parts rets, q.op = .atomic op v parts rets → isPacked op = true → q.half = none → ∃ t q', exec (.homeAtomic r) s = .next t ∧
      Wrote s.dev t.dev c (bytesLE q.len (lowHalf op (BitVec.ofNat 32 (natLE old)) parts).toNat) ∧ t.host = s.host ∧
      reqAt t r = some q' ∧ q'.half = some (BitVec.ofNat 32 (natLE old)) ∧ q'.reply = none) ∧
    (∀ op v parts rets lo, q.op = .atomic op v parts rets → isPacked op = true → q.half = some lo → ∃ t, exec (.homeAtomic r) s = .next t ∧
      Wrote s.dev t.dev c (bytesLE q.len (highHalf op (BitVec.ofNat 32 (natLE old)) parts).toNat) ∧ t.host = s.host ∧
      if rets = [] then reqAt t r = none
      else Replied t r (bytesLE 4 ((BitVec.ofNat 32 (natLE old)).extractLsb' 16 16 ++ lo.extractLsb' 0 16 : W32).toNat)
        (linePoison s (lineOf c)))

/-- A loaded value, extended by its sign or with zeros (R220). -/
def loadedValue (w : Width) (sx : Bool) (bs : List Byte) : BitVec 128 :=
  match w with
  | .b8 => if sx then (BitVec.ofNat 8 (natLE bs)).signExtend 128 else (BitVec.ofNat 8 (natLE bs)).zeroExtend 128
  | .b16 => if sx then (BitVec.ofNat 16 (natLE bs)).signExtend 128 else (BitVec.ofNat 16 (natLE bs)).zeroExtend 128
  | .b32 => if sx then (BitVec.ofNat 32 (natLE bs)).signExtend 128 else (BitVec.ofNat 32 (natLE bs)).zeroExtend 128
  | .b64 => (BitVec.ofNat 64 (natLE bs)).zeroExtend 128
  | .b128 => BitVec.ofNat 128 (natLE bs)

/-- LOAD_REPLY: the value of a returned load lands in its lane's registers, or in its S register, and the request is over (R22, R162, R220,
R225). -/
def RepliesComeBack : Prop :=
  ∀ (s : State) (r : Nat) (q : Req) (bs : List Byte) (keep : Bool), reqAt s r = some q → q.held = false → q.group = 0 → q.ovr = [] →
    q.seen = [] → q.reply = some (bs, false) → (∀ x ∈ s.reqs, r ∉ x.after) → (∀ x ∈ s.reqs, landsBefore x q = false) →
    (∀ k ix x l d w sx, q.op = .load keep false (.lane l d w sx) → q.place = some (k, ix) → warpAt (coreAt s k) ix = some x →
      ∃ lane : LaneRegs, exec (.loadReply r) s =
          .next (dropReq (setCore s k (setWarp (coreAt s k) ix (some { x with lanes := x.lanes.set l lane }))) r) ∧
        lane.p = x.lanes[l].p ∧ lane.bankV = x.lanes[l].bankV ∧ lane.bankP = x.lanes[l].bankP ∧
        ∀ m : Fin 48, lane.v[m] = if d.toNat ≤ m.val ∧ m.val < d.toNat + (valueRegs d w).length
          then (loadedValue w sx bs).extractLsb' (32 * (m.val - d.toNat)) 32 else x.lanes[l].v[m]) ∧
    (∀ k n x d w sx, w ≠ Width.b128 → q.op = .load keep false (.sreg d w sx) → q.who = .strand k n → strandAt (coreAt s k) n = some x →
      x.pend = [] → exec (.loadReply r) s = .next (dropReq (strandDone s k n
        { x with s := x.s.set d.toFin ((loadedValue w sx bs).extractLsb' 0 64), poison := x.poison &&& ~~~(1#64 <<< d.toNat) }) r))

/-- LINE_EVICTION: a slice may drop a line that is neither pending nor poisoned; its floor then holds the line's expiry, and the expiry of no
line goes down (R195). -/
def EvictionsKeepExpiries : Prop :=
  ∀ (s : State) (line : Nat) (x : HomeLine), homeLine s line = some x → ∃ t, exec (.lineEviction line) s = .next t ∧ t.dev = s.dev ∧
    t.floors[sliceOf (128 * line)] = max s.floors[sliceOf (128 * line)] x.e ∧ (∀ l, lineExpiry s l ≤ lineExpiry t l) ∧
    (x.pend = [] → x.poison = false → homeLine t line = none)

/-- PAGE_WALK: a walk that reaches a leaf puts its entry where the core finds it, and any other changes nothing (R211, R212). -/
def WalksFillTlbs : Prop :=
  ∀ (s : State) (k : CoreId) (c : CtxId) (va : W64) (x : Ctx), ctxAt s c = some x → va.toNat / 2 ^ 52 = 0 →
    (∀ en, tlbLookup s k c va.toNat = some en → exec (.pageWalk k c va) s = .next s) ∧
    (tlbLookup s k c va.toNat = none → ∀ pte size, walk s x va.toNat = .leaf pte size → ∃ t en, exec (.pageWalk k c va) s = .next t ∧
      SameBytes s t ∧ tlbLookup t k c va.toNat = some en ∧ en.pte = pte) ∧
    (tlbLookup s k c va.toNat = none → (∀ pte size, walk s x va.toNat ≠ .leaf pte size) → exec (.pageWalk k c va) s = .next s)

/-- TOKEN_REFILL: every bucket of every context gains its rate, up to its size, as the words of its record say, or as they were last read while a word's line
is pending (R193); TOKEN_SEND: a held request
takes its tokens and is sent when no earlier one of its core waits to be sent (R197, R366, R367). -/
def TokensMeterRequests : Prop :=
  (∀ s : State, ∃ t, exec .tokenRefill s = .next t ∧ t = { s with ctxs := t.ctxs } ∧ ∀ c,
    match ctxAt s c with
    | none => ctxAt t c = none
    | some x => ∃ y, ctxAt t c = some y ∧ y.record = x.record ∧ ∀ (d : DieId) (i : Fin 3) (word : W64),
      word = (if linePending s (lineOf (pkgCell (x.record + 0x28 + 8 * i.val))) then x.buckets[i]
        else BitVec.ofNat 64 (devNat s (pkgCell (x.record + 0x28 + 8 * i.val)) 8)) → y.buckets[i] = word ∧
        y.levels[d][i] = min (256 * (word.extractLsb' 24 24).toNat) (x.levels[d][i] + (word.extractLsb' 0 24).toNat)) ∧
  ∀ (s : State) (r : Nat) (q : Req) (x : Ctx) (level : Nat), reqAt s r = some q → q.held = true → q.rel = none → q.after = [] → q.op ≠ .kick →
    (∀ y ∈ s.reqs.takeWhile fun y => y.id != r, y.core = q.core → y.held = false ∨ y.rel ≠ none ∨ y.after ≠ []) →
    ctxAt s q.ctx = some x → isRemote q.core q.loc = true → bucketSize s q.ctx (tokenClass q.op) ≠ 0 →
    level = x.levels[coreDie q.core][tokenClass q.op] → 256 * q.cost ≤ level →
    ∀ ls, ls = x.levels.set (coreDie q.core) (x.levels[coreDie q.core].set (tokenClass q.op) (level - 256 * q.cost)) →
    exec (.tokenSend r) s = .next (sendReq (setCtx s q.ctx (some { x with levels := ls })) r)

/-- PEER_REFUSAL: a refused read returns poison (R368). PEER_INBOUND_REQUEST: a peer's access under the grants is performed at its home, and
one outside them is not (R231, R368, R369). -/
def PeersAnswer : Prop :=
  (∀ (s : State) (d : DieId) (r a : Nat) (p : Fin 8) (q : Req), reqAt s r = some q → q.loc = .peer p a → q.held = false → q.reply = none →
    d.val = p.val / 2 → returnsValue q = true → ∃ t q' bs, exec (.peerRefusal d r) s = .next t ∧ reqAt t r = some q' ∧ q'.reply = some (bs, true)) ∧
  ∀ (s : State) (port : Fin 8) (c : CtxId) (cell : Nat), s.memOk → cell < 8 * Config.stackBytes →
    (∀ what, granted s c cell = false → exec (.peerInboundRequest port c cell what) s = .next s) ∧
    (granted s c cell = true →
      (∀ n, linePending s (lineOf cell) = false → exec (.peerInboundRequest port c cell (.load n)) s = .next s) ∧
      (∀ data, ∃ t, exec (.peerInboundRequest port c cell (.store data)) s = .next t ∧ Wrote s.dev t.dev cell data ∧ t.host = s.host) ∧
      (∀ op v, linePending s (lineOf cell) = false → (∀ a ∈ s.reqs, a.half = none) →
        ∃ t, exec (.peerInboundRequest port c cell (.atomic op v)) s = .next t ∧
        Wrote s.dev t.dev cell (bytesLE (atomLen op)
          (atomNew op (BitVec.ofNat 64 (devNat s cell (atomLen op))) v (laneParts op v)).toNat)) ∧
      (∀ w64 cmp new, linePending s (lineOf cell) = false → (∀ a ∈ s.reqs, a.half = none) →
        ∃ t, exec (.peerInboundRequest port c cell (.cas w64 cmp new)) s = .next t ∧
        if BitVec.ofNat 64 (devNat s cell (if w64 then 8 else 4)) = cmp
        then Wrote s.dev t.dev cell (bytesLE (if w64 then 8 else 4) new.toNat) else t = s))

end Sys2Proof.Claims

/-! ## Copies, and the wakes of waiting agents -/

namespace Sys2Proof.Claims

/-- COPY_ACCEPT: the request at the head of the queue has the next line of its indices read; with all of them read it leaves the queue and is
accepted, with its device lines marked; one that breaks R241 is abandoned. All this while nothing of the engine waits for tokens (R241, R243,
R245, R367). That the indices are read line by line before the acceptance is log entry 37. -/
def CopiesAreAccepted : Prop :=
  ∀ (s : State) (k : CoreId) (q : CopyReq) (rest : List CopyReq), (coreAt s k).copyQ = q :: rest →
    engineStarved s k none = false → (∀ f x i, fragAt (coreAt s k) f = some x → x.state ≠ .wait i .copyQueue) →
    (∀ r ∈ s.reqs, q.id ∉ r.after ∧ (r.core = k → r.op = .kick → r.held = false)) →
    (copyBad s q = false → q.idx.length < copyIndices q → ∀ u q', readIndices s k q = .ok (u, q') →
      exec (.copyAccept k) s = .next (modCore u k fun c => { c with copyQ := q' :: rest })) ∧
    (copyBad s q = false → copyIndices q ≤ q.idx.length → ∀ ls, allLines s k q = .ok ls →
      ∃ t c, exec (.copyAccept k) s = .next t ∧ (coreAt t k).copyQ = rest ∧ (coreAt t k).copies = (coreAt s k).copies ++ [c] ∧ c.req = q ∧
        c.elem = 0 ∧ c.off = 0 ∧ c.moved = false ∧ c.written = 0 ∧ t.dev = s.dev ∧
        ∀ a n, (Loc.dev a, n) ∈ ls → linePending t (lineOf a) = true) ∧
    (copyBad s q = true → ∃ t, exec (.copyAccept k) s = .next t ∧ (coreAt t k).copyQ = rest ∧
      (coreAt t k).copies = (coreAt s k).copies)

/-- ARRIVAL_WORD_UPDATE: the bytes written since the last update leave the arrival word (R244). -/
def ArrivalWordsCount : Prop :=
  ∀ (s : State) (k : CoreId) (c aw : Nat) (x : Copy), s.memOk → copyAt s k c = some x → aw = reqField x.req 0x28 0 32 → aw ≠ 0xFFFFFFFF →
    x.written ≠ x.counted → x.moved = false → copyReady s x = true → (seatAt (coreAt s k) x.req.team).isSome = true →
    ∃ t, exec (.arrivalWordUpdate k c) s = .next t ∧ t.dev = s.dev ∧
      Wrote (sharedMem s k x.req.team) (sharedMem t k x.req.team) aw
        (bytesLE 4 (BitVec.ofNat 32 (natLE (sharedBytes s k x.req.team aw 4)) - BitVec.ofNat 32 (x.written - x.counted)).toNat)

/-- PRESENCE_SET: every shared line that has got its last byte of the request becomes present; COMMIT_ON_ARRIVAL: the request's ring slot is
committed after all of its bytes. Each publishes what the engine has inherited, and the copy then settles (R203, R243, R244, R253). -/
def CopiesComplete : Prop :=
  ∀ (s : State) (k : CoreId) (c : Nat) (x : Copy), copyAt s k c = some x → copyReady s x = true →
    (∀ full, full = (x.lines.filter fun l => l.2.2 = 0) → full ≠ [] → exec (.presenceSet k c) s = .next (copySettle (modCopy
      (full.foldl (fun s l => publishMore (setPresence s l.1 x.req.team [l.2.1] true) (.shared l.1 x.req.team (128 * l.2.1)) 128 x.req.mark) s)
        k c fun y => { y with lines := y.lines.filter fun l => l.2.2 ≠ 0 }) k c)) ∧
    (∀ r, copyWritten s k x = true → x.committed = false → reqField x.req 0x28 32 32 ≠ 0xFFFFFFFF →
      ringAt s k x.req.team (reqField x.req 0x28 32 32) = some r → slotAcquired s r (reqField x.req 0x30 8 8) = true →
      exec (.commitOnArrival k c) s = .next (copySettle (modCopy
        (publishMore (commitSlot s r (reqField x.req 0x30 8 8)) (cmapPlace r (reqField x.req 0x30 8 8)) 1 x.req.mark) k c fun y =>
          { y with committed := true }) k c))

/-- AWAIT_WAKE: an AWAIT goes on when its word is zero or negative, as an acquire (R247). -/
def AwaitsWake : Prop :=
  (∀ (s : State) (k k' : CoreId) (f : FragId) (x : Frag) (w : Warp) (g : Guard) (a : Reg) (l : Loc) (e : WarpEnv) (off : Nat) (v : W32),
    fragAt (coreAt s k) f = some x → warpAt (coreAt s k) x.warp = some w → SameSel w f → x.state = .wait (.await g a) (.await l) →
    e = waitEnv s (.await g a) g k f x w → OnceClean e [a, a + 1] [] →
    sharedTarget s (warpIssue s e) (leadAddr e a) 2 (leadOnly e) = .ok (k', off) → v = BitVec.ofNat 32 (natLE (sharedBytes s k' w.team off 4)) →
    v = 0#32 ∨ v.msb = true →
    exec (.awaitWake (.frag k f)) s = .next (warpEnd (acquireAt s (.frag k f) (.shared k' w.team off) 4) e)) ∧
  ∀ (s : State) (k k' : CoreId) (n : StrandId) (x : Strand) (t off : Nat) (v : W32), strandAt (coreAt s k) n = some x →
    x.stall = some (.await (.shared k' t off)) → v = BitVec.ofNat 32 (natLE (sharedBytes s k' t off 4)) → v = 0#32 ∨ v.msb = true →
    exec (.awaitWake (.strand k n)) s = .next (strandDone s k n { x with stall := none })

/-- RING_WAKE: a waiting RACQ or RPEK is done when its ring has a slot for it (R252). -/
def RingWaitsEnd : Prop :=
  (∀ (s : State) (k k' : CoreId) (f : FragId) (x : Frag) (w : Warp) (i : Instr) (peek peek' : Bool) (g : Guard) (d a : Reg) (l : Loc) (e : WarpEnv)
    (off : Nat) (r : Ring),
    ringTake i = some (peek, g, d, a, none) → fragAt (coreAt s k) f = some x → warpAt (coreAt s k) x.warp = some w →
    SameSel w f → x.state = .wait i (.ring l peek') → e = waitEnv s i g k f x w → OnceClean e [a, a + 1] [d, d + 1] →
    sharedTarget s (warpIssue s e) (leadAddr e a) 6 (leadOnly e) = .ok (k', off) → ringAt s k' w.team off = some r → slotReady s r peek = true →
    exec (.ringWake (.frag k f)) s = .next (pairDone
      (acquireAt (putRing s (ringTaken r peek)) (.frag k f) (takePlace r peek).1 (takePlace r peek).2) e d
        ((takenAddr r peek).extractLsb' 0 32) ((takenAddr r peek).extractLsb' 32 32))) ∧
  ∀ (s : State) (k k' : CoreId) (n : StrandId) (x : Strand) (t off : Nat) (peek : Bool) (r : Ring), strandAt (coreAt s k) n = some x →
    x.stall = some (.ring (.shared k' t off) peek) → ringAt s k' t off = some r → slotReady s r peek = true →
    exec (.ringWake (.strand k n)) s = .next (strandDone s k n { x with stall := none })

/-- TAKE_COMPLETE: a waiting TAKE of a fragment holds its tile once TAKE's table says so; a strand's bundle then issues anew (R153, R181). -/
def TakesComplete : Prop :=
  (∀ (s : State) (k : CoreId) (f : FragId) (x : Frag) (w : Warp) (i : Instr) (n : Nat) (y : Tile), fragAt (coreAt s k) f = some x →
    warpAt (coreAt s k) x.warp = some w → x.state = .wait i (.take n) → tileAt (coreAt s k) w.team n = some y →
    takeRes s k w.team n (holderWarp x.warp) y = .done → y.suspect = false → y.poison = false →
    ∃ t x', exec (.takeComplete (.frag k f)) s = .next t ∧ OneCore s t k ∧ OtherTiles s t k w.team n ∧
      tileAt (coreAt t k) w.team n = some { y with owner := ownHeld (holderWarp x.warp), mark := [] } ∧
      fragAt (coreAt t k) f = some x' ∧ x'.state = .ready ∧ x'.pc = x.pc + 4) ∧
  ∀ (s : State) (k : CoreId) (m : StrandId) (x : Strand) (n : Nat) (y : Tile), strandAt (coreAt s k) m = some x → x.stall = some (.take n) →
    tileAt (coreAt s k) x.team n = some y → takeRes s k x.team n (holderStrand m) y = .done →
    exec (.takeComplete (.strand k m)) s = .next (strandDone s k m { x with stall := none })

/-- PRESENCE_RESUME: once every line that it waits for is present, a fragment issues its load again, and a bundle is tried again; the resumption
acquires (R202, R224). -/
def PresenceResumes : Prop :=
  ∀ (s : State) (ls : List Loc), (∀ k t off, Loc.shared k t off ∈ ls → present s k t off 1 = true) →
    (∀ k f x, fragAt (coreAt s k) f = some x → x.state = .parked (.presence ls) → exec (.presenceResume (.frag k f)) s =
      .next (acquireLines (setCore s k (setFrag (coreAt s k) f (some { x with state := .ready }))) (.frag k f) ls)) ∧
    (∀ k n x, strandAt (coreAt s k) n = some x → x.stall = some (.presence ls) → exec (.presenceResume (.strand k n)) s =
      .next (acquireLines (strandDone s k n { x with stall := none }) (.strand k n) ls))

/-- JWAIT_WAKE: a JWAIT of a fragment ends when its join has been released or has failed, and a strand's bundle is then tried again (R287
to R289). -/
def JoinWaitsEnd : Prop :=
  (∀ (s : State) (k : CoreId) (f : FragId) (x : Frag) (w : Warp) (g : Guard) (d a : Reg) (cell : Nat) (va : W64) (e : WarpEnv) (l : Loc) (j : Join),
    fragAt (coreAt s k) f = some x → warpAt (coreAt s k) x.warp = some w → SameSel w f →
    x.state = .wait (.jwait g d a) (.jwait cell va) →
    e = waitEnv s (.jwait g d a) g k f x w → OnceClean e [a, a + 1] [d, d + 1] →
    joinAddr s (warpIssue s e) (.jwait g d a) (leadAddr e a) = .ok l → liveJoin s l = some j → j.state = .released ∨ j.state = .failed →
    exec (.jwaitWake (.frag k f)) s = .next (pairDone s e d j.f ((maskWord j 0).extractLsb' 0 32))) ∧
  ∀ (s : State) (k : CoreId) (n : StrandId) (x : Strand) (va : W64) (l : Loc) (j : Join), strandAt (coreAt s k) n = some x →
    x.stall = some (.jwait va) → joinAddr s (waitIssue s k n x) (.jwait always 0 0) va = .ok l → liveJoin s l = some j →
    j.state = .released ∨ j.state = .failed →
    exec (.jwaitWake (.strand k n)) s = .next (strandDone s k n { x with stall := none })

/-! ## Placement, retirement, joins and migration -/

/-- TEAM_PLACE: the queue whose turn it is in the first class with a team that fits places its grid's next team at the first place that fits
(R255, R256). -/
def TeamsArePlaced : Prop :=
  ∀ (s : State) (d : DieId) (cls : Fin 4) (key pos deficit quantum : Nat) (c : CtxId) (g : Grid) (cores : List CoreId),
    dieReady s d = true → launchHeld s d = false → key < 128 → queueGrid s d key = some g → g.cls = cls.val → ctxRuns s g.ctx = true →
    findPlace s g.raw g.ctx d = some (pos, cores) → g.again = [] → recBits g.raw 0x40 0 64 = 0 →
    (∀ c : Fin 4, c < cls → ∀ key', key' < 128 → queueClass s d key' = some c.val → nextPlace s d key' = none) →
    (dieAt s d).turn[cls] = 2 * key + 1 → queueInfo s d key = some (c, deficit, quantum) → deficit ≠ 0 →
    ∃ t, exec (.teamPlace d) s = .next t ∧
      (∃ tm ∈ t.teams, tm.id = s.nextId ∧ tm.grid = g.id ∧ tm.cores = cores ∧ (tm.x, tm.y, tm.z) = teamCoords g g.next ∧ tm.placed = s.tick) ∧
      ∃ g' ∈ t.grids, g'.id = g.id ∧ g'.next = g.next + 1

/-- EVENT_POLL: a record at the head of a queue whose wait events are satisfied starts its grid (R254, R260). -/
def GridsStart : Prop :=
  ∀ (s u v : State) (d : DieId) (key deficit quantum : Nat) (c : CtxId) (h : Head), dieReady s d = true → launchHeld s d = false → key < 128 →
    (∀ c, unspills s c = false) → (∀ key', key' < key → pollQueue s d key' = none) → queueInfo s d key = some (c, deficit, quantum) → ctxRuns s c = true →
    queueGrid s d key = none → pollDue s d key = true → readHead s d key = .ok u h → readEvents u c (.queue d key) h.raw = .satisfied v →
    ∃ t, exec (.eventPoll d) s = .next t ∧ ∃ g ∈ t.grids, g.raw = h.raw ∧ g.die = d ∧ g.key = key ∧ g.ctx = c ∧ g.cls = h.cls ∧
      g.parent = h.parent ∧ g.depth = h.depth

/-- TEAM_RETIRE: a team that is no member retires when no agent and no child grid of it is left. GRID_RETIRE_SIGNAL: once every write of a
grid's teams is visible, SIGA of its record advances by one, and the grid is gone (R157, R260). -/
def TeamsAndGridsRetire : Prop :=
  (∀ (s : State) (n : Nat) (tm : Team), teamAt s n = some tm → tm ∈ s.teams → tm.status = .record → childrenLeft s n = false →
    memberOf s n = none →
    ∃ t tm', exec (.teamRetire n) s = .next t ∧ teamAt t n = some tm' ∧ tm'.status = .retired) ∧
  ∀ (s : State) (gr : Nat) (g : Grid) (siga : W64), gridAt s gr = some g → g ∈ s.grids → g.ended = true → launchHeld s g.die = false →
    (∀ r ∈ s.reqs, ∀ tm, teamAt s r.team = some tm → tm.grid ≠ gr) → (∀ tm ∈ s.teams, tm.grid = gr → tm.hz = 0 ∨ tm.hz < s.tick) →
    g.hz = 0 ∨ g.hz < s.tick → siga = BitVec.ofNat 64 (recBits g.raw 0x70 0 64) →
    (siga = 0#64 → ∃ t, exec (.gridRetireSignal gr) s = .next t ∧
      (∀ x ∈ t.grids, x.id ≠ gr) ∧ (∀ tm ∈ t.teams, tm.grid ≠ gr) ∧ t.dev = s.dev) ∧
    (siga ≠ 0#64 → siga.toNat / 2 ^ 52 = 0 → ∀ cell lease pte, translateUnit s g.ctx (.grid gr) .write siga.toNat = .ok (.dev cell) lease pte →
      linePending s (lineOf cell) = false → s.memOk →
      ∃ t, exec (.gridRetireSignal gr) s = .next t ∧ (∀ x ∈ t.grids, x.id ≠ gr) ∧
        Wrote s.dev t.dev cell (bytesLE 8 ((natLE (devBytes s cell 8) + 1) % 2 ^ 64)))

/-- SPILL_TIMEOUT: a LAUNCH whose overflow ring has stayed full for 2000 ticks ends with status 1 (R264). -/
def SpillsTimeOut : Prop :=
  (∀ (s : State) (k : CoreId) (f : FragId) (x : Frag) (w : Warp) (g : Guard) (d a : Reg) (raw : LineData) (since : Nat) (e : WarpEnv),
    fragAt (coreAt s k) f = some x → warpAt (coreAt s k) x.warp = some w → x.state = .wait (.launch g d a) (.spill raw since) →
    e = waitEnv s (.launch g d a) g k f x w → since + 2000 ≤ s.tick → enqueue s (warpIssue s e) raw = .full →
    exec (.spillTimeout (.frag k f)) s = .next (warpStatus s e d 1)) ∧
  ∀ (s : State) (k : CoreId) (n : StrandId) (x : Strand) (h : Hold) (g : Guard) (d a : Reg) (raw : LineData) (since : Nat),
    strandAt (coreAt s k) n = some x → x.holds = [h] → h.i = .launch g d a → h.cond = .spill raw since → since + 2000 ≤ s.tick →
    enqueue s (holdIssue s k n x h) raw = .full → exec (.spillTimeout (.strand k n)) s = .next (endHold s k n h (some (d, 1)))

/-- JOIN_DEADLINE_FLUSH: once the deadline has passed since the quorum point, every member that is being killed is retracted (R286). JOIN_RELEASE:
a join at quorum whose members have all arrived or been killed, and whose fill is over, is released with its F, or fails with a NaN where its
fill could not reach an element (R287, R288). -/
def JoinsEnd : Prop :=
  (∀ (s : State) (cell : Nat) (j : Join) (is : List Nat), joinAt s cell = some j → j.state ≠ .opened →
    j.qtick.toNat + joinDeadline j.desc ≤ s.tick →
    is = ((List.range j.members.length).filter fun i => (j.members[i]?).any fun m => m.state == .killing) → is ≠ [] →
    exec (.joinDeadlineFlush cell) s = .next (is.foldl (fun s i => finishKill s cell i) s)) ∧
  ∀ (s : State) (cell : Nat) (j : Join), joinAt s cell = some j → j.state = .quorum → j.busy = none → membersAll j (fun _ => true) = true →
    membersAll j (·.retired) = false →
    ((j.filled = none ∧ joinFill j.desc = 0) ∨ (∃ hz, j.filled = some (hz, true) ∧ hz < s.tick) →
      ∃ t, exec (.joinRelease cell) s = .next t ∧
        joinAt t cell = some { j with state := .released, f := fillFactor j, rtick := BitVec.ofNat 64 s.tick }) ∧
    ((∃ hz, j.filled = some (hz, false) ∧ hz < s.tick) → ∃ t j', exec (.joinRelease cell) s = .next t ∧
      joinAt t cell = some j' ∧ j'.state = .failed ∧ j'.f = 0x7FC00000#32)

/-- MIGRATION_LANDING ships a waiting warp to its place, registers and all, with MIGR's predicate true; LANDING_SLOT_TIMEOUT: after 10,000 ticks
without one on another die than its origin's the warp goes on where it is, with the predicate false (R373, R374). -/
def WarpsMigrate : Prop :=
  (∀ (s : State) (k k' : CoreId) (f : FragId) (x : Frag) (w : Warp) (i : Instr) (dd : DieId) (since : Nat) (w' : WarpIx),
    fragAt (coreAt s k) f = some x → warpAt (coreAt s k) x.warp = some w → x.state = .wait i (.landing dd since) →
    migrDest s k x.warp w dd = some (k', w') →
    exec (.migrationLanding k f) s = .next (barriersCheck (shipWarp (migrEnd s k f i true) k x.warp k' w') w.team)) ∧
  (∀ (s : State) (k k' : CoreId) (w w' : WarpIx) (x : Warp), warpAt (coreAt s k) w = some x → (k, w) ≠ (k', w') →
    ∃ y, warpAt (coreAt (shipWarp s k w k' w') k') w' = some y ∧ y.lanes = x.lanes ∧ y.team = x.team ∧ y.wisn = x.wisn ∧ y.sel = none ∧
      SameBytes s (shipWarp s k w k' w')) ∧
  ∀ (s : State) (k : CoreId) (f : FragId) (x : Frag) (w : Warp) (g : Guard) (pd : Pred) (a : Reg) (dd : DieId) (since : Nat),
    fragAt (coreAt s k) f = some x → warpAt (coreAt s k) x.warp = some w → x.state = .wait (.migr g pd a) (.landing dd since) →
    since + 10000 ≤ s.tick → migrHome w dd = false → migrDest s k x.warp w dd = none →
    ∃ t y w', exec (.landingSlotTimeout k f) s = .next t ∧ OneCore s t k ∧ fragAt (coreAt t k) f = some y ∧ y.state = .ready ∧
      y.pc = x.pc + 4 ∧ warpAt (coreAt t k) x.warp = some w' ∧
      ∀ l, laneIn (partsOf w x.mask g) l = true → predGet w'.lanes[l].p pd = (pd == 0#3)

/-- PAGER_FILL: a frame of the pool is taken and the page is written to it; once that is complete the entry is swapped, HEAD advances, and the
waiting agents resume; an entry that has changed keeps the frame in its pool. PAGER_POOL_TIMEOUT: the waiting agents fail (R216, R217). -/
def PagesAreFilled : Prop :=
  (∀ (s : State) (c : CtxId) (va : W64) (p : FillPlan), fillOf s c va.toNat = none → onlyFailed s c va.toNat = false →
    fillPlan s c va.toNat = .ready p → (∀ f ∈ s.fills, f.ctx = c → f.pool = p.pool → f.start = none) →
    ∃ t f w, exec (.pagerFill c va) s = .next t ∧ f ∈ t.fills ∧ f.ctx = c ∧ f.page = va.toNat / 4096 ∧ f.pool = p.pool ∧
      f.start = some { old := p.old, cell := p.cell, frame := pteFrame p.new, head := p.head, w := w } ∧
      ∀ bs, p.data = some bs → frameOk s p.new 4096 = true → t.dev = (writePage s p.new bs).1.dev ∧ w = (writePage s p.new bs).2) ∧
  (∀ (s u v : State) (c : CtxId) (va : W64) (f : Fill) (y : FillWork) (x : Ctx) (w' : Nat), fillOf s c va.toNat = some f → f.start = some y →
    y.w = 0 ∨ y.w < s.tick → linePending s (lineOf y.cell) = false →
    (BitVec.ofNat 64 (devNat s y.cell 8) = y.old → ctxAt s c = some x →
      u = (homeStore (dropFill s c va.toNat) y.cell (bytesLE 8 (filledPte y.old (4096 * y.frame)).toNat)).1 →
      unitWrite u c (x.pager + BitVec.ofNat 64 (16 * f.pool + 8)) (bytesLE 2 (y.head + 1)) = some (v, w') →
      exec (.pagerFill c va) s = .next (resumePage v c va.toNat)) ∧
    (BitVec.ofNat 64 (devNat s y.cell 8) ≠ y.old → exec (.pagerFill c va) s = .next (resumePage (dropFill s c va.toNat) c va.toNat))) ∧
  ∀ (s : State) (c : CtxId) (va : W64) (f : Fill) (since pool n : Nat), fillOf s c va.toNat = some f → f.empty = some since → f.start = none →
    fillPlan s c va.toNat = .empty pool n → since + n ≤ s.tick →
    exec (.pagerPoolTimeout c va) s = .next (pagerFail (dropFill s c va.toNat) c va.toNat)

end Sys2Proof.Claims

/-! ## Pre-emption, observation and the debugger -/

namespace Sys2Proof.Claims

/-- What makes the launch engine save a team rather than drain or flush it: a PLEDGED membership, more than 64 delivered sets, or a stopped
agent (R322). -/
def MustSave (s : State) (tm : Team) : Prop :=
  (∃ j i m, memberOf s tm.id = some (j, i, m) ∧ m.state = .pledged) ∨ 64 < tm.sets.length ∨ teamHasStopped s tm = true

/-- The teams of a team's grid have run no longer on average than this one may yet take to drain (R322). -/
def DrainsSoon (s : State) (tm : Team) (g : Grid) : Prop := 0 < g.runNum ∧ g.runSum ≤ g.runNum * (20000 + runTicks s tm)

/-- PREEMPT_CHOICE: DRAIN, FLUSH or SAVE; DRAIN_TIMEOUT: 20,000 ticks after DRAIN the choice is made again without it (R322, R324). -/
def PreemptionChooses : Prop :=
  ∀ (s : State) (n : Nat) (tm : Team) (g : Grid), teamAt s n = some tm → tm ∈ s.teams → gridAt s tm.grid = some g → g ∈ s.grids →
    tm.status = .placed →
    (tm.drain = none → (MustSave s tm → exec (.preemptChoice n) s = .next (beginSave s n)) ∧
      (¬MustSave s tm → DrainsSoon s tm g → exec (.preemptChoice n) s = .next (modTeam s n fun x => { x with drain := some s.tick })) ∧
      (¬MustSave s tm → ¬DrainsSoon s tm g → teamIdem g = false → exec (.preemptChoice n) s = .next (beginSave s n)) ∧
      (¬MustSave s tm → ¬DrainsSoon s tm g → teamIdem g = true → copiesOpen s tm = false → (∀ r ∈ s.reqs, r.team ≠ n) →
        (∀ r ∈ s.reqs, r.op = .kick → r.held = false) →
        (∀ k ∈ tm.cores, ∀ f x i, fragAt (coreAt s k) f = some x → x.state ≠ .wait i .copyQueue) →
        ∃ t g' rest, exec (.preemptChoice n) s = .next t ∧ (∀ x ∈ t.teams, x.id ≠ n) ∧ gridAt t tm.grid = some g' ∧
          (teamLinear g tm, rest, tm.member) ∈ g'.again)) ∧
    (∀ since, tm.drain = some since → since + 20000 ≤ s.tick → MustSave s tm ∨ teamIdem g = false →
      exec (.drainTimeout n) s = .next (beginSave (modTeam s n fun x => { x with drain := none }) n))

/-- TEAM_SAVE: a team whose accesses are over leaves its cores and becomes SAVED. SAVED_TEAM_RESTORE: a saved team that may run is placed on the
first place that fits it, when no line of its save blocks is pending (R193, R323, R325; that it waits for pool entries is log entry 91). -/
def TeamsAreSavedAndRestored : Prop :=
  (∀ (s : State) (n : Nat) (tm : Team), teamAt s n = some tm → tm ∈ s.teams → tm.status = .saving → saveReady s tm = true → teamAlive s tm = true →
    (∀ b ∈ tm.blocks, blockWaits s tm.ctx b false = false) →
    (∀ r ∈ s.reqs, r.op = .kick → r.held = false) → (∀ k ∈ tm.cores, ∀ f x i, fragAt (coreAt s k) f = some x → x.state ≠ .wait i .copyQueue) →
    ∃ t tm', exec (.teamSave n) s = .next t ∧ teamAt t n = some tm' ∧ tm'.status = .saved ∧ tm'.member = tm.member ∧
      ∀ k ∈ tm.cores, ∀ y ∈ (coreAt t k).seats, y.team ≠ n) ∧
  ∀ (s : State) (n pos : Nat) (tm : Team) (g : Grid) (cores : List CoreId), teamAt s n = some tm → tm ∈ s.teams →
    gridAt s tm.grid = some g → tm.status = .saved →
    ctxRuns s tm.ctx = true → needsHost tm = false ∨ tm.resume = true → launchHeld s g.die = false → fitPlace s g.raw g.die = some (pos, cores) →
    (∀ b ∈ tm.blocks, blockWaits s tm.ctx b true = false) → (∀ p ∈ tm.image.zip cores, poolFits s p.1 p.2 = true) →
    ∃ t tm', exec (.savedTeamRestore n) s = .next t ∧ teamAt t n = some tm' ∧ tm'.status = .placed ∧ tm'.cores = cores ∧ tm'.pos = pos ∧
      tm'.member = tm.member

/-- SAMPLER_ENABLE and SAMPLER_DISABLE: PERIOD is at least 17, and sampling starts with the cycle in which EN becomes 1; clearing EN sets BUSY
until TICK has passed what has been written (R350, R351, R354).
STIPPLE_ENABLE empties every tag (R356). -/
def SamplersAreSet : Prop :=
  (∀ (s : State) (k : CoreId) (v : W64) (x : Sampler), x = (coreAt s k).sampler →
    (v.getLsbD 0 = true → ∃ t, exec (.samplerEnable k v) s = .next t ∧ (coreAt t k).sampler = { x with
      en := true, period := if (v.extractLsb' 32 16).toNat < 17 then 17 else v.extractLsb' 32 16, ctx := Fin.ofNat 64 (v.extractLsb' 2 6).toNat,
      since := if x.en then x.since else (coreAt s k).cycle, ptr := if x.en then x.ptr else 0 }) ∧
    (v.getLsbD 0 = false → ∃ t, exec (.samplerDisable k v) s = .next t ∧ (coreAt t k).sampler = { x with
      en := false, period := if (v.extractLsb' 32 16).toNat < 17 then 17 else v.extractLsb' 32 16, ctx := Fin.ofNat 64 (v.extractLsb' 2 6).toNat,
      busy := if x.en then x.hz else x.busy })) ∧
  ∀ (s : State) (d : DieId) (v : W64), v.getLsbD 0 = true → exec (.stippleEnable d v) s = .next (modDie s d fun y =>
    { y with stipple := { y.stipple with
        en := true, k := v.extractLsb' 16 5, ctx := Fin.ofNat 64 (v.extractLsb' 8 6).toNat, tags := [] } })

/-- STALL_SAMPLE: in every cycle that is a multiple of PERIOD from the start, the 32 bytes of a record are written at IDX, which advances, and the
pointer goes past the sampled slot (R351, R352, R354). -/
def SamplesAreWritten : Prop :=
  ∀ (s u : State) (k : CoreId) (x : Sampler), x = (coreAt s k).sampler → x.en = true → x.since < (coreAt s k).cycle →
    ((coreAt s k).cycle - x.since) % x.period.toNat = 0 →
    (sampleSlot s k = none → exec (.stallSample k) s = .next s) ∧
    ∀ (w : WarpIx) (f : FragId) (y : Frag) (issued : Bool) (va : W64) (cell lease : Nat) (b : W64), sampleSlot s k = some w →
      u = modSampler s k (fun z => { z with ptr := w.val + 1 }) → sampleFrag u k w = some (f, y, issued) → x.idx.toNat < x.count.toNat →
      va = x.base + 32 * (0#32 ++ x.idx) → va.toNat / 2 ^ 52 = 0 → translateWalk u x.ctx .write va.toNat = .ok (.dev cell) lease b → s.memOk →
      ∃ t, exec (.stallSample k) s = .next t ∧ Wrote s.dev t.dev cell (sampleBytes u k w f y issued) ∧
        (coreAt t k).sampler.idx = x.idx + 1 ∧ (coreAt t k).sampler.ptr = w.val + 1

/-- STATUS of a context's debug block. -/
def DbgStatus (t : State) (c : CtxId) (n : Byte) : Prop := ∃ x, ctxAt t c = some x ∧ x.dbg.status = n

/-- A halted fragment as it goes on in its earlier state: an op that it has yet to issue matches no breakpoint (R344). -/
def goesOn (x : Frag) (st : FragState) : Frag := { x with state := st, resume := st == .ready || reissues st }

/-- A STOPALL of context c: every strand of its teams halts with cause 4, and every fragment that stands at a kill point, or waits in FRAGW;
the others are asked to halt, and go on to their next kill point. No kill is pending (R341, R347, R348). -/
def StopsAll (s t : State) (c : CtxId) : Prop :=
  (∀ k ix w, warpAt (coreAt s k) ix = some w → w.kill = false) → (∀ k n x, strandAt (coreAt s k) n = some x → x.kill = false) →
  ∀ tm ∈ s.teams, tm.ctx = c →
    (∀ k n x, strandAt (coreAt s k) n = some x → (k, n) ∈ teamStrandsAt s tm →
      (∀ b st, x.state ≠ .halted b st) → x.state ≠ .stopped → x.state ≠ .killed → x.state ≠ .ending →
      ∃ y, strandAt (coreAt t k) n = some y ∧ y.state = .halted 4 x.state) ∧
    ∀ k f x, fragAt (coreAt s k) f = some x → (k, x.warp) ∈ teamWarpsAt s tm → (∀ b st, x.state ≠ .halted b st) → x.state ≠ .stopped →
      (haltsNow x.state = true → ∃ y, fragAt (coreAt t k) f = some y ∧ y.state = .halted 4 x.state) ∧
      (haltsNow x.state = false → fragAt (coreAt t k) f = some x ∧ (teamCtx s tm.id = c → haltAsked t k f ≠ none))

/-- A RESUMEALL of context c: every halted agent of its teams goes on as it was (R341, R344). -/
def ResumesAll (s t : State) (c : CtxId) : Prop :=
  ∀ tm ∈ s.teams, tm.ctx = c →
    (∀ k f x b st, fragAt (coreAt s k) f = some x → (k, x.warp) ∈ teamWarpsAt s tm → x.state = .halted b st → (∀ b' st', st ≠ .halted b' st') →
      fragAt (coreAt t k) f = some (goesOn x st)) ∧
    ∀ k n x b st, strandAt (coreAt s k) n = some x → (k, n) ∈ teamStrandsAt s tm → x.state = .halted b st → (∀ b' st', st ≠ .halted b' st') →
      strandAt (coreAt t k) n = some { x with state := st, resume := true, haltReq := none }

/-- The debugger's commands: without the right they are ignored; STOPALL starts a stop-all and halts the context's agents, and RESUMEALL
ends it, and every halted agent resumes; HALT asks a ready fragment to halt; RESUME, STEP and STEPB let a halted agent go on, a running one is
STATUS 3 and an absent one 2; an unknown code is STATUS 2 (R340, R341, R344, R346, R347). -/
def DebuggerCommands : Prop :=
  (∀ (s : State) (c : CtxId) (who : AgentRef) (code : Byte) (i : Instr), dbgRight s c = false →
    i ∈ [.stopall c, .resumeall c, .dbgHalt c who, .dbgResume c who, .dbgStep c who, .dbgStepb c who, .dbgUnknownCommand c code] →
    exec i s = .next s) ∧
  ∀ (s : State) (c : CtxId), dbgRight s c = true →
    (∃ t x, exec (.stopall c) s = .next t ∧ ctxAt t c = some x ∧ x.dbg.stopall = true ∧ StopsAll s t c ∧
      debugWord t c 16 = if allHalted t c then 0 else 1) ∧
    (∃ t x, exec (.resumeall c) s = .next t ∧ ctxAt t c = some x ∧ x.dbg.stopall = false ∧ x.dbg.status = 0 ∧ ResumesAll s t c) ∧
    (∀ code, ∃ t, exec (.dbgUnknownCommand c code) s = .next t ∧ DbgStatus t c 2) ∧
    (∀ who, ∀ i ∈ [Instr.dbgHalt c who, .dbgResume c who, .dbgStep c who, .dbgStepb c who], dbgTarget s c who = .absent →
      ∃ t, exec i s = .next t ∧ DbgStatus t c 2) ∧
    (∀ who, ∀ i ∈ [Instr.dbgResume c who, .dbgStep c who, .dbgStepb c who], dbgTarget s c who = .running →
      ∃ t, exec i s = .next t ∧ DbgStatus t c 3) ∧
    (∀ k f x w, fragAt (coreAt s k) f = some x → warpAt (coreAt s k) x.warp = some w → teamCtx s w.team = c → x.state = .ready →
      ∃ t w', exec (.dbgHalt c (.frag k f)) s = .next t ∧ DbgStatus t c 1 ∧ warpAt (coreAt t k) x.warp = some w' ∧ (f, 6) ∈ w'.haltReq) ∧
    (∀ k f x w cause st, fragAt (coreAt s k) f = some x → warpAt (coreAt s k) x.warp = some w → teamCtx s w.team = c → x.state = .halted cause st →
      (∃ t, exec (.dbgResume c (.frag k f)) s = .next t ∧ DbgStatus t c 0 ∧ fragAt (coreAt t k) f = some (goesOn x st)) ∧
      ∀ i ∈ [Instr.dbgStep c (.frag k f), .dbgStepb c (.frag k f)], ∃ t, exec i s = .next t ∧ DbgStatus t c 1 ∧
        fragAt (coreAt t k) f = some { goesOn x st with step := true }) ∧
    ∀ k n x cause st, strandAt (coreAt s k) n = some x → teamCtx s x.team = c → x.state = .halted cause st →
      (∃ t, exec (.dbgResume c (.strand k n)) s = .next t ∧ DbgStatus t c 0 ∧
        strandAt (coreAt t k) n = some { x with state := st, resume := true }) ∧
      (∃ t, exec (.dbgStep c (.strand k n)) s = .next t ∧ DbgStatus t c 1 ∧
        strandAt (coreAt t k) n = some { x with state := st, resume := true, step := true }) ∧
      ∃ t, exec (.dbgStepb c (.strand k n)) s = .next t ∧ DbgStatus t c 1 ∧
        strandAt (coreAt t k) n = some { x with state := st, resume := true, stepAll := true }

/-! ## The host -/

/-- REGISTER_WRITE: a write to BAR 0 of a die that is not READY does nothing; WINBASE takes effect at once, and another register of the port
when no earlier write waits: the arguments, and the command slot when it is not busy (R3, R379, R382, R386). DOORBELL sets a queue's
TAIL (R381). That WINBASE does not wait for earlier writes, and that another register's write takes effect at once behind ordered ones, is
log entry 57; which dies a port reaches is log entry 58. -/
def HostRegistersAreWritten : Prop :=
  (∀ (s : State) (p : PortId) (off : Nat) (v : W64), dieReady s p = false → exec (.registerWrite p off v) s = .next s) ∧
  (∀ (s : State) (p : PortId) (v : W64), dieReady s p = true →
    exec (.registerWrite p 0x2000 v) s = .next (modPort s p fun q => { q with winbase := v &&& ~~~0xFFFFFFFFF#64 })) ∧
  ∀ (s : State) (p : PortId), dieReady s p = true → (portAt s p).posted = [] →
    (∀ (i : Fin 4) (v : W64), exec (.registerWrite p (0x1008 + 8 * i.val) v) s =
      .next (modPort s p fun q => { q with args := q.args.set i v })) ∧
    (∀ v : W64, (portAt s p).hstat ≠ 1 → ∃ t, exec (.registerWrite p 0x1000 v) s = .next t ∧
      (portAt t p).hcmd = v.extractLsb' 0 8 ∧ (portAt t p).hstat = 1 ∧ (portAt t p).args = (portAt s p).args) ∧
    ∀ (q : QueueId) (v : W32) (x : Queue), queueAt s q = some x → x.closing = false → routeOk s p (Fin.ofNat 4 (q.val / 64)) = true →
      (v.extractLsb' 0 16 - x.head).toNat ≤ 2 ^ x.log2n →
      ∃ t, exec (.doorbell p q v) s = .next t ∧ queueAt t q = some { x with tail := v.extractLsb' 0 16, look := true }

/-- WINDOW_WRITE: the lines of a window write become engine-pending at once, and its data waits at the port. INBOUND_DATA_SEND: the data of a
waiting write is performed when every earlier write of the port is ordered, or with RO (R379, R382). The debug access window is named by its core and seat
(log entry 30), and what a port cannot reach is log entry 58. -/
def WindowWritesArePerformed : Prop :=
  (∀ (s : State) (p : PortId) (off : Nat) (data : List Byte) (ro : Bool), off + data.length ≤ 2 ^ 36 →
    (windowUp s p = false → exec (.windowWrite p none off data ro) s = .next s) ∧
    (windowUp s p = true → windowParts ((portAt s p).winbase.toNat + off) data ≠ [] →
      ∃ t w, exec (.windowWrite p none off data ro) s = .next t ∧ t.dev = s.dev ∧ (portAt t p).posted = (portAt s p).posted ++ [w] ∧
        w.addr = (portAt s p).winbase.toNat + off ∧ w.data = data ∧ w.reg = false ∧ w.ro = ro ∧ w.done = none ∧
        ∀ x ∈ windowParts w.addr data, linePending t (lineOf (pkgCell x.1)) = true)) ∧
  (∀ (s : State) (p : PortId) (k : CoreId) (n off : Nat) (data : List Byte) (ro : Bool), dieReady s p = true → routeOk s p (coreDie k) = true →
    exec (.windowWrite p (some (k, n)) off data ro) s = .next (windowDebugWrite s k n off data)) ∧
  ∀ (s : State) (p : PortId) (n : Nat) (w : Posted), s.memOk → windowUp s p = true →
    ((portAt s p).posted.filter fun x => x.done.isNone)[n]? = some w → w.reg = false →
    w.ro = true ∨ postedOrdered s ((portAt s p).posted.takeWhile fun x => x.id != w.id) = true →
    ∃ t, exec (.inboundDataSend p n) s = .next t ∧
      (∀ i, i < w.data.length → w.addr + i < Config.pkgBytes → memRead t.dev (pkgCell (w.addr + i)) = w.data.getD i 0) ∧
      ∀ c, (∀ i, i < w.data.length → w.addr + i < Config.pkgBytes → c ≠ pkgCell (w.addr + i)) → memRead t.dev c = memRead s.dev c

/-- WINDOW_READ: with no earlier write of the port waiting, a read returns what device memory, the registers of BAR 0, or a halted agent's window
holds, and changes nothing of the machine (R342, R379, R383; log entry 30 names the debug access window, and log entry 58 what a port
reaches). -/
def WindowReadsAnswer : Prop :=
  ∀ (s : State) (p : PortId) (off len : Nat), (∀ w ∈ (portAt s p).posted, w.done ≠ none) →
    exec (.windowRead p .bar0 off len) s = .next (modPort s p fun q => { q with reads := q.reads ++ [barBytes s p off len] }) ∧
    (off + len ≤ 2 ^ 36 → windowUp s p = true → dieReady s p = true → pkgPending s ((portAt s p).winbase.toNat + off) len = false →
      exec (.windowRead p .window off len) s =
        .next (modPort s p fun q => { q with reads := q.reads ++ [pkgRead s ((portAt s p).winbase.toNat + off) len] })) ∧
    (∀ k n, dieReady s p = true → routeOk s p (coreDie k) = true → exec (.windowRead p (.debug k n) off len) s =
      .next (modPort (windowDebugRead s k n off len).1 p fun q => { q with reads := q.reads ++ [(windowDebugRead s k n off len).2] }))

/-- A host command is over: its STATUS stands in the port's slot, and vector 64 is raised (R380, R386). -/
def answered (s : State) (p : PortId) (status : Byte) : State := raiseVector (modPort s p fun q => { q with hstat := status }) p 64

/-- The commands of contexts; grants are given and taken while no fabric controller is exchanged (R274, R308, R317, R325, R340, R386, R389,
R392). That CTXDESTROY removes the agents at once is log entry 62, and what it does to members is log entry 83. -/
def ContextCommands : Prop :=
  ∀ (s : State) (p : PortId) (c : CtxId) (a : Fin 4 → W64), a = (fun i => (portAt s p).args[i]) → argCtx (a 0) = some c →
    (commandReady s p 1 = true → fabricHeld s = false →
      ((ctxAt s c).isSome = true → exec (.ctxcreate p) s = .next (answered s p 3)) ∧
      (ctxAt s c = none → (a 1).toNat % 256 = 0 → ∀ bs, hostRead s p (a 1).toNat 256 = .ok bs →
        exec (.ctxcreate p) s = .next (if recordBad bs then answered s p 2 else answered (setCtx s c (some (newCtx bs (a 1).toNat p))) p 0))) ∧
    (ctxAt s c = none → (commandReady s p 2 = true → exec (.ctxstop p) s = .next (answered s p 2)) ∧
      (commandReady s p 3 = true → exec (.ctxresume p) s = .next (answered s p 2)) ∧
      (commandReady s p 4 = true → exec (.ctxdestroy p) s = .next (answered s p 2))) ∧
    ∀ x, ctxAt s c = some x →
      (commandReady s p 2 = true → ∃ u y, exec (.ctxstop p) s = .next (answered u p 0) ∧ ctxAt u c = some y ∧ y.stopped = true ∧
        (∀ tm ∈ u.teams, tm.ctx = c → tm.status ≠ .placed) ∧ ∀ j ∈ u.joins, j.ctx = c → ∀ m ∈ j.members, m.state ≠ .running) ∧
      (commandReady s p 3 = true → ∃ u y, exec (.ctxresume p) s = .next (answered u p 0) ∧ ctxAt u c = some y ∧ y.stopped = false ∧
        ∀ tm ∈ u.teams, tm.ctx = c → tm.status = .saved → tm.resume = true) ∧
      (commandReady s p 4 = true → fabricHeld s = false → ∃ u, exec (.ctxdestroy p) s = .next (answered u p 0) ∧ ctxAt u c = none ∧
        (∀ tm ∈ u.teams, tm.ctx ≠ c) ∧ (∀ g ∈ u.grids, g.ctx ≠ c) ∧ ∀ q y, queueAt u q = some y → y.ctx ≠ c) ∧
      (commandReady s p 7 = true → ∃ u y, exec (.spillclr p) s = .next (answered u p 0) ∧ ctxAt u c = some y ∧ y.spstop = false) ∧
      (commandReady s p 8 = true → exec (.dbggrant p) s = .next (if x.dbg.right then answered s p 3
        else answered (setCtx s c (some { x with dbg := { x.dbg with right := true } })) p 0)) ∧
      (commandReady s p 9 = true → ∃ u y, exec (.dbgrevoke p) s = .next (answered u p 0) ∧ ctxAt u c = some y ∧ y.dbg.right = false) ∧
      (commandReady s p 10 = true → errqWaits s c x = false → ∀ b w flags pol u n, errqBlock s c x = some (b, w, flags, pol) →
        unitWrite s c (x.errq + 16) (bytesLE 8 (BitVec.ofNat 64 flags &&& 0xFFFFFFFA#64).toNat) = some (u, n) →
        exec (.flagclr p) s = .next (answered u p 0)) ∧
      (commandReady s p 15 = true → (a 1).toNat % 4096 = 0 → (portAt s p).posted = [] →
        ∃ u, exec (.tlbinv p) s = .next (answered u p 0) ∧ u.dev = s.dev ∧
          (∀ k, ∀ en ∈ (coreAt u k).tlb, en ∈ (coreAt s k).tlb ∧ tlbClear [en] c (a 1).toNat (a 2).toNat = [en]) ∧
          ∀ d, ∀ en ∈ (dieAt u d).tlb, en ∈ (dieAt s d).tlb ∧ tlbClear [en] c (a 1).toNat (a 2).toNat = [en])

/-- The commands of queues, and a code that names no command (R254, R386). STATUS 2 for another context than the block's, and the closing of
a queue by QUNREG, are log entry 62; the free STATUS of an unknown code is log entry 63. -/
def QueueCommands : Prop :=
  (∀ (s : State) (p : PortId) (q : QueueId) (c : CtxId) (a : Fin 4 → W64) (bs : List Byte) (x : Queue), a = (fun i => (portAt s p).args[i]) →
    commandReady s p 5 = true → argQueue (a 0) = some q → argCtx (a 2) = some c → (ctxAt s c).isSome = true → (a 1).toNat % 64 = 0 →
    routeOk s p (Fin.ofNat 4 (q.val / 64)) = true → queueBusy s q = false →
    ((∃ y, queueAt s q = some y ∧ y.closing = false) → exec (.qreg p) s = .next (answered s p 3)) ∧
    (queueAt s q = none → hostRead s p (a 1).toNat 64 = .ok bs → x = newQueue bs (a 1).toNat →
      (x.ctx = c → x.ring.toNat % 4096 = 0 → 1 ≤ x.log2n → x.log2n ≤ 12 → exec (.qreg p) s = .next (answered (setQueue s q (some x)) p 0)) ∧
      (x.ctx ≠ c → exec (.qreg p) s = .next (answered s p 2)))) ∧
  (∀ (s : State) (p : PortId) (q : QueueId) (x : Queue), commandReady s p 6 = true → argQueue (portAt s p).args[0] = some q →
    queueAt s q = some x → x.closing = false →
    exec (.qunreg p) s = .next (answered (setQueue s q (if queueBusy s q then some { x with closing := true } else none)) p 0)) ∧
  ∀ (s : State) (p : PortId) (code : Byte), commandReady s p code = true → code = 0 ∨ 16 ≤ code.toNat →
    ∃ status u, exec (.unknownHostCommand p code) s = .next (answered u p status) ∧ status ≠ 1 ∧ u.dev = s.dev ∧ u.host = s.host

/-- The commands of summaries and images: a restrike's running image writes its hand-over record, and a staged image that does not take its
format is rolled back. What a report and a record look like as bytes, and the die that ATTEST names, are log entry 92; where an argument
names a controller and a die is log entry 59; the corners of a restrike are log entry 60 (R388, R390 to R393). -/
def ImageCommands : Prop :=
  (∀ (s : State) (p : PortId), s.memOk → commandReady s p 11 = true →
    ((portAt s p).args[0].toNat % 64 ≠ 0 → exec (.resync p) s = .next (answered s p 2)) ∧
    ((portAt s p).args[0].toNat % 64 = 0 → ∃ u bs, exec (.resync p) s = .next (answered u p 0) ∧ u.dev = s.dev ∧ bs.length = 6464 ∧
      bs.take 16 = bytesLE 8 1 ++ bytesLE 8 s.tick ∧ Wrote s.host u.host (portAt s p).args[0].toNat bs)) ∧
  (∀ (s : State) (p : PortId) (d : DieId) (nonce : List Byte), s.memOk → commandReady s p 12 = true →
    d = Config.attestDie p (portAt s p).args[2] (portAt s p).args[3] → routeOk s p d = true →
    hostRead s p (portAt s p).args[1].toNat 32 = .ok nonce →
    ∃ u report, exec (.attest p) s = .next (answered u p 0) ∧ u.dev = s.dev ∧
      report = bytesLE 256 (Config.reportBytes
        { nonce := nonce, serial := Config.serialOf d, die := d, step := Config.stepOf d, count := (dieAt s d).strikes,
          running := (dieAt s d).running.toList, retained := (imageStore s d).2.toList }).toNat ∧
      Wrote s.host u.host (portAt s p).args[0].toNat (report ++ bytesLE 7856 (Config.signature d report).toNat)) ∧
  (∀ (s : State) (p : PortId) (ctl : Fin 3) (d : DieId) (a : Fin 4 → W64) (h : ImageHeader) (header body sig : List Byte),
    a = (fun i => (portAt s p).args[i]) → commandReady s p 13 = true → argController (a 0) = some (ctl, d) → ((a 2).extractLsb' 32 16).toNat ≤ 1000 →
    routeOk s p d = true → (dieAt s d).striking = none → hostRead s p (a 1).toNat 256 = .ok header → h = Config.headerOf header →
    hostRead s p ((a 1).toNat + 256) h.bodyLen = .ok body → hostRead s p ((a 1).toNat + 256 + h.bodyLen) 7856 = .ok sig →
    (imageOk d ctl h header body sig = true → ∃ u, exec (.stage p) s = .next (answered u p 0) ∧ (dieAt u d).rst = .staged ∧
      ∃ persist dog, (dieAt u d).staged = some (ctl, h.image, persist, dog)) ∧
    (imageOk d ctl h header body sig = false → ∃ u, exec (.stage p) s = .next (answered u p 4) ∧ (dieAt u d).rst = .rejected ∧
      (dieAt u d).staged = none)) ∧
  ∀ (s : State) (p : PortId) (ctl : Fin 3) (d : DieId) (image : Image) (persist : Bool) (dog : Nat), commandReady s p 14 = true →
    argController (portAt s p).args[0] = some (ctl, d) → routeOk s p d = true → (∀ e, (dieAt s e).striking = none) →
    (dieAt s d).staged = some (ctl, image, persist, dog) →
    ∃ u x h, exec (.restrike p) s = .next (answered u p 0) ∧ (dieAt u d).rst = .progress ∧ (dieAt u d).striking = some x ∧ x.ctl = ctl ∧
      x.quiesce = s.tick ∧ x.started = s.tick ∧ x.placeReady = false ∧ (dieAt u d).running = (dieAt s d).running ∧
      (dieAt u d).hand = some h ∧ h.kind = ctl ∧ h.die = d ∧ h.tick = s.tick ∧ h.format = Config.handOverFormat (dieAt s d).running[ctl] ∧
      h.len = (Config.handOverBytes ctl h.body).length ∧ h.digest = Config.sha256 (Config.handOverBytes ctl h.body) ∧
      x.back = !decide (h.format ≤ image.format)

/-! ## Bring-up and restrike -/

/-- The course of bring-up: RESET, SELFTEST, FWLOAD, LINK, READY, with FAILED and its code on the way (R384, R385). That power-on leaves
device memory as at reset is log entry 1, and that the steps carry their outcomes is log entry 64. -/
def BringUpProceeds : Prop :=
  (∀ s : State, ∃ t, exec .powerOn s = .next t ∧ t.host = s.host ∧ t.dev = State.reset.dev ∧ t.teams = [] ∧
    ∀ d, (dieAt t d).state = .reset ∧ (dieAt t d).store = (dieAt s d).store) ∧
  (∀ (s : State) (d : DieId) (res : TestResult), (dieAt s d).state = .selftest → exec (.selftestComplete d res) s = .next (modDie s d fun y =>
    match res with
    | .pass => { y with state := .fwload }
    | .selfTest => { y with state := .failed, err := 1 }
    | .hbm => { y with state := .failed, err := 3 })) ∧
  (∀ (s : State) (d : DieId), (dieAt s d).state = .fwload →
    (bootOk s d = false → exec (.fwloadComplete d false) s = .next (modDie s d fun y => { y with state := .failed, err := 2 })) ∧
    (bootOk s d = true → ∃ t, exec (.fwloadComplete d true) s = .next t ∧ (dieAt t d).state = .link ∧
      ∀ c, some (dieAt t d).running[c] = bootImage s d c)) ∧
  ∀ (s : State) (d : DieId) (pair cross : Bool), (dieAt s d).state = .link → fabricHeld s = false →
    exec (.linkComplete d pair cross) s = .next (modDie s d fun y => { y with state := .ready, pair := pair, cross := cross })

/-- The course of a restrike: the image reports place-ready and alive, and is then the running one; an image that is late, or finds a
bad hand-over record, is rolled back, a rollback's launch engine may fall back on its tables, and a retained image that is late fails the die
(R392, R393; its corners are log entry 60). -/
def RestrikesEnd : Prop :=
  ∀ (s : State) (d : DieId) (x : Striking), (dieAt s d).striking = some x →
    (x.ctl = 1 → x.placeReady = false → handOverFails (dieAt s d) x = false → x.back = true ∨ s.tick ≤ x.quiesce + 40000 →
      exec (.imagePlaceReady d) s = .next (modDie s d fun y => { y with striking := some { x with placeReady := true } })) ∧
    (x.ctl ≠ 1 ∨ x.placeReady = true ∨ x.tables = true → handOverFails (dieAt s d) x = false → s.tick ≤ x.started + watchdog (dieAt s d) →
      ∃ t, exec (.imageAlive d) s = .next t ∧ (dieAt t d).striking = none ∧
        (x.back = true → (dieAt t d).rst = .rolledBack ∧ (dieAt t d).running = (dieAt s d).running) ∧
        ∀ c image persist dog, x.back = false → (dieAt s d).staged = some (c, image, persist, dog) →
          (dieAt t d).rst = .done ∧ (dieAt t d).strikes = (dieAt s d).strikes + 1 ∧ (dieAt t d).running = (dieAt s d).running.set x.ctl image) ∧
    (x.back = false → x.started + watchdog (dieAt s d) < s.tick ∨ handOverFails (dieAt s d) x = true ∨
        (x.ctl = 1 ∧ x.placeReady = false ∧ x.quiesce + 40000 < s.tick) →
      exec (.restrikeTimeout d) s = .next (modDie s d fun y =>
        { y with striking := some { x with back := true, started := s.tick, placeReady := false } })) ∧
    (x.back = true → x.started + watchdog (dieAt s d) < s.tick →
      exec (.restrikeTimeout d) s = .next (modDie s d fun y => { y with state := .failed, striking := none })) ∧
    (x.ctl = 1 → x.back = true → x.placeReady = false → x.tables = false → x.quiesce + 50000 ≤ s.tick →
      exec (.placementFallback d) s = .next (modDie s d fun y => { y with striking := some { x with tables := true } }))

/-- FREQUENCY_CHANGE: the octet has its new step (R380, R395); that it needs a die that is READY and another step, and takes effect at once,
is log entry 65. -/
def FrequenciesChange : Prop :=
  ∀ (s : State) (d : DieId) (octet : Fin 8) (step : Fin 13), dieReady s d = true → (dieAt s d).freq[octet] ≠ step →
    ∃ t, exec (.frequencyChange d octet step) s = .next t ∧ (dieAt t d).freq = (dieAt s d).freq.set octet step ∧ t.dev = s.dev

end Sys2Proof.Claims

/-! ## The steps outside the ops -/

/-- The steps of a strand outside its ops take effect (R18, R19, R21, R31, R32, R148, R313). -/
def Obligations.StrandEventsComplete : Prop :=
  NullBundlesAreSkipped ∧ DueResultsLand ∧ UnitStallsEnd ∧ RendezvousReleases

/-- A word that is no instruction traps, and a fragment that waits for an entry or its code goes on (R64, R65, R137, R353). -/
def Obligations.FragmentEventsComplete : Prop :=
  BadWordsTrap ∧ FragmentWaitsEnd

/-- A release is sent, and a fence completes, once the accesses before it are ordered (R198, R213, R235). -/
def Obligations.WaitsOfAccessesEnd : Prop :=
  ReleasesAreSent ∧ FencesEnd

/-- The home of a line performs the requests that reach it (R195, R196, R205, R229 to R234). -/
def Obligations.HomesPerformRequests : Prop :=
  HomesAnswerLoads ∧ HomesPerformStores ∧ HomesPerformAtomics

/-- The reply of a load lands in the registers of its op, and the request is over (R22, R162, R220, R225). -/
def Obligations.RepliesLand : Prop :=
  RepliesComeBack

/-- Caches evict, page walks fill TLBs, tokens meter the requests to another die, and peers answer and ask (R195, R211, R212,
R231, R366 to R369). -/
def Obligations.CachesAndTokensProceed : Prop :=
  EvictionsKeepExpiries ∧ WalksFillTlbs ∧ TokensMeterRequests ∧ PeersAnswer

/-- A copy is accepted, counts its arrival word, and completes (R240, R243, R244, R253; log entry 37 for the reads of its indices). -/
def Obligations.CopiesProceed : Prop :=
  CopiesAreAccepted ∧ ArrivalWordsCount ∧ CopiesComplete

/-- An agent that waits goes on when what it waits for has come (R153, R224, R247, R252, R289). -/
def Obligations.WaitersWake : Prop :=
  AwaitsWake ∧ RingWaitsEnd ∧ TakesComplete ∧ PresenceResumes ∧ JoinWaitsEnd

/-- Teams are placed and retire, grids start and retire, and a launch that found no place spills (R157, R255 to R260, R264). -/
def Obligations.GridsAndTeamsProceed : Prop :=
  TeamsArePlaced ∧ GridsStart ∧ TeamsAndGridsRetire ∧ SpillsTimeOut

/-- Joins flush and release, warps land on another core, and the pager fills pages (R216, R217, R286, R287, R373, R374). -/
def Obligations.JoinsAndWarpsMove : Prop :=
  JoinsEnd ∧ WarpsMigrate ∧ PagesAreFilled

/-- Pre-emption chooses how a team leaves, and a team is saved and restored (R322 to R325). -/
def Obligations.TeamsLeaveCores : Prop :=
  PreemptionChooses ∧ TeamsAreSavedAndRestored

/-- The samplers, the stipple watch and the debugger do what they are told (R341, R346, R350 to R356). -/
def Obligations.ObserversWork : Prop :=
  SamplersAreSet ∧ SamplesAreWritten ∧ DebuggerCommands

/-- The host writes registers, rings doorbells, and writes and reads through its window (R3, R342, R379, R381 to R383; log entries 30, 57
and 58). -/
def Obligations.HostAccessesComplete : Prop :=
  HostRegistersAreWritten ∧ WindowWritesArePerformed ∧ WindowReadsAnswer

/-- The commands of the host complete (R386; log entries 59, 60, 62, 63, 83 and 92). -/
def Obligations.HostCommandsComplete : Prop :=
  ContextCommands ∧ QueueCommands ∧ ImageCommands

/-- Dies come up, a restrike ends, and a frequency changes (R385, R392, R395; log entries 1, 60, 64 and 65). -/
def Obligations.BringUpAndRestrikeProceed : Prop :=
  BringUpProceeds ∧ RestrikesEnd ∧ FrequenciesChange

/-! ## Decoding, reset, steps and frames -/

namespace Sys2Proof.Claims

/-- Words written out from the encodings of R58 to R63, the place each stands in, and the instruction it stands for. -/
def words : List (Stream × W32 × Instr) :=
  [ (.slot 1, 0b000000_0_000_000000_000000_000000_0010, .endOp ⟨false, 0⟩),
    (.slot 1, 0b000000_0_000_000000_000000_000000_0100, .segb ⟨false, 0⟩),
    (.slot 0, 0b000011_0_000_000010_000000_0000000010, .loop ⟨false, 0⟩ 2 2),
    (.warp, 0b000001_1_101_1111111111111111111111, .bra ⟨true, 5⟩ 0x3FFFFF),
    (.slot 1, 0b000110_0_000_000000_0000000000000111, .rdv ⟨false, 0⟩ 7),
    (.slot 0, 0b001010_0_000_000011_000011_0000000001, .addi ⟨false, 0⟩ 3 3 1),
    (.warp, 0b001001_0_000_000110_000100_000010_1110, .lea ⟨false, 0⟩ 6 4 2 2),
    (.slot 1, 0b001001_0_000_000001_000011_000011_0010, .mac ⟨false, 0⟩ 1 3 3),
    (.warp, 0b010100_0_000_011_010_000101_000110_0000, .cmp ⟨false, 0⟩ 3 .lt 5 6),
    (.warp, 0b010110_0_000_000010_000001_000011_0001, .por ⟨false, 0⟩ 2 1 3),
    (.warp, 0b011000_1_001_000111_001000_001001_0101, .ffma ⟨true, 1⟩ 7 8 9 .rz),
    (.warp, 0b011100_0_000_000001_000010_000110_0000, .cvtf ⟨false, 0⟩ 1 2 .f32Bf true),
    (.warp, 0b011101_0_000_000001_000010_000011_0110, .shflXor ⟨false, 0⟩ 1 2 3),
    (.slot 0, 0b011110_0_000_001001_0000_000000001001, .srd ⟨false, 0⟩ 9 0x009),
    (.slot 1, 0b011110_0_000_000010_1000_000000010000, .swr ⟨false, 0⟩ 2 0x010),
    (.slot 4, 0b011111_0_000_000000_000010_000101_0000, .give ⟨false, 0⟩ 2 5),
    (.warp, 0b100000_0_000_001000_000100_01_01_011_000, .ld ⟨false, 0⟩ 8 4 .clu .sync .b64 false),
    (.slot 7, 0b100001_0_000_001001_000101_00_10_010_000, .st ⟨false, 0⟩ 9 5 .core .strong .b32),
    (.warp, 0b100100_0_000_000001_000010_000011_0011, .atom ⟨false, 0⟩ 1 2 3 .hfadd2),
    (.slot 6, 0b100111_0_000_000000_0000000000000_1_10, .tfence ⟨false, 0⟩ .dev),
    (.warp, 0b101010_0_000_000010_000100_001011_0000, .racqTry ⟨false, 0⟩ 2 4 3),
    (.warp, 0b101011_0_000_000001_000100_000000_0101, .migr ⟨false, 0⟩ 1 4),
    (.slot 1, 0b101100_0_000_000000_0000_00001000_0011, .bar ⟨false, 0⟩ 8 3),
    (.slot 2, 0b110001_0_000_000001_000010_000011_1111, .mmaz ⟨false, 0⟩ 1 2 3 15),
    (.slot 3, 0b110100_0_000_000001_000010_000011_1011, .tcvt ⟨false, 0⟩ 1 2 3),
    (.slot 4, 0b110101_0_000_000001_000010_000000_0100, .ttrn ⟨false, 0⟩ 1 2),
    (.slot 5, 0b110110_0_000_000001_000010_000000_0010, .srcp ⟨false, 0⟩ 1 2),
    (.slot 6, 0b110111_0_000_000001_000010_000011_1010, .tld ⟨false, 0⟩ 1 2 3 true .cols) ]

/-- `bs` are the code bytes at an aligned address of a team's code region, whose page is in reach (R27, R29, R211). -/
structure CodeAt (s : State) (k : CoreId) (team : Nat) (a : W64) (n : Nat) (bs : List Byte) : Prop where
  aligned : a.toNat % n = 0
  inside : inRegion s team a = true
  bytes : ∃ z p l, translate s k (teamCtx s team) .fetch a.toNat = .ok (.dev z) p l ∧ devBytes s z n = bs

/-- Fragment f's turn comes, and nothing but its next op stands in its way: it may run, and no debugger asks for it. -/
structure FragTurn (s : State) (k : CoreId) (f : FragId) (x : Frag) (w : Warp) : Prop where
  frag : fragAt (coreAt s k) f = some x
  warp : warpAt (coreAt s k) x.warp = some w
  runs : fragRuns s k x = true
  watch : x.watch = false
  steps : x.step = false
  break_ : breakFrag s k f = none

/-- A fragment's turn runs the op at its PC; in a cycle in which the two cores of its protected pair do not agree, the op traps with SEH
CODE 2 (R141, R315; that the mismatch takes the place of the cycle's op is log entry 31). -/
def FragmentsRunTheirOps : Prop :=
  ∀ (s : State) (rest : List Choice) (k : CoreId) (f : FragId) (x : Frag) (w : Warp) (bs : List Byte),
    s.agenda = .frag k f :: rest → FragTurn { s with agenda := rest } k f x w → CodeAt { s with agenda := rest } k w.team x.pc 4 bs →
    ∀ u, u = noteWalk { s with agenda := rest } k (teamCtx s w.team) x.pc.toNat →
    (∀ i, decode .warp (wordAt bs) 0 = .ok i → i.isLong = false → fragCan u k f x i = true → haltsBefore u k f x i = none →
      (pairDiffers u k w.team = false → step s = mapNext (afterIssue k f x i u) (mapNext noIssue
        (exec i { onFrag (freshSel u k f x) k f (fun y => { y with resume := true }) with issuer := .frag k f }))) ∧
      (pairDiffers u k w.team = true → step s = .next (warpAfter k x.warp i x.pc (otherFrags u k f x) (pairFrag u k f x)))) ∧
    (∀ i j bs' u', decode .warp (wordAt bs) 0 = .ok j → j.isLong = true → CodeAt u k w.team (x.pc + 4) 4 bs' →
      u' = noteWalk u k (teamCtx s w.team) (x.pc + 4).toNat → decode .warp (wordAt bs) (wordAt bs') = .ok i →
      fragCan u' k f x i = true → haltsBefore u' k f x i = none → pairDiffers u' k w.team = false →
      step s = mapNext (afterIssue k f x i u') (mapNext noIssue
        (exec i { onFrag (freshSel u' k f x) k f (fun y => { y with resume := true }) with issuer := .frag k f })))

/-- A strand's turn comes, its due results have landed, and nothing but the slots of its next bundle stands in its way. -/
structure StrandTurn (s u : State) (k : CoreId) (n : StrandId) (x : Strand) (bs : List Byte) : Prop where
  before : ∃ y, strandAt (coreAt s k) n = some y ∧ strandRuns s k n y = true ∧ y.rewinding = false
  noSkip : skipBundle s k n = none
  strand : strandAt (coreAt (landDue s k n) k) n = some x
  runs : strandRuns (landDue s k n) k n x = true
  fresh : x.fx = {}
  code : CodeAt (landDue s k n) k x.team x.pc 32 bs
  fetched : u = noteWalk (landDue s k n) k (teamCtx (landDue s k n) x.team) x.pc.toNat
  legal : badSlot bs = none
  ready : allSlots.filter (slotWaits u k n x bs) = []
  earlier : earlierWaits u k n x bs = false
  steps : x.step = false
  break_ : strandBreak u x = none

/-- A strand's turn issues the slots of the bundle at its PC; the one active slot of a bundle is run, and the bundle is then over. -/
def StrandsRunTheirBundles : Prop :=
  ∀ (s u : State) (rest : List Choice) (k : CoreId) (n : StrandId) (x : Strand) (bs : List Byte),
    s.agenda = .strand k n :: rest → StrandTurn { s with agenda := rest } u k n x bs →
    step s = issueSlots k n x bs u ∧
    ∀ (m : Slot) (i : Instr) (t t' : State) (y z : Strand), slotsLeft x bs = [m] → slotOp bs m = .op i →
      exec i { u with issuer := .strand k n m, start := some (coreAt u k) } = .next t → strandAt (coreAt t k) n = some y →
      y.fx.stall = none → y.fx.rewind = false → y.fx.faults = [] → pairDiffers u k x.team = false →
      (x.segOpen = false ∨ (slotCloses bs m = false ∧ y.fx.close = false)) → t' = extendGiven (carryGiven (noIssue t) k n) k n →
      strandAt (coreAt t' k) n = some z → z.fx.faults = [] → z.fx.later = [] → (∀ c d, z.state ≠ .halted c d) →
      step s = .next (finishBundle t' k n x bs)

/-- An event of the agenda takes effect when it is enabled, and passes when it is not; an empty agenda is filled. The agenda is the model's own
(log entry 2). -/
def EventsRun : Prop :=
  ∀ (s : State),
    (s.agenda = [] → step s = .next (plan s)) ∧
    ∀ (i : Instr) (rest : List Choice), s.agenda = .event i :: rest →
      (∀ t, exec i { s with agenda := rest, issuer := .none, start := none } = .next t → step s = .next t) ∧
      (exec i { s with agenda := rest, issuer := .none, start := none } = .refused .notEnabled → step s = .next { s with agenda := rest })

/-- A per-lane op of the tables. -/
def laneRow (i : Instr) : Option LaneRow :=
  ((aluRow i).map AluRow.lane).or ((wideLane i).or ((predRow i).or ((shflRow i).or (floatRow i))))

/-- A slot op of the tables. -/
def slotRow (i : Instr) : Option SlotRow := ((aluRow i).map AluRow.slot).or ((wideSlot i).or (predSlot i))

/-- Nothing of a core but one warp, one of its fragments and the tiles has changed. -/
structure OneFragment (s t : State) (k : CoreId) (f : FragId) (ix : WarpIx) : Prop extends OneCore s t k where
  strands : ∀ n, strandAt (coreAt t k) n = strandAt (coreAt s k) n
  frags : ∀ g, g ≠ f → fragAt (coreAt t k) g = fragAt (coreAt s k) g
  warps : ∀ j, j ≠ ix → warpAt (coreAt t k) j = warpAt (coreAt s k) j

end Sys2Proof.Claims

/-- Words written out bit by bit from the spec's encodings decode to the instructions that they stand for (R58 to R63). -/
def Obligations.WrittenWordsDecode : Prop := ∀ p ∈ words, decode p.1 p.2.1 0 = .ok p.2.2

/-- Every word that a place takes comes back from its encoding with every operand, whatever the operands are (R58 to R64). -/
def Obligations.EncodedOpsDecode : Prop :=
  ∀ (st : Stream) (i : Instr), i.wf st = true →
    decode st i.encode i.extWord = .ok i ∧ (i.isLong = false → ∀ ext, decode st i.encode ext = .ok i)

/-- A word that decodes is the encoding of its instruction, and the instruction is legal in its place: no two words of a place are one
instruction (R64). -/
def Obligations.DecodedWordsAreEncodings : Prop :=
  ∀ (st : Stream) (w ext : W32) (i : Instr), decode st w ext = .ok i →
    i.encode = w ∧ (i.isLong = true → i.extWord = ext) ∧ i.wf st = true ∧ i.isOp = true

/-- After reset every die is in RESET and nothing is resident, the host's registers, the samplers and the loop counters hold the reset
values of their tables, the status block reads them (IDENT.PART, DSTATE, FWVER, TICKR, RSTAT and PWRSTAT), other registers read all ones,
and the memories keep their form (R350, R355, R356, R384 to R386; that memory lists nothing is log entry 1, and that the tick and the cores'
cycles start from 0 log entry 9). -/
def Obligations.ResetHoldsResetValues : Prop :=
  (∀ d, let y := dieAt State.reset d
    y.state = .reset ∧ y.err = 0 ∧ y.pair = false ∧ y.cross = false ∧ y.strikes = 0 ∧ y.rst = .idle ∧ y.stipple.en = false ∧
    y.stipple.ctx = 0 ∧ y.stipple.k = 0 ∧ y.stipple.krn = Vector.replicate 4 0 ∧ y.stipple.new = Vector.replicate 4 0 ∧
    y.stipple.hist = Vector.replicate 4 (Vector.replicate 32 0)) ∧
  (∀ p, let q := portAt State.reset p
    q.winbase = 0 ∧ q.args = Vector.replicate 4 0 ∧ q.hcmd = 0 ∧ q.hstat = 0) ∧
  (∀ k, let c := coreAt State.reset k
    (∀ n, strandAt c n = none) ∧ (∀ f, fragAt c f = none) ∧ (∀ w, warpAt c w = none) ∧ c.seats = [] ∧ c.cycle = 0 ∧
    c.sampler.en = false ∧ c.sampler.period = 17 ∧ c.sampler.ctx = 0 ∧ samplerBusy State.reset k = false ∧
    c.sampler.base = 0 ∧ c.sampler.count = 0 ∧ c.sampler.idx = 0 ∧ c.sampler.drop = 0 ∧
    ∀ n : StrandId, c.loopCtr[n] = { sel := 0, filled := .replicate 8 0, empty := .replicate 8 0, stall := .replicate 8 0 }) ∧
  (∀ c, ctxAt State.reset c = none) ∧ (∀ q, queueAt State.reset q = none) ∧ State.reset.tick = 0 ∧ State.reset.memOk ∧
  ∀ p, (∀ off ∈ [0x08, 0x10, 0x20, 0x28, 0x30], ∃ t, exec (.windowRead p .bar0 off 8) State.reset = .next t ∧
      (portAt t p).reads = [bytesLE 8 0]) ∧
    (∃ t v, exec (.windowRead p .bar0 0x00 8) State.reset = .next t ∧ (portAt t p).reads = [bytesLE 8 v] ∧
      v / 2 ^ 48 = 0x0F44 ∧ v / 4 % 2 ^ 38 = 0 ∧ v % 4 = p.val) ∧
    (∃ t, exec (.windowRead p .bar0 0x1028 8) State.reset = .next t ∧ (portAt t p).reads = [List.replicate 8 0xFF])

/-- Every step keeps the canonical form of device memory, host memory and every shared memory. -/
def Obligations.StepKeepsMemoryForm : Prop := ∀ s s' : State, s.memOk → step s = .next s' → s'.memOk

/-- A step runs the instruction that stands at the program counter: a fragment's op, a strand's bundle, or an event that is due (R12 to
R15, R27, R141; the agenda and its events are log entry 2, and a mismatch of a pair in the place of the op is log entry 31). -/
def Obligations.StepRunsDecodedOp : Prop := FragmentsRunTheirOps ∧ StrandsRunTheirBundles ∧ EventsRun

/-- The frame of the per-lane ops of a warp: lanes that take no part keep everything, the others every register and predicate that is no
destination, and the rest of the machine but the warp's counts, its flags and the window's tile is as it was (R25, R159, R161, R162). -/
def Obligations.LaneOpsFrame : Prop :=
  ∀ (i : Instr) (r : LaneRow), laneRow i = some r →
    ∀ (s : State) (k : CoreId) (f : FragId) (x : Frag) (w : Warp), LaneTakes s i r.g k f x w →
      LaneClean (laneEnv s i r.g k f x w) r.srcs r.dsts →
      ∃ t x' w', exec i s = .next t ∧ OneFragment s t k f x.warp ∧ fragAt (coreAt t k) f = some x' ∧ warpAt (coreAt t k) x.warp = some w' ∧
        { x' with num := x.num, pc := x.pc, score := x.score } = x ∧
        { w' with wisn := w.wisn, fpstat := w.fpstat, lanes := w.lanes, now := w.now } = w ∧ w'.fpstat &&& w.fpstat = w.fpstat ∧
        ((∀ l, (r.res (laneEnv s i r.g k f x w) l).flags = 0#5) → w'.fpstat = w.fpstat) ∧
        (∀ l : Lane, laneIn (partsOf w x.mask r.g) l = false → w'.lanes[l] = w.lanes[l]) ∧
        (∀ (l : Lane) (m : Fin 48), BitVec.ofNat 6 m.val ∉ r.dsts → w'.lanes[l].v[m] = w.lanes[l].v[m]) ∧
        (∀ (l : Lane) p, p ∉ r.pds → predGet w'.lanes[l].p p = predGet w.lanes[l].p p) ∧
        (∀ l : Lane, w'.lanes[l].bankV = w.lanes[l].bankV ∧ w'.lanes[l].bankP = w.lanes[l].bankP) ∧
        ((∀ d ∈ r.dsts, isY d = false) → ∀ team m, tileAt (coreAt t k) team m = tileAt (coreAt s k) team m) ∧
        (∀ team m, (team = w.team → (atCycle w).sel ≠ some m) → tileAt (coreAt t k) team m = tileAt (coreAt s k) team m)

/-- The frame of the register ops of a strand: one result is on its way, and nothing else of the machine has changed; the registers
themselves keep their values until it lands (R18, R25). -/
def Obligations.StrandOpsFrame : Prop :=
  ∀ (i : Instr) (r : SlotRow), slotRow i = some r →
    ∀ (s : State) (k : CoreId) (n : StrandId) (slot : Slot) (st cur : Strand), SlotTakes s i r.g k n slot st cur →
      ∃ t st', exec i s = .next t ∧ OneCore s t k ∧ strandAt (coreAt t k) n = some st' ∧ { st' with pend := cur.pend } = cur ∧
        (∀ n', n' ≠ n → strandAt (coreAt t k) n' = strandAt (coreAt s k) n') ∧ (∀ f, fragAt (coreAt t k) f = fragAt (coreAt s k) f) ∧
        (∀ ix, warpAt (coreAt t k) ix = warpAt (coreAt s k) ix) ∧
        (∀ team m, tileAt (coreAt t k) team m = tileAt (coreAt s k) team m)

/-- The frame of loads and stores: a load of a warp changes no byte of memory and no register until its value returns; a store to a shared
memory writes its own bytes, in order from its address, as it is sent, and no other byte of any memory (R191, R218 to R222). -/
def Obligations.MemoryOpsFrame : Prop :=
  (∀ (i : Instr) (r : LoadRow), loadRow i = some r →
    ∀ (s : State) (k : CoreId) (f : FragId) (x : Frag) (w : Warp) (e : WarpEnv), LaneTakes s i r.g k f x w → e = laneEnv s i r.g k f x w →
      LaneClean e [r.a, r.a + 1] (valueRegs r.d r.w) →
      AccsPass (countedState s e) (warpIssue s e) i .load (logWidth r.w) false (accesses e r.a r.off (2 ^ logWidth r.w)) →
      ∃ t, exec i s = .next t ∧ SameBytes s t ∧
        (∀ k' ix, (warpAt (coreAt t k') ix).map (·.lanes) = (warpAt (coreAt s k') ix).map (·.lanes)) ∧
        (∀ k' n, strandAt (coreAt t k') n = strandAt (coreAt s k') n) ∧
        ∀ k' team m, tileAt (coreAt t k') team m = tileAt (coreAt s k') team m) ∧
  (∀ (s : State) (q : Issue) (p : NewReq) (k : CoreId) (team off : Nat) (bs : List Byte), s.memOk → reqAt s s.nextId = none →
    p.loc = .shared k team off → p.op = .store bs → p.rel = none → (∀ a ∈ p.after, reqAt s a = none) → p.hit = none →
    (seatAt (coreAt s k) team).isSome → (∀ a ∈ s.reqs, s.nextId ∉ a.after ∧ (a.core = q.k → sendable a = false)) →
    (p.cost = 0 ∨ isRemote q.k p.loc = false ∨ bucketSize s q.ctx (tokenClass p.op) = 0) →
    let t := newReq s q p
    Wrote (sharedMem s k team) (sharedMem t k team) off bs ∧ t.dev = s.dev ∧ t.host = s.host ∧ (p.isRel = false → t.reqs = s.reqs) ∧
    ∀ k' team', (k', team') ≠ (k, team) → sharedMem t k' team' = sharedMem s k' team')

/-- An op that no lane of its fragment takes part in is counted and passed, and a slot whose guard is false does nothing (R25, R159,
R299). -/
def Obligations.GuardedOffOpsDoNothing : Prop :=
  (∀ (s : State) (i : Instr) (k : CoreId) (f : FragId) (x : Frag) (w : Warp), FragIssues s k f x w → i.wf .warp = true →
    guardless i = false → partsOf w x.mask (guardOf i) = 0#32 →
    ∀ e, e = laneEnv s i (guardOf i) k f x w → exec i s = .next (fragDone s e (nextFrag e) (countedWarp w))) ∧
  (∀ (s : State) (i : Instr) (k : CoreId) (n : StrandId) (slot : Slot) (st cur : Strand), SlotIssues s k n slot st cur →
    i.wf (.slot slot) = true → guardless i = false → opGuard (slotEnv s i k n slot st) (guardOf i) = false → exec i s = .next s)
end

