-- ==== Sys2Proof/Laws/State.lean ====
section
/-! SUPPORT. What each update of the state, and of a core, leaves alone: one lemma per field per update, and what the
accessors read after it. Later proofs cite these and unfold no update. -/

namespace Sys2Proof.Machine

/-! ### setCore -/

@[simp] theorem setCore_tick (s : State) (k : CoreId) (c : Core) : (setCore s k c).tick = s.tick := rfl
@[simp] theorem setCore_quarter (s : State) (k : CoreId) (c : Core) : (setCore s k c).quarter = s.quarter := rfl
@[simp] theorem setCore_dies (s : State) (k : CoreId) (c : Core) : (setCore s k c).dies = s.dies := rfl
@[simp] theorem setCore_ports (s : State) (k : CoreId) (c : Core) : (setCore s k c).ports = s.ports := rfl
@[simp] theorem setCore_ctxs (s : State) (k : CoreId) (c : Core) : (setCore s k c).ctxs = s.ctxs := rfl
@[simp] theorem setCore_queues (s : State) (k : CoreId) (c : Core) : (setCore s k c).queues = s.queues := rfl
@[simp] theorem setCore_dev (s : State) (k : CoreId) (c : Core) : (setCore s k c).dev = s.dev := rfl
@[simp] theorem setCore_host (s : State) (k : CoreId) (c : Core) : (setCore s k c).host = s.host := rfl
@[simp] theorem setCore_lines (s : State) (k : CoreId) (c : Core) : (setCore s k c).lines = s.lines := rfl
@[simp] theorem setCore_floors (s : State) (k : CoreId) (c : Core) : (setCore s k c).floors = s.floors := rfl
@[simp] theorem setCore_reqs (s : State) (k : CoreId) (c : Core) : (setCore s k c).reqs = s.reqs := rfl
@[simp] theorem setCore_marks (s : State) (k : CoreId) (c : Core) : (setCore s k c).marks = s.marks := rfl
@[simp] theorem setCore_syncs (s : State) (k : CoreId) (c : Core) : (setCore s k c).syncs = s.syncs := rfl
@[simp] theorem setCore_teams (s : State) (k : CoreId) (c : Core) : (setCore s k c).teams = s.teams := rfl
@[simp] theorem setCore_grids (s : State) (k : CoreId) (c : Core) : (setCore s k c).grids = s.grids := rfl
@[simp] theorem setCore_past (s : State) (k : CoreId) (c : Core) : (setCore s k c).past = s.past := rfl
@[simp] theorem setCore_pastGrids (s : State) (k : CoreId) (c : Core) : (setCore s k c).pastGrids = s.pastGrids := rfl
@[simp] theorem setCore_joins (s : State) (k : CoreId) (c : Core) : (setCore s k c).joins = s.joins := rfl
@[simp] theorem setCore_held (s : State) (k : CoreId) (c : Core) : (setCore s k c).held = s.held := rfl
@[simp] theorem setCore_heldCmap (s : State) (k : CoreId) (c : Core) : (setCore s k c).heldCmap = s.heldCmap := rfl
@[simp] theorem setCore_fills (s : State) (k : CoreId) (c : Core) : (setCore s k c).fills = s.fills := rfl
@[simp] theorem setCore_wants (s : State) (k : CoreId) (c : Core) : (setCore s k c).wants = s.wants := rfl
@[simp] theorem setCore_failed (s : State) (k : CoreId) (c : Core) : (setCore s k c).failed = s.failed := rfl
@[simp] theorem setCore_nextId (s : State) (k : CoreId) (c : Core) : (setCore s k c).nextId = s.nextId := rfl
@[simp] theorem setCore_free (s : State) (k : CoreId) (c : Core) : (setCore s k c).free = s.free := rfl
@[simp] theorem setCore_agenda (s : State) (k : CoreId) (c : Core) : (setCore s k c).agenda = s.agenda := rfl
@[simp] theorem setCore_issuer (s : State) (k : CoreId) (c : Core) : (setCore s k c).issuer = s.issuer := rfl
@[simp] theorem setCore_start (s : State) (k : CoreId) (c : Core) : (setCore s k c).start = s.start := rfl
@[simp] theorem dieAt_setCore (s : State) (k : CoreId) (c : Core) (d' : DieId) : dieAt (setCore s k c) d' = dieAt s d' := rfl
@[simp] theorem portAt_setCore (s : State) (k : CoreId) (c : Core) (p' : PortId) : portAt (setCore s k c) p' = portAt s p' := rfl
@[simp] theorem ctxAt_setCore (s : State) (k : CoreId) (c : Core) (c' : CtxId) : ctxAt (setCore s k c) c' = ctxAt s c' := rfl
@[simp] theorem queueAt_setCore (s : State) (k : CoreId) (c : Core) (q' : QueueId) : queueAt (setCore s k c) q' = queueAt s q' := rfl
@[simp] theorem teamAt_setCore (s : State) (k : CoreId) (c : Core) (t' : Nat) : teamAt (setCore s k c) t' = teamAt s t' := rfl
@[simp] theorem gridAt_setCore (s : State) (k : CoreId) (c : Core) (g' : Nat) : gridAt (setCore s k c) g' = gridAt s g' := rfl
@[simp] theorem joinAt_setCore (s : State) (k : CoreId) (c : Core) (j' : Nat) : joinAt (setCore s k c) j' = joinAt s j' := rfl
@[simp] theorem reqAt_setCore (s : State) (k : CoreId) (c : Core) (r' : Nat) : reqAt (setCore s k c) r' = reqAt s r' := rfl

/-! ### modCore -/

@[simp] theorem modCore_tick (s : State) (k : CoreId) (g : Core → Core) : (modCore s k g).tick = s.tick := rfl
@[simp] theorem modCore_quarter (s : State) (k : CoreId) (g : Core → Core) : (modCore s k g).quarter = s.quarter := rfl
@[simp] theorem modCore_dies (s : State) (k : CoreId) (g : Core → Core) : (modCore s k g).dies = s.dies := rfl
@[simp] theorem modCore_ports (s : State) (k : CoreId) (g : Core → Core) : (modCore s k g).ports = s.ports := rfl
@[simp] theorem modCore_ctxs (s : State) (k : CoreId) (g : Core → Core) : (modCore s k g).ctxs = s.ctxs := rfl
@[simp] theorem modCore_queues (s : State) (k : CoreId) (g : Core → Core) : (modCore s k g).queues = s.queues := rfl
@[simp] theorem modCore_dev (s : State) (k : CoreId) (g : Core → Core) : (modCore s k g).dev = s.dev := rfl
@[simp] theorem modCore_host (s : State) (k : CoreId) (g : Core → Core) : (modCore s k g).host = s.host := rfl
@[simp] theorem modCore_lines (s : State) (k : CoreId) (g : Core → Core) : (modCore s k g).lines = s.lines := rfl
@[simp] theorem modCore_floors (s : State) (k : CoreId) (g : Core → Core) : (modCore s k g).floors = s.floors := rfl
@[simp] theorem modCore_reqs (s : State) (k : CoreId) (g : Core → Core) : (modCore s k g).reqs = s.reqs := rfl
@[simp] theorem modCore_marks (s : State) (k : CoreId) (g : Core → Core) : (modCore s k g).marks = s.marks := rfl
@[simp] theorem modCore_syncs (s : State) (k : CoreId) (g : Core → Core) : (modCore s k g).syncs = s.syncs := rfl
@[simp] theorem modCore_teams (s : State) (k : CoreId) (g : Core → Core) : (modCore s k g).teams = s.teams := rfl
@[simp] theorem modCore_grids (s : State) (k : CoreId) (g : Core → Core) : (modCore s k g).grids = s.grids := rfl
@[simp] theorem modCore_past (s : State) (k : CoreId) (g : Core → Core) : (modCore s k g).past = s.past := rfl
@[simp] theorem modCore_pastGrids (s : State) (k : CoreId) (g : Core → Core) : (modCore s k g).pastGrids = s.pastGrids := rfl
@[simp] theorem modCore_joins (s : State) (k : CoreId) (g : Core → Core) : (modCore s k g).joins = s.joins := rfl
@[simp] theorem modCore_held (s : State) (k : CoreId) (g : Core → Core) : (modCore s k g).held = s.held := rfl
@[simp] theorem modCore_heldCmap (s : State) (k : CoreId) (g : Core → Core) : (modCore s k g).heldCmap = s.heldCmap := rfl
@[simp] theorem modCore_fills (s : State) (k : CoreId) (g : Core → Core) : (modCore s k g).fills = s.fills := rfl
@[simp] theorem modCore_wants (s : State) (k : CoreId) (g : Core → Core) : (modCore s k g).wants = s.wants := rfl
@[simp] theorem modCore_failed (s : State) (k : CoreId) (g : Core → Core) : (modCore s k g).failed = s.failed := rfl
@[simp] theorem modCore_nextId (s : State) (k : CoreId) (g : Core → Core) : (modCore s k g).nextId = s.nextId := rfl
@[simp] theorem modCore_free (s : State) (k : CoreId) (g : Core → Core) : (modCore s k g).free = s.free := rfl
@[simp] theorem modCore_agenda (s : State) (k : CoreId) (g : Core → Core) : (modCore s k g).agenda = s.agenda := rfl
@[simp] theorem modCore_issuer (s : State) (k : CoreId) (g : Core → Core) : (modCore s k g).issuer = s.issuer := rfl
@[simp] theorem modCore_start (s : State) (k : CoreId) (g : Core → Core) : (modCore s k g).start = s.start := rfl
@[simp] theorem dieAt_modCore (s : State) (k : CoreId) (g : Core → Core) (d' : DieId) : dieAt (modCore s k g) d' = dieAt s d' := rfl
@[simp] theorem portAt_modCore (s : State) (k : CoreId) (g : Core → Core) (p' : PortId) : portAt (modCore s k g) p' = portAt s p' := rfl
@[simp] theorem ctxAt_modCore (s : State) (k : CoreId) (g : Core → Core) (c' : CtxId) : ctxAt (modCore s k g) c' = ctxAt s c' := rfl
@[simp] theorem queueAt_modCore (s : State) (k : CoreId) (g : Core → Core) (q' : QueueId) : queueAt (modCore s k g) q' = queueAt s q' := rfl
@[simp] theorem teamAt_modCore (s : State) (k : CoreId) (g : Core → Core) (t' : Nat) : teamAt (modCore s k g) t' = teamAt s t' := rfl
@[simp] theorem gridAt_modCore (s : State) (k : CoreId) (g : Core → Core) (g' : Nat) : gridAt (modCore s k g) g' = gridAt s g' := rfl
@[simp] theorem joinAt_modCore (s : State) (k : CoreId) (g : Core → Core) (j' : Nat) : joinAt (modCore s k g) j' = joinAt s j' := rfl
@[simp] theorem reqAt_modCore (s : State) (k : CoreId) (g : Core → Core) (r' : Nat) : reqAt (modCore s k g) r' = reqAt s r' := rfl

/-! ### onFrag -/

@[simp] theorem onFrag_tick (s : State) (k : CoreId) (f : FragId) (g : Frag → Frag) : (onFrag s k f g).tick = s.tick := rfl
@[simp] theorem onFrag_quarter (s : State) (k : CoreId) (f : FragId) (g : Frag → Frag) : (onFrag s k f g).quarter = s.quarter := rfl
@[simp] theorem onFrag_dies (s : State) (k : CoreId) (f : FragId) (g : Frag → Frag) : (onFrag s k f g).dies = s.dies := rfl
@[simp] theorem onFrag_ports (s : State) (k : CoreId) (f : FragId) (g : Frag → Frag) : (onFrag s k f g).ports = s.ports := rfl
@[simp] theorem onFrag_ctxs (s : State) (k : CoreId) (f : FragId) (g : Frag → Frag) : (onFrag s k f g).ctxs = s.ctxs := rfl
@[simp] theorem onFrag_queues (s : State) (k : CoreId) (f : FragId) (g : Frag → Frag) : (onFrag s k f g).queues = s.queues := rfl
@[simp] theorem onFrag_dev (s : State) (k : CoreId) (f : FragId) (g : Frag → Frag) : (onFrag s k f g).dev = s.dev := rfl
@[simp] theorem onFrag_host (s : State) (k : CoreId) (f : FragId) (g : Frag → Frag) : (onFrag s k f g).host = s.host := rfl
@[simp] theorem onFrag_lines (s : State) (k : CoreId) (f : FragId) (g : Frag → Frag) : (onFrag s k f g).lines = s.lines := rfl
@[simp] theorem onFrag_floors (s : State) (k : CoreId) (f : FragId) (g : Frag → Frag) : (onFrag s k f g).floors = s.floors := rfl
@[simp] theorem onFrag_reqs (s : State) (k : CoreId) (f : FragId) (g : Frag → Frag) : (onFrag s k f g).reqs = s.reqs := rfl
@[simp] theorem onFrag_marks (s : State) (k : CoreId) (f : FragId) (g : Frag → Frag) : (onFrag s k f g).marks = s.marks := rfl
@[simp] theorem onFrag_syncs (s : State) (k : CoreId) (f : FragId) (g : Frag → Frag) : (onFrag s k f g).syncs = s.syncs := rfl
@[simp] theorem onFrag_teams (s : State) (k : CoreId) (f : FragId) (g : Frag → Frag) : (onFrag s k f g).teams = s.teams := rfl
@[simp] theorem onFrag_grids (s : State) (k : CoreId) (f : FragId) (g : Frag → Frag) : (onFrag s k f g).grids = s.grids := rfl
@[simp] theorem onFrag_past (s : State) (k : CoreId) (f : FragId) (g : Frag → Frag) : (onFrag s k f g).past = s.past := rfl
@[simp] theorem onFrag_pastGrids (s : State) (k : CoreId) (f : FragId) (g : Frag → Frag) : (onFrag s k f g).pastGrids = s.pastGrids := rfl
@[simp] theorem onFrag_joins (s : State) (k : CoreId) (f : FragId) (g : Frag → Frag) : (onFrag s k f g).joins = s.joins := rfl
@[simp] theorem onFrag_held (s : State) (k : CoreId) (f : FragId) (g : Frag → Frag) : (onFrag s k f g).held = s.held := rfl
@[simp] theorem onFrag_heldCmap (s : State) (k : CoreId) (f : FragId) (g : Frag → Frag) : (onFrag s k f g).heldCmap = s.heldCmap := rfl
@[simp] theorem onFrag_fills (s : State) (k : CoreId) (f : FragId) (g : Frag → Frag) : (onFrag s k f g).fills = s.fills := rfl
@[simp] theorem onFrag_wants (s : State) (k : CoreId) (f : FragId) (g : Frag → Frag) : (onFrag s k f g).wants = s.wants := rfl
@[simp] theorem onFrag_failed (s : State) (k : CoreId) (f : FragId) (g : Frag → Frag) : (onFrag s k f g).failed = s.failed := rfl
@[simp] theorem onFrag_nextId (s : State) (k : CoreId) (f : FragId) (g : Frag → Frag) : (onFrag s k f g).nextId = s.nextId := rfl
@[simp] theorem onFrag_free (s : State) (k : CoreId) (f : FragId) (g : Frag → Frag) : (onFrag s k f g).free = s.free := rfl
@[simp] theorem onFrag_agenda (s : State) (k : CoreId) (f : FragId) (g : Frag → Frag) : (onFrag s k f g).agenda = s.agenda := rfl
@[simp] theorem onFrag_issuer (s : State) (k : CoreId) (f : FragId) (g : Frag → Frag) : (onFrag s k f g).issuer = s.issuer := rfl
@[simp] theorem onFrag_start (s : State) (k : CoreId) (f : FragId) (g : Frag → Frag) : (onFrag s k f g).start = s.start := rfl
@[simp] theorem dieAt_onFrag (s : State) (k : CoreId) (f : FragId) (g : Frag → Frag) (d' : DieId) : dieAt (onFrag s k f g) d' = dieAt s d' := rfl
@[simp] theorem portAt_onFrag (s : State) (k : CoreId) (f : FragId) (g : Frag → Frag) (p' : PortId) : portAt (onFrag s k f g) p' = portAt s p' := rfl
@[simp] theorem ctxAt_onFrag (s : State) (k : CoreId) (f : FragId) (g : Frag → Frag) (c' : CtxId) : ctxAt (onFrag s k f g) c' = ctxAt s c' := rfl
@[simp] theorem queueAt_onFrag (s : State) (k : CoreId) (f : FragId) (g : Frag → Frag) (q' : QueueId) : queueAt (onFrag s k f g) q' = queueAt s q' := rfl
@[simp] theorem teamAt_onFrag (s : State) (k : CoreId) (f : FragId) (g : Frag → Frag) (t' : Nat) : teamAt (onFrag s k f g) t' = teamAt s t' := rfl
@[simp] theorem gridAt_onFrag (s : State) (k : CoreId) (f : FragId) (g : Frag → Frag) (g' : Nat) : gridAt (onFrag s k f g) g' = gridAt s g' := rfl
@[simp] theorem joinAt_onFrag (s : State) (k : CoreId) (f : FragId) (g : Frag → Frag) (j' : Nat) : joinAt (onFrag s k f g) j' = joinAt s j' := rfl
@[simp] theorem reqAt_onFrag (s : State) (k : CoreId) (f : FragId) (g : Frag → Frag) (r' : Nat) : reqAt (onFrag s k f g) r' = reqAt s r' := rfl

/-! ### onStrand -/

@[simp] theorem onStrand_tick (s : State) (k : CoreId) (n : StrandId) (g : Strand → Strand) : (onStrand s k n g).tick = s.tick := rfl
@[simp] theorem onStrand_quarter (s : State) (k : CoreId) (n : StrandId) (g : Strand → Strand) : (onStrand s k n g).quarter = s.quarter := rfl
@[simp] theorem onStrand_dies (s : State) (k : CoreId) (n : StrandId) (g : Strand → Strand) : (onStrand s k n g).dies = s.dies := rfl
@[simp] theorem onStrand_ports (s : State) (k : CoreId) (n : StrandId) (g : Strand → Strand) : (onStrand s k n g).ports = s.ports := rfl
@[simp] theorem onStrand_ctxs (s : State) (k : CoreId) (n : StrandId) (g : Strand → Strand) : (onStrand s k n g).ctxs = s.ctxs := rfl
@[simp] theorem onStrand_queues (s : State) (k : CoreId) (n : StrandId) (g : Strand → Strand) : (onStrand s k n g).queues = s.queues := rfl
@[simp] theorem onStrand_dev (s : State) (k : CoreId) (n : StrandId) (g : Strand → Strand) : (onStrand s k n g).dev = s.dev := rfl
@[simp] theorem onStrand_host (s : State) (k : CoreId) (n : StrandId) (g : Strand → Strand) : (onStrand s k n g).host = s.host := rfl
@[simp] theorem onStrand_lines (s : State) (k : CoreId) (n : StrandId) (g : Strand → Strand) : (onStrand s k n g).lines = s.lines := rfl
@[simp] theorem onStrand_floors (s : State) (k : CoreId) (n : StrandId) (g : Strand → Strand) : (onStrand s k n g).floors = s.floors := rfl
@[simp] theorem onStrand_reqs (s : State) (k : CoreId) (n : StrandId) (g : Strand → Strand) : (onStrand s k n g).reqs = s.reqs := rfl
@[simp] theorem onStrand_marks (s : State) (k : CoreId) (n : StrandId) (g : Strand → Strand) : (onStrand s k n g).marks = s.marks := rfl
@[simp] theorem onStrand_syncs (s : State) (k : CoreId) (n : StrandId) (g : Strand → Strand) : (onStrand s k n g).syncs = s.syncs := rfl
@[simp] theorem onStrand_teams (s : State) (k : CoreId) (n : StrandId) (g : Strand → Strand) : (onStrand s k n g).teams = s.teams := rfl
@[simp] theorem onStrand_grids (s : State) (k : CoreId) (n : StrandId) (g : Strand → Strand) : (onStrand s k n g).grids = s.grids := rfl
@[simp] theorem onStrand_past (s : State) (k : CoreId) (n : StrandId) (g : Strand → Strand) : (onStrand s k n g).past = s.past := rfl
@[simp] theorem onStrand_pastGrids (s : State) (k : CoreId) (n : StrandId) (g : Strand → Strand) : (onStrand s k n g).pastGrids = s.pastGrids := rfl
@[simp] theorem onStrand_joins (s : State) (k : CoreId) (n : StrandId) (g : Strand → Strand) : (onStrand s k n g).joins = s.joins := rfl
@[simp] theorem onStrand_held (s : State) (k : CoreId) (n : StrandId) (g : Strand → Strand) : (onStrand s k n g).held = s.held := rfl
@[simp] theorem onStrand_heldCmap (s : State) (k : CoreId) (n : StrandId) (g : Strand → Strand) : (onStrand s k n g).heldCmap = s.heldCmap := rfl
@[simp] theorem onStrand_fills (s : State) (k : CoreId) (n : StrandId) (g : Strand → Strand) : (onStrand s k n g).fills = s.fills := rfl
@[simp] theorem onStrand_wants (s : State) (k : CoreId) (n : StrandId) (g : Strand → Strand) : (onStrand s k n g).wants = s.wants := rfl
@[simp] theorem onStrand_failed (s : State) (k : CoreId) (n : StrandId) (g : Strand → Strand) : (onStrand s k n g).failed = s.failed := rfl
@[simp] theorem onStrand_nextId (s : State) (k : CoreId) (n : StrandId) (g : Strand → Strand) : (onStrand s k n g).nextId = s.nextId := rfl
@[simp] theorem onStrand_free (s : State) (k : CoreId) (n : StrandId) (g : Strand → Strand) : (onStrand s k n g).free = s.free := rfl
@[simp] theorem onStrand_agenda (s : State) (k : CoreId) (n : StrandId) (g : Strand → Strand) : (onStrand s k n g).agenda = s.agenda := rfl
@[simp] theorem onStrand_issuer (s : State) (k : CoreId) (n : StrandId) (g : Strand → Strand) : (onStrand s k n g).issuer = s.issuer := rfl
@[simp] theorem onStrand_start (s : State) (k : CoreId) (n : StrandId) (g : Strand → Strand) : (onStrand s k n g).start = s.start := rfl
@[simp] theorem dieAt_onStrand (s : State) (k : CoreId) (n : StrandId) (g : Strand → Strand) (d' : DieId) : dieAt (onStrand s k n g) d' = dieAt s d' := rfl
@[simp] theorem portAt_onStrand (s : State) (k : CoreId) (n : StrandId) (g : Strand → Strand) (p' : PortId) : portAt (onStrand s k n g) p' = portAt s p' := rfl
@[simp] theorem ctxAt_onStrand (s : State) (k : CoreId) (n : StrandId) (g : Strand → Strand) (c' : CtxId) : ctxAt (onStrand s k n g) c' = ctxAt s c' := rfl
@[simp] theorem queueAt_onStrand (s : State) (k : CoreId) (n : StrandId) (g : Strand → Strand) (q' : QueueId) : queueAt (onStrand s k n g) q' = queueAt s q' := rfl
@[simp] theorem teamAt_onStrand (s : State) (k : CoreId) (n : StrandId) (g : Strand → Strand) (t' : Nat) : teamAt (onStrand s k n g) t' = teamAt s t' := rfl
@[simp] theorem gridAt_onStrand (s : State) (k : CoreId) (n : StrandId) (g : Strand → Strand) (g' : Nat) : gridAt (onStrand s k n g) g' = gridAt s g' := rfl
@[simp] theorem joinAt_onStrand (s : State) (k : CoreId) (n : StrandId) (g : Strand → Strand) (j' : Nat) : joinAt (onStrand s k n g) j' = joinAt s j' := rfl
@[simp] theorem reqAt_onStrand (s : State) (k : CoreId) (n : StrandId) (g : Strand → Strand) (r' : Nat) : reqAt (onStrand s k n g) r' = reqAt s r' := rfl

/-! ### onWarp -/

@[simp] theorem onWarp_tick (s : State) (k : CoreId) (w : WarpIx) (g : Warp → Warp) : (onWarp s k w g).tick = s.tick := rfl
@[simp] theorem onWarp_quarter (s : State) (k : CoreId) (w : WarpIx) (g : Warp → Warp) : (onWarp s k w g).quarter = s.quarter := rfl
@[simp] theorem onWarp_dies (s : State) (k : CoreId) (w : WarpIx) (g : Warp → Warp) : (onWarp s k w g).dies = s.dies := rfl
@[simp] theorem onWarp_ports (s : State) (k : CoreId) (w : WarpIx) (g : Warp → Warp) : (onWarp s k w g).ports = s.ports := rfl
@[simp] theorem onWarp_ctxs (s : State) (k : CoreId) (w : WarpIx) (g : Warp → Warp) : (onWarp s k w g).ctxs = s.ctxs := rfl
@[simp] theorem onWarp_queues (s : State) (k : CoreId) (w : WarpIx) (g : Warp → Warp) : (onWarp s k w g).queues = s.queues := rfl
@[simp] theorem onWarp_dev (s : State) (k : CoreId) (w : WarpIx) (g : Warp → Warp) : (onWarp s k w g).dev = s.dev := rfl
@[simp] theorem onWarp_host (s : State) (k : CoreId) (w : WarpIx) (g : Warp → Warp) : (onWarp s k w g).host = s.host := rfl
@[simp] theorem onWarp_lines (s : State) (k : CoreId) (w : WarpIx) (g : Warp → Warp) : (onWarp s k w g).lines = s.lines := rfl
@[simp] theorem onWarp_floors (s : State) (k : CoreId) (w : WarpIx) (g : Warp → Warp) : (onWarp s k w g).floors = s.floors := rfl
@[simp] theorem onWarp_reqs (s : State) (k : CoreId) (w : WarpIx) (g : Warp → Warp) : (onWarp s k w g).reqs = s.reqs := rfl
@[simp] theorem onWarp_marks (s : State) (k : CoreId) (w : WarpIx) (g : Warp → Warp) : (onWarp s k w g).marks = s.marks := rfl
@[simp] theorem onWarp_syncs (s : State) (k : CoreId) (w : WarpIx) (g : Warp → Warp) : (onWarp s k w g).syncs = s.syncs := rfl
@[simp] theorem onWarp_teams (s : State) (k : CoreId) (w : WarpIx) (g : Warp → Warp) : (onWarp s k w g).teams = s.teams := rfl
@[simp] theorem onWarp_grids (s : State) (k : CoreId) (w : WarpIx) (g : Warp → Warp) : (onWarp s k w g).grids = s.grids := rfl
@[simp] theorem onWarp_past (s : State) (k : CoreId) (w : WarpIx) (g : Warp → Warp) : (onWarp s k w g).past = s.past := rfl
@[simp] theorem onWarp_pastGrids (s : State) (k : CoreId) (w : WarpIx) (g : Warp → Warp) : (onWarp s k w g).pastGrids = s.pastGrids := rfl
@[simp] theorem onWarp_joins (s : State) (k : CoreId) (w : WarpIx) (g : Warp → Warp) : (onWarp s k w g).joins = s.joins := rfl
@[simp] theorem onWarp_held (s : State) (k : CoreId) (w : WarpIx) (g : Warp → Warp) : (onWarp s k w g).held = s.held := rfl
@[simp] theorem onWarp_heldCmap (s : State) (k : CoreId) (w : WarpIx) (g : Warp → Warp) : (onWarp s k w g).heldCmap = s.heldCmap := rfl
@[simp] theorem onWarp_fills (s : State) (k : CoreId) (w : WarpIx) (g : Warp → Warp) : (onWarp s k w g).fills = s.fills := rfl
@[simp] theorem onWarp_wants (s : State) (k : CoreId) (w : WarpIx) (g : Warp → Warp) : (onWarp s k w g).wants = s.wants := rfl
@[simp] theorem onWarp_failed (s : State) (k : CoreId) (w : WarpIx) (g : Warp → Warp) : (onWarp s k w g).failed = s.failed := rfl
@[simp] theorem onWarp_nextId (s : State) (k : CoreId) (w : WarpIx) (g : Warp → Warp) : (onWarp s k w g).nextId = s.nextId := rfl
@[simp] theorem onWarp_free (s : State) (k : CoreId) (w : WarpIx) (g : Warp → Warp) : (onWarp s k w g).free = s.free := rfl
@[simp] theorem onWarp_agenda (s : State) (k : CoreId) (w : WarpIx) (g : Warp → Warp) : (onWarp s k w g).agenda = s.agenda := rfl
@[simp] theorem onWarp_issuer (s : State) (k : CoreId) (w : WarpIx) (g : Warp → Warp) : (onWarp s k w g).issuer = s.issuer := rfl
@[simp] theorem onWarp_start (s : State) (k : CoreId) (w : WarpIx) (g : Warp → Warp) : (onWarp s k w g).start = s.start := rfl
@[simp] theorem dieAt_onWarp (s : State) (k : CoreId) (w : WarpIx) (g : Warp → Warp) (d' : DieId) : dieAt (onWarp s k w g) d' = dieAt s d' := rfl
@[simp] theorem portAt_onWarp (s : State) (k : CoreId) (w : WarpIx) (g : Warp → Warp) (p' : PortId) : portAt (onWarp s k w g) p' = portAt s p' := rfl
@[simp] theorem ctxAt_onWarp (s : State) (k : CoreId) (w : WarpIx) (g : Warp → Warp) (c' : CtxId) : ctxAt (onWarp s k w g) c' = ctxAt s c' := rfl
@[simp] theorem queueAt_onWarp (s : State) (k : CoreId) (w : WarpIx) (g : Warp → Warp) (q' : QueueId) : queueAt (onWarp s k w g) q' = queueAt s q' := rfl
@[simp] theorem teamAt_onWarp (s : State) (k : CoreId) (w : WarpIx) (g : Warp → Warp) (t' : Nat) : teamAt (onWarp s k w g) t' = teamAt s t' := rfl
@[simp] theorem gridAt_onWarp (s : State) (k : CoreId) (w : WarpIx) (g : Warp → Warp) (g' : Nat) : gridAt (onWarp s k w g) g' = gridAt s g' := rfl
@[simp] theorem joinAt_onWarp (s : State) (k : CoreId) (w : WarpIx) (g : Warp → Warp) (j' : Nat) : joinAt (onWarp s k w g) j' = joinAt s j' := rfl
@[simp] theorem reqAt_onWarp (s : State) (k : CoreId) (w : WarpIx) (g : Warp → Warp) (r' : Nat) : reqAt (onWarp s k w g) r' = reqAt s r' := rfl

/-! ### sharedPut -/

@[simp] theorem sharedPut_tick (s : State) (k : CoreId) (t off : Nat) (bs : List Byte) : (sharedPut s k t off bs).tick = s.tick := rfl
@[simp] theorem sharedPut_quarter (s : State) (k : CoreId) (t off : Nat) (bs : List Byte) : (sharedPut s k t off bs).quarter = s.quarter := rfl
@[simp] theorem sharedPut_dies (s : State) (k : CoreId) (t off : Nat) (bs : List Byte) : (sharedPut s k t off bs).dies = s.dies := rfl
@[simp] theorem sharedPut_ports (s : State) (k : CoreId) (t off : Nat) (bs : List Byte) : (sharedPut s k t off bs).ports = s.ports := rfl
@[simp] theorem sharedPut_ctxs (s : State) (k : CoreId) (t off : Nat) (bs : List Byte) : (sharedPut s k t off bs).ctxs = s.ctxs := rfl
@[simp] theorem sharedPut_queues (s : State) (k : CoreId) (t off : Nat) (bs : List Byte) : (sharedPut s k t off bs).queues = s.queues := rfl
@[simp] theorem sharedPut_dev (s : State) (k : CoreId) (t off : Nat) (bs : List Byte) : (sharedPut s k t off bs).dev = s.dev := rfl
@[simp] theorem sharedPut_host (s : State) (k : CoreId) (t off : Nat) (bs : List Byte) : (sharedPut s k t off bs).host = s.host := rfl
@[simp] theorem sharedPut_lines (s : State) (k : CoreId) (t off : Nat) (bs : List Byte) : (sharedPut s k t off bs).lines = s.lines := rfl
@[simp] theorem sharedPut_floors (s : State) (k : CoreId) (t off : Nat) (bs : List Byte) : (sharedPut s k t off bs).floors = s.floors := rfl
@[simp] theorem sharedPut_reqs (s : State) (k : CoreId) (t off : Nat) (bs : List Byte) : (sharedPut s k t off bs).reqs = s.reqs := rfl
@[simp] theorem sharedPut_marks (s : State) (k : CoreId) (t off : Nat) (bs : List Byte) : (sharedPut s k t off bs).marks = s.marks := rfl
@[simp] theorem sharedPut_syncs (s : State) (k : CoreId) (t off : Nat) (bs : List Byte) : (sharedPut s k t off bs).syncs = s.syncs := rfl
@[simp] theorem sharedPut_teams (s : State) (k : CoreId) (t off : Nat) (bs : List Byte) : (sharedPut s k t off bs).teams = s.teams := rfl
@[simp] theorem sharedPut_grids (s : State) (k : CoreId) (t off : Nat) (bs : List Byte) : (sharedPut s k t off bs).grids = s.grids := rfl
@[simp] theorem sharedPut_past (s : State) (k : CoreId) (t off : Nat) (bs : List Byte) : (sharedPut s k t off bs).past = s.past := rfl
@[simp] theorem sharedPut_pastGrids (s : State) (k : CoreId) (t off : Nat) (bs : List Byte) : (sharedPut s k t off bs).pastGrids = s.pastGrids := rfl
@[simp] theorem sharedPut_joins (s : State) (k : CoreId) (t off : Nat) (bs : List Byte) : (sharedPut s k t off bs).joins = s.joins := rfl
@[simp] theorem sharedPut_held (s : State) (k : CoreId) (t off : Nat) (bs : List Byte) : (sharedPut s k t off bs).held = s.held := rfl
@[simp] theorem sharedPut_heldCmap (s : State) (k : CoreId) (t off : Nat) (bs : List Byte) : (sharedPut s k t off bs).heldCmap = s.heldCmap := rfl
@[simp] theorem sharedPut_fills (s : State) (k : CoreId) (t off : Nat) (bs : List Byte) : (sharedPut s k t off bs).fills = s.fills := rfl
@[simp] theorem sharedPut_wants (s : State) (k : CoreId) (t off : Nat) (bs : List Byte) : (sharedPut s k t off bs).wants = s.wants := rfl
@[simp] theorem sharedPut_failed (s : State) (k : CoreId) (t off : Nat) (bs : List Byte) : (sharedPut s k t off bs).failed = s.failed := rfl
@[simp] theorem sharedPut_nextId (s : State) (k : CoreId) (t off : Nat) (bs : List Byte) : (sharedPut s k t off bs).nextId = s.nextId := rfl
@[simp] theorem sharedPut_free (s : State) (k : CoreId) (t off : Nat) (bs : List Byte) : (sharedPut s k t off bs).free = s.free := rfl
@[simp] theorem sharedPut_agenda (s : State) (k : CoreId) (t off : Nat) (bs : List Byte) : (sharedPut s k t off bs).agenda = s.agenda := rfl
@[simp] theorem sharedPut_issuer (s : State) (k : CoreId) (t off : Nat) (bs : List Byte) : (sharedPut s k t off bs).issuer = s.issuer := rfl
@[simp] theorem sharedPut_start (s : State) (k : CoreId) (t off : Nat) (bs : List Byte) : (sharedPut s k t off bs).start = s.start := rfl
@[simp] theorem dieAt_sharedPut (s : State) (k : CoreId) (t off : Nat) (bs : List Byte) (d' : DieId) : dieAt (sharedPut s k t off bs) d' = dieAt s d' := rfl
@[simp] theorem portAt_sharedPut (s : State) (k : CoreId) (t off : Nat) (bs : List Byte) (p' : PortId) : portAt (sharedPut s k t off bs) p' = portAt s p' := rfl
@[simp] theorem ctxAt_sharedPut (s : State) (k : CoreId) (t off : Nat) (bs : List Byte) (c' : CtxId) : ctxAt (sharedPut s k t off bs) c' = ctxAt s c' := rfl
@[simp] theorem queueAt_sharedPut (s : State) (k : CoreId) (t off : Nat) (bs : List Byte) (q' : QueueId) : queueAt (sharedPut s k t off bs) q' = queueAt s q' := rfl
@[simp] theorem teamAt_sharedPut (s : State) (k : CoreId) (t off : Nat) (bs : List Byte) (t' : Nat) : teamAt (sharedPut s k t off bs) t' = teamAt s t' := rfl
@[simp] theorem gridAt_sharedPut (s : State) (k : CoreId) (t off : Nat) (bs : List Byte) (g' : Nat) : gridAt (sharedPut s k t off bs) g' = gridAt s g' := rfl
@[simp] theorem joinAt_sharedPut (s : State) (k : CoreId) (t off : Nat) (bs : List Byte) (j' : Nat) : joinAt (sharedPut s k t off bs) j' = joinAt s j' := rfl
@[simp] theorem reqAt_sharedPut (s : State) (k : CoreId) (t off : Nat) (bs : List Byte) (r' : Nat) : reqAt (sharedPut s k t off bs) r' = reqAt s r' := rfl

/-! ### setPresence -/

@[simp] theorem setPresence_tick (s : State) (k : CoreId) (t : Nat) (ls : List Nat) (on : Bool) : (setPresence s k t ls on).tick = s.tick := rfl
@[simp] theorem setPresence_quarter (s : State) (k : CoreId) (t : Nat) (ls : List Nat) (on : Bool) : (setPresence s k t ls on).quarter = s.quarter := rfl
@[simp] theorem setPresence_dies (s : State) (k : CoreId) (t : Nat) (ls : List Nat) (on : Bool) : (setPresence s k t ls on).dies = s.dies := rfl
@[simp] theorem setPresence_ports (s : State) (k : CoreId) (t : Nat) (ls : List Nat) (on : Bool) : (setPresence s k t ls on).ports = s.ports := rfl
@[simp] theorem setPresence_ctxs (s : State) (k : CoreId) (t : Nat) (ls : List Nat) (on : Bool) : (setPresence s k t ls on).ctxs = s.ctxs := rfl
@[simp] theorem setPresence_queues (s : State) (k : CoreId) (t : Nat) (ls : List Nat) (on : Bool) : (setPresence s k t ls on).queues = s.queues := rfl
@[simp] theorem setPresence_dev (s : State) (k : CoreId) (t : Nat) (ls : List Nat) (on : Bool) : (setPresence s k t ls on).dev = s.dev := rfl
@[simp] theorem setPresence_host (s : State) (k : CoreId) (t : Nat) (ls : List Nat) (on : Bool) : (setPresence s k t ls on).host = s.host := rfl
@[simp] theorem setPresence_lines (s : State) (k : CoreId) (t : Nat) (ls : List Nat) (on : Bool) : (setPresence s k t ls on).lines = s.lines := rfl
@[simp] theorem setPresence_floors (s : State) (k : CoreId) (t : Nat) (ls : List Nat) (on : Bool) : (setPresence s k t ls on).floors = s.floors := rfl
@[simp] theorem setPresence_reqs (s : State) (k : CoreId) (t : Nat) (ls : List Nat) (on : Bool) : (setPresence s k t ls on).reqs = s.reqs := rfl
@[simp] theorem setPresence_marks (s : State) (k : CoreId) (t : Nat) (ls : List Nat) (on : Bool) : (setPresence s k t ls on).marks = s.marks := rfl
@[simp] theorem setPresence_syncs (s : State) (k : CoreId) (t : Nat) (ls : List Nat) (on : Bool) : (setPresence s k t ls on).syncs = s.syncs := rfl
@[simp] theorem setPresence_teams (s : State) (k : CoreId) (t : Nat) (ls : List Nat) (on : Bool) : (setPresence s k t ls on).teams = s.teams := rfl
@[simp] theorem setPresence_grids (s : State) (k : CoreId) (t : Nat) (ls : List Nat) (on : Bool) : (setPresence s k t ls on).grids = s.grids := rfl
@[simp] theorem setPresence_past (s : State) (k : CoreId) (t : Nat) (ls : List Nat) (on : Bool) : (setPresence s k t ls on).past = s.past := rfl
@[simp] theorem setPresence_pastGrids (s : State) (k : CoreId) (t : Nat) (ls : List Nat) (on : Bool) : (setPresence s k t ls on).pastGrids = s.pastGrids := rfl
@[simp] theorem setPresence_joins (s : State) (k : CoreId) (t : Nat) (ls : List Nat) (on : Bool) : (setPresence s k t ls on).joins = s.joins := rfl
@[simp] theorem setPresence_held (s : State) (k : CoreId) (t : Nat) (ls : List Nat) (on : Bool) : (setPresence s k t ls on).held = s.held := rfl
@[simp] theorem setPresence_heldCmap (s : State) (k : CoreId) (t : Nat) (ls : List Nat) (on : Bool) : (setPresence s k t ls on).heldCmap = s.heldCmap := rfl
@[simp] theorem setPresence_fills (s : State) (k : CoreId) (t : Nat) (ls : List Nat) (on : Bool) : (setPresence s k t ls on).fills = s.fills := rfl
@[simp] theorem setPresence_wants (s : State) (k : CoreId) (t : Nat) (ls : List Nat) (on : Bool) : (setPresence s k t ls on).wants = s.wants := rfl
@[simp] theorem setPresence_failed (s : State) (k : CoreId) (t : Nat) (ls : List Nat) (on : Bool) : (setPresence s k t ls on).failed = s.failed := rfl
@[simp] theorem setPresence_nextId (s : State) (k : CoreId) (t : Nat) (ls : List Nat) (on : Bool) : (setPresence s k t ls on).nextId = s.nextId := rfl
@[simp] theorem setPresence_free (s : State) (k : CoreId) (t : Nat) (ls : List Nat) (on : Bool) : (setPresence s k t ls on).free = s.free := rfl
@[simp] theorem setPresence_agenda (s : State) (k : CoreId) (t : Nat) (ls : List Nat) (on : Bool) : (setPresence s k t ls on).agenda = s.agenda := rfl
@[simp] theorem setPresence_issuer (s : State) (k : CoreId) (t : Nat) (ls : List Nat) (on : Bool) : (setPresence s k t ls on).issuer = s.issuer := rfl
@[simp] theorem setPresence_start (s : State) (k : CoreId) (t : Nat) (ls : List Nat) (on : Bool) : (setPresence s k t ls on).start = s.start := rfl
@[simp] theorem dieAt_setPresence (s : State) (k : CoreId) (t : Nat) (ls : List Nat) (on : Bool) (d' : DieId) : dieAt (setPresence s k t ls on) d' = dieAt s d' := rfl
@[simp] theorem portAt_setPresence (s : State) (k : CoreId) (t : Nat) (ls : List Nat) (on : Bool) (p' : PortId) : portAt (setPresence s k t ls on) p' = portAt s p' := rfl
@[simp] theorem ctxAt_setPresence (s : State) (k : CoreId) (t : Nat) (ls : List Nat) (on : Bool) (c' : CtxId) : ctxAt (setPresence s k t ls on) c' = ctxAt s c' := rfl
@[simp] theorem queueAt_setPresence (s : State) (k : CoreId) (t : Nat) (ls : List Nat) (on : Bool) (q' : QueueId) : queueAt (setPresence s k t ls on) q' = queueAt s q' := rfl
@[simp] theorem teamAt_setPresence (s : State) (k : CoreId) (t : Nat) (ls : List Nat) (on : Bool) (t' : Nat) : teamAt (setPresence s k t ls on) t' = teamAt s t' := rfl
@[simp] theorem gridAt_setPresence (s : State) (k : CoreId) (t : Nat) (ls : List Nat) (on : Bool) (g' : Nat) : gridAt (setPresence s k t ls on) g' = gridAt s g' := rfl
@[simp] theorem joinAt_setPresence (s : State) (k : CoreId) (t : Nat) (ls : List Nat) (on : Bool) (j' : Nat) : joinAt (setPresence s k t ls on) j' = joinAt s j' := rfl
@[simp] theorem reqAt_setPresence (s : State) (k : CoreId) (t : Nat) (ls : List Nat) (on : Bool) (r' : Nat) : reqAt (setPresence s k t ls on) r' = reqAt s r' := rfl

/-! ### modDie -/

@[simp] theorem modDie_tick (s : State) (d : DieId) (g : Die → Die) : (modDie s d g).tick = s.tick := rfl
@[simp] theorem modDie_quarter (s : State) (d : DieId) (g : Die → Die) : (modDie s d g).quarter = s.quarter := rfl
@[simp] theorem modDie_cores (s : State) (d : DieId) (g : Die → Die) : (modDie s d g).cores = s.cores := rfl
@[simp] theorem modDie_ports (s : State) (d : DieId) (g : Die → Die) : (modDie s d g).ports = s.ports := rfl
@[simp] theorem modDie_ctxs (s : State) (d : DieId) (g : Die → Die) : (modDie s d g).ctxs = s.ctxs := rfl
@[simp] theorem modDie_queues (s : State) (d : DieId) (g : Die → Die) : (modDie s d g).queues = s.queues := rfl
@[simp] theorem modDie_dev (s : State) (d : DieId) (g : Die → Die) : (modDie s d g).dev = s.dev := rfl
@[simp] theorem modDie_host (s : State) (d : DieId) (g : Die → Die) : (modDie s d g).host = s.host := rfl
@[simp] theorem modDie_lines (s : State) (d : DieId) (g : Die → Die) : (modDie s d g).lines = s.lines := rfl
@[simp] theorem modDie_floors (s : State) (d : DieId) (g : Die → Die) : (modDie s d g).floors = s.floors := rfl
@[simp] theorem modDie_reqs (s : State) (d : DieId) (g : Die → Die) : (modDie s d g).reqs = s.reqs := rfl
@[simp] theorem modDie_marks (s : State) (d : DieId) (g : Die → Die) : (modDie s d g).marks = s.marks := rfl
@[simp] theorem modDie_syncs (s : State) (d : DieId) (g : Die → Die) : (modDie s d g).syncs = s.syncs := rfl
@[simp] theorem modDie_teams (s : State) (d : DieId) (g : Die → Die) : (modDie s d g).teams = s.teams := rfl
@[simp] theorem modDie_grids (s : State) (d : DieId) (g : Die → Die) : (modDie s d g).grids = s.grids := rfl
@[simp] theorem modDie_past (s : State) (d : DieId) (g : Die → Die) : (modDie s d g).past = s.past := rfl
@[simp] theorem modDie_pastGrids (s : State) (d : DieId) (g : Die → Die) : (modDie s d g).pastGrids = s.pastGrids := rfl
@[simp] theorem modDie_joins (s : State) (d : DieId) (g : Die → Die) : (modDie s d g).joins = s.joins := rfl
@[simp] theorem modDie_held (s : State) (d : DieId) (g : Die → Die) : (modDie s d g).held = s.held := rfl
@[simp] theorem modDie_heldCmap (s : State) (d : DieId) (g : Die → Die) : (modDie s d g).heldCmap = s.heldCmap := rfl
@[simp] theorem modDie_fills (s : State) (d : DieId) (g : Die → Die) : (modDie s d g).fills = s.fills := rfl
@[simp] theorem modDie_wants (s : State) (d : DieId) (g : Die → Die) : (modDie s d g).wants = s.wants := rfl
@[simp] theorem modDie_failed (s : State) (d : DieId) (g : Die → Die) : (modDie s d g).failed = s.failed := rfl
@[simp] theorem modDie_nextId (s : State) (d : DieId) (g : Die → Die) : (modDie s d g).nextId = s.nextId := rfl
@[simp] theorem modDie_free (s : State) (d : DieId) (g : Die → Die) : (modDie s d g).free = s.free := rfl
@[simp] theorem modDie_agenda (s : State) (d : DieId) (g : Die → Die) : (modDie s d g).agenda = s.agenda := rfl
@[simp] theorem modDie_issuer (s : State) (d : DieId) (g : Die → Die) : (modDie s d g).issuer = s.issuer := rfl
@[simp] theorem modDie_start (s : State) (d : DieId) (g : Die → Die) : (modDie s d g).start = s.start := rfl
@[simp] theorem coreAt_modDie (s : State) (d : DieId) (g : Die → Die) (k' : CoreId) : coreAt (modDie s d g) k' = coreAt s k' := rfl
@[simp] theorem portAt_modDie (s : State) (d : DieId) (g : Die → Die) (p' : PortId) : portAt (modDie s d g) p' = portAt s p' := rfl
@[simp] theorem ctxAt_modDie (s : State) (d : DieId) (g : Die → Die) (c' : CtxId) : ctxAt (modDie s d g) c' = ctxAt s c' := rfl
@[simp] theorem queueAt_modDie (s : State) (d : DieId) (g : Die → Die) (q' : QueueId) : queueAt (modDie s d g) q' = queueAt s q' := rfl
@[simp] theorem teamAt_modDie (s : State) (d : DieId) (g : Die → Die) (t' : Nat) : teamAt (modDie s d g) t' = teamAt s t' := rfl
@[simp] theorem gridAt_modDie (s : State) (d : DieId) (g : Die → Die) (g' : Nat) : gridAt (modDie s d g) g' = gridAt s g' := rfl
@[simp] theorem joinAt_modDie (s : State) (d : DieId) (g : Die → Die) (j' : Nat) : joinAt (modDie s d g) j' = joinAt s j' := rfl
@[simp] theorem reqAt_modDie (s : State) (d : DieId) (g : Die → Die) (r' : Nat) : reqAt (modDie s d g) r' = reqAt s r' := rfl

/-! ### modPort -/

@[simp] theorem modPort_tick (s : State) (p : PortId) (g : Port → Port) : (modPort s p g).tick = s.tick := rfl
@[simp] theorem modPort_quarter (s : State) (p : PortId) (g : Port → Port) : (modPort s p g).quarter = s.quarter := rfl
@[simp] theorem modPort_dies (s : State) (p : PortId) (g : Port → Port) : (modPort s p g).dies = s.dies := rfl
@[simp] theorem modPort_cores (s : State) (p : PortId) (g : Port → Port) : (modPort s p g).cores = s.cores := rfl
@[simp] theorem modPort_ctxs (s : State) (p : PortId) (g : Port → Port) : (modPort s p g).ctxs = s.ctxs := rfl
@[simp] theorem modPort_queues (s : State) (p : PortId) (g : Port → Port) : (modPort s p g).queues = s.queues := rfl
@[simp] theorem modPort_dev (s : State) (p : PortId) (g : Port → Port) : (modPort s p g).dev = s.dev := rfl
@[simp] theorem modPort_host (s : State) (p : PortId) (g : Port → Port) : (modPort s p g).host = s.host := rfl
@[simp] theorem modPort_lines (s : State) (p : PortId) (g : Port → Port) : (modPort s p g).lines = s.lines := rfl
@[simp] theorem modPort_floors (s : State) (p : PortId) (g : Port → Port) : (modPort s p g).floors = s.floors := rfl
@[simp] theorem modPort_reqs (s : State) (p : PortId) (g : Port → Port) : (modPort s p g).reqs = s.reqs := rfl
@[simp] theorem modPort_marks (s : State) (p : PortId) (g : Port → Port) : (modPort s p g).marks = s.marks := rfl
@[simp] theorem modPort_syncs (s : State) (p : PortId) (g : Port → Port) : (modPort s p g).syncs = s.syncs := rfl
@[simp] theorem modPort_teams (s : State) (p : PortId) (g : Port → Port) : (modPort s p g).teams = s.teams := rfl
@[simp] theorem modPort_grids (s : State) (p : PortId) (g : Port → Port) : (modPort s p g).grids = s.grids := rfl
@[simp] theorem modPort_past (s : State) (p : PortId) (g : Port → Port) : (modPort s p g).past = s.past := rfl
@[simp] theorem modPort_pastGrids (s : State) (p : PortId) (g : Port → Port) : (modPort s p g).pastGrids = s.pastGrids := rfl
@[simp] theorem modPort_joins (s : State) (p : PortId) (g : Port → Port) : (modPort s p g).joins = s.joins := rfl
@[simp] theorem modPort_held (s : State) (p : PortId) (g : Port → Port) : (modPort s p g).held = s.held := rfl
@[simp] theorem modPort_heldCmap (s : State) (p : PortId) (g : Port → Port) : (modPort s p g).heldCmap = s.heldCmap := rfl
@[simp] theorem modPort_fills (s : State) (p : PortId) (g : Port → Port) : (modPort s p g).fills = s.fills := rfl
@[simp] theorem modPort_wants (s : State) (p : PortId) (g : Port → Port) : (modPort s p g).wants = s.wants := rfl
@[simp] theorem modPort_failed (s : State) (p : PortId) (g : Port → Port) : (modPort s p g).failed = s.failed := rfl
@[simp] theorem modPort_nextId (s : State) (p : PortId) (g : Port → Port) : (modPort s p g).nextId = s.nextId := rfl
@[simp] theorem modPort_free (s : State) (p : PortId) (g : Port → Port) : (modPort s p g).free = s.free := rfl
@[simp] theorem modPort_agenda (s : State) (p : PortId) (g : Port → Port) : (modPort s p g).agenda = s.agenda := rfl
@[simp] theorem modPort_issuer (s : State) (p : PortId) (g : Port → Port) : (modPort s p g).issuer = s.issuer := rfl
@[simp] theorem modPort_start (s : State) (p : PortId) (g : Port → Port) : (modPort s p g).start = s.start := rfl
@[simp] theorem coreAt_modPort (s : State) (p : PortId) (g : Port → Port) (k' : CoreId) : coreAt (modPort s p g) k' = coreAt s k' := rfl
@[simp] theorem dieAt_modPort (s : State) (p : PortId) (g : Port → Port) (d' : DieId) : dieAt (modPort s p g) d' = dieAt s d' := rfl
@[simp] theorem ctxAt_modPort (s : State) (p : PortId) (g : Port → Port) (c' : CtxId) : ctxAt (modPort s p g) c' = ctxAt s c' := rfl
@[simp] theorem queueAt_modPort (s : State) (p : PortId) (g : Port → Port) (q' : QueueId) : queueAt (modPort s p g) q' = queueAt s q' := rfl
@[simp] theorem teamAt_modPort (s : State) (p : PortId) (g : Port → Port) (t' : Nat) : teamAt (modPort s p g) t' = teamAt s t' := rfl
@[simp] theorem gridAt_modPort (s : State) (p : PortId) (g : Port → Port) (g' : Nat) : gridAt (modPort s p g) g' = gridAt s g' := rfl
@[simp] theorem joinAt_modPort (s : State) (p : PortId) (g : Port → Port) (j' : Nat) : joinAt (modPort s p g) j' = joinAt s j' := rfl
@[simp] theorem reqAt_modPort (s : State) (p : PortId) (g : Port → Port) (r' : Nat) : reqAt (modPort s p g) r' = reqAt s r' := rfl

/-! ### setCtx -/

@[simp] theorem setCtx_tick (s : State) (c : CtxId) (x : Option Ctx) : (setCtx s c x).tick = s.tick := rfl
@[simp] theorem setCtx_quarter (s : State) (c : CtxId) (x : Option Ctx) : (setCtx s c x).quarter = s.quarter := rfl
@[simp] theorem setCtx_dies (s : State) (c : CtxId) (x : Option Ctx) : (setCtx s c x).dies = s.dies := rfl
@[simp] theorem setCtx_cores (s : State) (c : CtxId) (x : Option Ctx) : (setCtx s c x).cores = s.cores := rfl
@[simp] theorem setCtx_ports (s : State) (c : CtxId) (x : Option Ctx) : (setCtx s c x).ports = s.ports := rfl
@[simp] theorem setCtx_queues (s : State) (c : CtxId) (x : Option Ctx) : (setCtx s c x).queues = s.queues := rfl
@[simp] theorem setCtx_dev (s : State) (c : CtxId) (x : Option Ctx) : (setCtx s c x).dev = s.dev := rfl
@[simp] theorem setCtx_host (s : State) (c : CtxId) (x : Option Ctx) : (setCtx s c x).host = s.host := rfl
@[simp] theorem setCtx_lines (s : State) (c : CtxId) (x : Option Ctx) : (setCtx s c x).lines = s.lines := rfl
@[simp] theorem setCtx_floors (s : State) (c : CtxId) (x : Option Ctx) : (setCtx s c x).floors = s.floors := rfl
@[simp] theorem setCtx_reqs (s : State) (c : CtxId) (x : Option Ctx) : (setCtx s c x).reqs = s.reqs := rfl
@[simp] theorem setCtx_marks (s : State) (c : CtxId) (x : Option Ctx) : (setCtx s c x).marks = s.marks := rfl
@[simp] theorem setCtx_syncs (s : State) (c : CtxId) (x : Option Ctx) : (setCtx s c x).syncs = s.syncs := rfl
@[simp] theorem setCtx_teams (s : State) (c : CtxId) (x : Option Ctx) : (setCtx s c x).teams = s.teams := rfl
@[simp] theorem setCtx_grids (s : State) (c : CtxId) (x : Option Ctx) : (setCtx s c x).grids = s.grids := rfl
@[simp] theorem setCtx_past (s : State) (c : CtxId) (x : Option Ctx) : (setCtx s c x).past = s.past := rfl
@[simp] theorem setCtx_pastGrids (s : State) (c : CtxId) (x : Option Ctx) : (setCtx s c x).pastGrids = s.pastGrids := rfl
@[simp] theorem setCtx_joins (s : State) (c : CtxId) (x : Option Ctx) : (setCtx s c x).joins = s.joins := rfl
@[simp] theorem setCtx_held (s : State) (c : CtxId) (x : Option Ctx) : (setCtx s c x).held = s.held := rfl
@[simp] theorem setCtx_heldCmap (s : State) (c : CtxId) (x : Option Ctx) : (setCtx s c x).heldCmap = s.heldCmap := rfl
@[simp] theorem setCtx_fills (s : State) (c : CtxId) (x : Option Ctx) : (setCtx s c x).fills = s.fills := rfl
@[simp] theorem setCtx_wants (s : State) (c : CtxId) (x : Option Ctx) : (setCtx s c x).wants = s.wants := rfl
@[simp] theorem setCtx_failed (s : State) (c : CtxId) (x : Option Ctx) : (setCtx s c x).failed = s.failed := rfl
@[simp] theorem setCtx_nextId (s : State) (c : CtxId) (x : Option Ctx) : (setCtx s c x).nextId = s.nextId := rfl
@[simp] theorem setCtx_free (s : State) (c : CtxId) (x : Option Ctx) : (setCtx s c x).free = s.free := rfl
@[simp] theorem setCtx_agenda (s : State) (c : CtxId) (x : Option Ctx) : (setCtx s c x).agenda = s.agenda := rfl
@[simp] theorem setCtx_issuer (s : State) (c : CtxId) (x : Option Ctx) : (setCtx s c x).issuer = s.issuer := rfl
@[simp] theorem setCtx_start (s : State) (c : CtxId) (x : Option Ctx) : (setCtx s c x).start = s.start := rfl
@[simp] theorem coreAt_setCtx (s : State) (c : CtxId) (x : Option Ctx) (k' : CoreId) : coreAt (setCtx s c x) k' = coreAt s k' := rfl
@[simp] theorem dieAt_setCtx (s : State) (c : CtxId) (x : Option Ctx) (d' : DieId) : dieAt (setCtx s c x) d' = dieAt s d' := rfl
@[simp] theorem portAt_setCtx (s : State) (c : CtxId) (x : Option Ctx) (p' : PortId) : portAt (setCtx s c x) p' = portAt s p' := rfl
@[simp] theorem queueAt_setCtx (s : State) (c : CtxId) (x : Option Ctx) (q' : QueueId) : queueAt (setCtx s c x) q' = queueAt s q' := rfl
@[simp] theorem teamAt_setCtx (s : State) (c : CtxId) (x : Option Ctx) (t' : Nat) : teamAt (setCtx s c x) t' = teamAt s t' := rfl
@[simp] theorem gridAt_setCtx (s : State) (c : CtxId) (x : Option Ctx) (g' : Nat) : gridAt (setCtx s c x) g' = gridAt s g' := rfl
@[simp] theorem joinAt_setCtx (s : State) (c : CtxId) (x : Option Ctx) (j' : Nat) : joinAt (setCtx s c x) j' = joinAt s j' := rfl
@[simp] theorem reqAt_setCtx (s : State) (c : CtxId) (x : Option Ctx) (r' : Nat) : reqAt (setCtx s c x) r' = reqAt s r' := rfl

/-! ### modCtx -/

@[simp] theorem modCtx_tick (s : State) (c : CtxId) (g : Ctx → Ctx) : (modCtx s c g).tick = s.tick := by unfold modCtx; split <;> rfl
@[simp] theorem modCtx_quarter (s : State) (c : CtxId) (g : Ctx → Ctx) : (modCtx s c g).quarter = s.quarter := by unfold modCtx; split <;> rfl
@[simp] theorem modCtx_dies (s : State) (c : CtxId) (g : Ctx → Ctx) : (modCtx s c g).dies = s.dies := by unfold modCtx; split <;> rfl
@[simp] theorem modCtx_cores (s : State) (c : CtxId) (g : Ctx → Ctx) : (modCtx s c g).cores = s.cores := by unfold modCtx; split <;> rfl
@[simp] theorem modCtx_ports (s : State) (c : CtxId) (g : Ctx → Ctx) : (modCtx s c g).ports = s.ports := by unfold modCtx; split <;> rfl
@[simp] theorem modCtx_queues (s : State) (c : CtxId) (g : Ctx → Ctx) : (modCtx s c g).queues = s.queues := by unfold modCtx; split <;> rfl
@[simp] theorem modCtx_dev (s : State) (c : CtxId) (g : Ctx → Ctx) : (modCtx s c g).dev = s.dev := by unfold modCtx; split <;> rfl
@[simp] theorem modCtx_host (s : State) (c : CtxId) (g : Ctx → Ctx) : (modCtx s c g).host = s.host := by unfold modCtx; split <;> rfl
@[simp] theorem modCtx_lines (s : State) (c : CtxId) (g : Ctx → Ctx) : (modCtx s c g).lines = s.lines := by unfold modCtx; split <;> rfl
@[simp] theorem modCtx_floors (s : State) (c : CtxId) (g : Ctx → Ctx) : (modCtx s c g).floors = s.floors := by unfold modCtx; split <;> rfl
@[simp] theorem modCtx_reqs (s : State) (c : CtxId) (g : Ctx → Ctx) : (modCtx s c g).reqs = s.reqs := by unfold modCtx; split <;> rfl
@[simp] theorem modCtx_marks (s : State) (c : CtxId) (g : Ctx → Ctx) : (modCtx s c g).marks = s.marks := by unfold modCtx; split <;> rfl
@[simp] theorem modCtx_syncs (s : State) (c : CtxId) (g : Ctx → Ctx) : (modCtx s c g).syncs = s.syncs := by unfold modCtx; split <;> rfl
@[simp] theorem modCtx_teams (s : State) (c : CtxId) (g : Ctx → Ctx) : (modCtx s c g).teams = s.teams := by unfold modCtx; split <;> rfl
@[simp] theorem modCtx_grids (s : State) (c : CtxId) (g : Ctx → Ctx) : (modCtx s c g).grids = s.grids := by unfold modCtx; split <;> rfl
@[simp] theorem modCtx_past (s : State) (c : CtxId) (g : Ctx → Ctx) : (modCtx s c g).past = s.past := by unfold modCtx; split <;> rfl
@[simp] theorem modCtx_pastGrids (s : State) (c : CtxId) (g : Ctx → Ctx) : (modCtx s c g).pastGrids = s.pastGrids := by unfold modCtx; split <;> rfl
@[simp] theorem modCtx_joins (s : State) (c : CtxId) (g : Ctx → Ctx) : (modCtx s c g).joins = s.joins := by unfold modCtx; split <;> rfl
@[simp] theorem modCtx_held (s : State) (c : CtxId) (g : Ctx → Ctx) : (modCtx s c g).held = s.held := by unfold modCtx; split <;> rfl
@[simp] theorem modCtx_heldCmap (s : State) (c : CtxId) (g : Ctx → Ctx) : (modCtx s c g).heldCmap = s.heldCmap := by unfold modCtx; split <;> rfl
@[simp] theorem modCtx_fills (s : State) (c : CtxId) (g : Ctx → Ctx) : (modCtx s c g).fills = s.fills := by unfold modCtx; split <;> rfl
@[simp] theorem modCtx_wants (s : State) (c : CtxId) (g : Ctx → Ctx) : (modCtx s c g).wants = s.wants := by unfold modCtx; split <;> rfl
@[simp] theorem modCtx_failed (s : State) (c : CtxId) (g : Ctx → Ctx) : (modCtx s c g).failed = s.failed := by unfold modCtx; split <;> rfl
@[simp] theorem modCtx_nextId (s : State) (c : CtxId) (g : Ctx → Ctx) : (modCtx s c g).nextId = s.nextId := by unfold modCtx; split <;> rfl
@[simp] theorem modCtx_free (s : State) (c : CtxId) (g : Ctx → Ctx) : (modCtx s c g).free = s.free := by unfold modCtx; split <;> rfl
@[simp] theorem modCtx_agenda (s : State) (c : CtxId) (g : Ctx → Ctx) : (modCtx s c g).agenda = s.agenda := by unfold modCtx; split <;> rfl
@[simp] theorem modCtx_issuer (s : State) (c : CtxId) (g : Ctx → Ctx) : (modCtx s c g).issuer = s.issuer := by unfold modCtx; split <;> rfl
@[simp] theorem modCtx_start (s : State) (c : CtxId) (g : Ctx → Ctx) : (modCtx s c g).start = s.start := by unfold modCtx; split <;> rfl
@[simp] theorem coreAt_modCtx (s : State) (c : CtxId) (g : Ctx → Ctx) (k' : CoreId) : coreAt (modCtx s c g) k' = coreAt s k' := by unfold modCtx; split <;> rfl
@[simp] theorem dieAt_modCtx (s : State) (c : CtxId) (g : Ctx → Ctx) (d' : DieId) : dieAt (modCtx s c g) d' = dieAt s d' := by unfold modCtx; split <;> rfl
@[simp] theorem portAt_modCtx (s : State) (c : CtxId) (g : Ctx → Ctx) (p' : PortId) : portAt (modCtx s c g) p' = portAt s p' := by unfold modCtx; split <;> rfl
@[simp] theorem queueAt_modCtx (s : State) (c : CtxId) (g : Ctx → Ctx) (q' : QueueId) : queueAt (modCtx s c g) q' = queueAt s q' := by unfold modCtx; split <;> rfl
@[simp] theorem teamAt_modCtx (s : State) (c : CtxId) (g : Ctx → Ctx) (t' : Nat) : teamAt (modCtx s c g) t' = teamAt s t' := by unfold modCtx; split <;> rfl
@[simp] theorem gridAt_modCtx (s : State) (c : CtxId) (g : Ctx → Ctx) (g' : Nat) : gridAt (modCtx s c g) g' = gridAt s g' := by unfold modCtx; split <;> rfl
@[simp] theorem joinAt_modCtx (s : State) (c : CtxId) (g : Ctx → Ctx) (j' : Nat) : joinAt (modCtx s c g) j' = joinAt s j' := by unfold modCtx; split <;> rfl
@[simp] theorem reqAt_modCtx (s : State) (c : CtxId) (g : Ctx → Ctx) (r' : Nat) : reqAt (modCtx s c g) r' = reqAt s r' := by unfold modCtx; split <;> rfl

/-! ### setQueue -/

@[simp] theorem setQueue_tick (s : State) (q : QueueId) (x : Option Queue) : (setQueue s q x).tick = s.tick := rfl
@[simp] theorem setQueue_quarter (s : State) (q : QueueId) (x : Option Queue) : (setQueue s q x).quarter = s.quarter := rfl
@[simp] theorem setQueue_dies (s : State) (q : QueueId) (x : Option Queue) : (setQueue s q x).dies = s.dies := rfl
@[simp] theorem setQueue_cores (s : State) (q : QueueId) (x : Option Queue) : (setQueue s q x).cores = s.cores := rfl
@[simp] theorem setQueue_ports (s : State) (q : QueueId) (x : Option Queue) : (setQueue s q x).ports = s.ports := rfl
@[simp] theorem setQueue_ctxs (s : State) (q : QueueId) (x : Option Queue) : (setQueue s q x).ctxs = s.ctxs := rfl
@[simp] theorem setQueue_dev (s : State) (q : QueueId) (x : Option Queue) : (setQueue s q x).dev = s.dev := rfl
@[simp] theorem setQueue_host (s : State) (q : QueueId) (x : Option Queue) : (setQueue s q x).host = s.host := rfl
@[simp] theorem setQueue_lines (s : State) (q : QueueId) (x : Option Queue) : (setQueue s q x).lines = s.lines := rfl
@[simp] theorem setQueue_floors (s : State) (q : QueueId) (x : Option Queue) : (setQueue s q x).floors = s.floors := rfl
@[simp] theorem setQueue_reqs (s : State) (q : QueueId) (x : Option Queue) : (setQueue s q x).reqs = s.reqs := rfl
@[simp] theorem setQueue_marks (s : State) (q : QueueId) (x : Option Queue) : (setQueue s q x).marks = s.marks := rfl
@[simp] theorem setQueue_syncs (s : State) (q : QueueId) (x : Option Queue) : (setQueue s q x).syncs = s.syncs := rfl
@[simp] theorem setQueue_teams (s : State) (q : QueueId) (x : Option Queue) : (setQueue s q x).teams = s.teams := rfl
@[simp] theorem setQueue_grids (s : State) (q : QueueId) (x : Option Queue) : (setQueue s q x).grids = s.grids := rfl
@[simp] theorem setQueue_past (s : State) (q : QueueId) (x : Option Queue) : (setQueue s q x).past = s.past := rfl
@[simp] theorem setQueue_pastGrids (s : State) (q : QueueId) (x : Option Queue) : (setQueue s q x).pastGrids = s.pastGrids := rfl
@[simp] theorem setQueue_joins (s : State) (q : QueueId) (x : Option Queue) : (setQueue s q x).joins = s.joins := rfl
@[simp] theorem setQueue_held (s : State) (q : QueueId) (x : Option Queue) : (setQueue s q x).held = s.held := rfl
@[simp] theorem setQueue_heldCmap (s : State) (q : QueueId) (x : Option Queue) : (setQueue s q x).heldCmap = s.heldCmap := rfl
@[simp] theorem setQueue_fills (s : State) (q : QueueId) (x : Option Queue) : (setQueue s q x).fills = s.fills := rfl
@[simp] theorem setQueue_wants (s : State) (q : QueueId) (x : Option Queue) : (setQueue s q x).wants = s.wants := rfl
@[simp] theorem setQueue_failed (s : State) (q : QueueId) (x : Option Queue) : (setQueue s q x).failed = s.failed := rfl
@[simp] theorem setQueue_nextId (s : State) (q : QueueId) (x : Option Queue) : (setQueue s q x).nextId = s.nextId := rfl
@[simp] theorem setQueue_free (s : State) (q : QueueId) (x : Option Queue) : (setQueue s q x).free = s.free := rfl
@[simp] theorem setQueue_agenda (s : State) (q : QueueId) (x : Option Queue) : (setQueue s q x).agenda = s.agenda := rfl
@[simp] theorem setQueue_issuer (s : State) (q : QueueId) (x : Option Queue) : (setQueue s q x).issuer = s.issuer := rfl
@[simp] theorem setQueue_start (s : State) (q : QueueId) (x : Option Queue) : (setQueue s q x).start = s.start := rfl
@[simp] theorem coreAt_setQueue (s : State) (q : QueueId) (x : Option Queue) (k' : CoreId) : coreAt (setQueue s q x) k' = coreAt s k' := rfl
@[simp] theorem dieAt_setQueue (s : State) (q : QueueId) (x : Option Queue) (d' : DieId) : dieAt (setQueue s q x) d' = dieAt s d' := rfl
@[simp] theorem portAt_setQueue (s : State) (q : QueueId) (x : Option Queue) (p' : PortId) : portAt (setQueue s q x) p' = portAt s p' := rfl
@[simp] theorem ctxAt_setQueue (s : State) (q : QueueId) (x : Option Queue) (c' : CtxId) : ctxAt (setQueue s q x) c' = ctxAt s c' := rfl
@[simp] theorem teamAt_setQueue (s : State) (q : QueueId) (x : Option Queue) (t' : Nat) : teamAt (setQueue s q x) t' = teamAt s t' := rfl
@[simp] theorem gridAt_setQueue (s : State) (q : QueueId) (x : Option Queue) (g' : Nat) : gridAt (setQueue s q x) g' = gridAt s g' := rfl
@[simp] theorem joinAt_setQueue (s : State) (q : QueueId) (x : Option Queue) (j' : Nat) : joinAt (setQueue s q x) j' = joinAt s j' := rfl
@[simp] theorem reqAt_setQueue (s : State) (q : QueueId) (x : Option Queue) (r' : Nat) : reqAt (setQueue s q x) r' = reqAt s r' := rfl

/-! ### modTeam -/

@[simp] theorem modTeam_tick (s : State) (t : Nat) (g : Team → Team) : (modTeam s t g).tick = s.tick := rfl
@[simp] theorem modTeam_quarter (s : State) (t : Nat) (g : Team → Team) : (modTeam s t g).quarter = s.quarter := rfl
@[simp] theorem modTeam_dies (s : State) (t : Nat) (g : Team → Team) : (modTeam s t g).dies = s.dies := rfl
@[simp] theorem modTeam_cores (s : State) (t : Nat) (g : Team → Team) : (modTeam s t g).cores = s.cores := rfl
@[simp] theorem modTeam_ports (s : State) (t : Nat) (g : Team → Team) : (modTeam s t g).ports = s.ports := rfl
@[simp] theorem modTeam_ctxs (s : State) (t : Nat) (g : Team → Team) : (modTeam s t g).ctxs = s.ctxs := rfl
@[simp] theorem modTeam_queues (s : State) (t : Nat) (g : Team → Team) : (modTeam s t g).queues = s.queues := rfl
@[simp] theorem modTeam_dev (s : State) (t : Nat) (g : Team → Team) : (modTeam s t g).dev = s.dev := rfl
@[simp] theorem modTeam_host (s : State) (t : Nat) (g : Team → Team) : (modTeam s t g).host = s.host := rfl
@[simp] theorem modTeam_lines (s : State) (t : Nat) (g : Team → Team) : (modTeam s t g).lines = s.lines := rfl
@[simp] theorem modTeam_floors (s : State) (t : Nat) (g : Team → Team) : (modTeam s t g).floors = s.floors := rfl
@[simp] theorem modTeam_reqs (s : State) (t : Nat) (g : Team → Team) : (modTeam s t g).reqs = s.reqs := rfl
@[simp] theorem modTeam_marks (s : State) (t : Nat) (g : Team → Team) : (modTeam s t g).marks = s.marks := rfl
@[simp] theorem modTeam_syncs (s : State) (t : Nat) (g : Team → Team) : (modTeam s t g).syncs = s.syncs := rfl
@[simp] theorem modTeam_grids (s : State) (t : Nat) (g : Team → Team) : (modTeam s t g).grids = s.grids := rfl
@[simp] theorem modTeam_past (s : State) (t : Nat) (g : Team → Team) : (modTeam s t g).past = s.past := rfl
@[simp] theorem modTeam_pastGrids (s : State) (t : Nat) (g : Team → Team) : (modTeam s t g).pastGrids = s.pastGrids := rfl
@[simp] theorem modTeam_joins (s : State) (t : Nat) (g : Team → Team) : (modTeam s t g).joins = s.joins := rfl
@[simp] theorem modTeam_held (s : State) (t : Nat) (g : Team → Team) : (modTeam s t g).held = s.held := rfl
@[simp] theorem modTeam_heldCmap (s : State) (t : Nat) (g : Team → Team) : (modTeam s t g).heldCmap = s.heldCmap := rfl
@[simp] theorem modTeam_fills (s : State) (t : Nat) (g : Team → Team) : (modTeam s t g).fills = s.fills := rfl
@[simp] theorem modTeam_wants (s : State) (t : Nat) (g : Team → Team) : (modTeam s t g).wants = s.wants := rfl
@[simp] theorem modTeam_failed (s : State) (t : Nat) (g : Team → Team) : (modTeam s t g).failed = s.failed := rfl
@[simp] theorem modTeam_nextId (s : State) (t : Nat) (g : Team → Team) : (modTeam s t g).nextId = s.nextId := rfl
@[simp] theorem modTeam_free (s : State) (t : Nat) (g : Team → Team) : (modTeam s t g).free = s.free := rfl
@[simp] theorem modTeam_agenda (s : State) (t : Nat) (g : Team → Team) : (modTeam s t g).agenda = s.agenda := rfl
@[simp] theorem modTeam_issuer (s : State) (t : Nat) (g : Team → Team) : (modTeam s t g).issuer = s.issuer := rfl
@[simp] theorem modTeam_start (s : State) (t : Nat) (g : Team → Team) : (modTeam s t g).start = s.start := rfl
@[simp] theorem coreAt_modTeam (s : State) (t : Nat) (g : Team → Team) (k' : CoreId) : coreAt (modTeam s t g) k' = coreAt s k' := rfl
@[simp] theorem dieAt_modTeam (s : State) (t : Nat) (g : Team → Team) (d' : DieId) : dieAt (modTeam s t g) d' = dieAt s d' := rfl
@[simp] theorem portAt_modTeam (s : State) (t : Nat) (g : Team → Team) (p' : PortId) : portAt (modTeam s t g) p' = portAt s p' := rfl
@[simp] theorem ctxAt_modTeam (s : State) (t : Nat) (g : Team → Team) (c' : CtxId) : ctxAt (modTeam s t g) c' = ctxAt s c' := rfl
@[simp] theorem queueAt_modTeam (s : State) (t : Nat) (g : Team → Team) (q' : QueueId) : queueAt (modTeam s t g) q' = queueAt s q' := rfl
@[simp] theorem gridAt_modTeam (s : State) (t : Nat) (g : Team → Team) (g' : Nat) : gridAt (modTeam s t g) g' = gridAt s g' := rfl
@[simp] theorem joinAt_modTeam (s : State) (t : Nat) (g : Team → Team) (j' : Nat) : joinAt (modTeam s t g) j' = joinAt s j' := rfl
@[simp] theorem reqAt_modTeam (s : State) (t : Nat) (g : Team → Team) (r' : Nat) : reqAt (modTeam s t g) r' = reqAt s r' := rfl

/-! ### modGrid -/

@[simp] theorem modGrid_tick (s : State) (i : Nat) (g : Grid → Grid) : (modGrid s i g).tick = s.tick := rfl
@[simp] theorem modGrid_quarter (s : State) (i : Nat) (g : Grid → Grid) : (modGrid s i g).quarter = s.quarter := rfl
@[simp] theorem modGrid_dies (s : State) (i : Nat) (g : Grid → Grid) : (modGrid s i g).dies = s.dies := rfl
@[simp] theorem modGrid_cores (s : State) (i : Nat) (g : Grid → Grid) : (modGrid s i g).cores = s.cores := rfl
@[simp] theorem modGrid_ports (s : State) (i : Nat) (g : Grid → Grid) : (modGrid s i g).ports = s.ports := rfl
@[simp] theorem modGrid_ctxs (s : State) (i : Nat) (g : Grid → Grid) : (modGrid s i g).ctxs = s.ctxs := rfl
@[simp] theorem modGrid_queues (s : State) (i : Nat) (g : Grid → Grid) : (modGrid s i g).queues = s.queues := rfl
@[simp] theorem modGrid_dev (s : State) (i : Nat) (g : Grid → Grid) : (modGrid s i g).dev = s.dev := rfl
@[simp] theorem modGrid_host (s : State) (i : Nat) (g : Grid → Grid) : (modGrid s i g).host = s.host := rfl
@[simp] theorem modGrid_lines (s : State) (i : Nat) (g : Grid → Grid) : (modGrid s i g).lines = s.lines := rfl
@[simp] theorem modGrid_floors (s : State) (i : Nat) (g : Grid → Grid) : (modGrid s i g).floors = s.floors := rfl
@[simp] theorem modGrid_reqs (s : State) (i : Nat) (g : Grid → Grid) : (modGrid s i g).reqs = s.reqs := rfl
@[simp] theorem modGrid_marks (s : State) (i : Nat) (g : Grid → Grid) : (modGrid s i g).marks = s.marks := rfl
@[simp] theorem modGrid_syncs (s : State) (i : Nat) (g : Grid → Grid) : (modGrid s i g).syncs = s.syncs := rfl
@[simp] theorem modGrid_teams (s : State) (i : Nat) (g : Grid → Grid) : (modGrid s i g).teams = s.teams := rfl
@[simp] theorem modGrid_past (s : State) (i : Nat) (g : Grid → Grid) : (modGrid s i g).past = s.past := rfl
@[simp] theorem modGrid_pastGrids (s : State) (i : Nat) (g : Grid → Grid) : (modGrid s i g).pastGrids = s.pastGrids := rfl
@[simp] theorem modGrid_joins (s : State) (i : Nat) (g : Grid → Grid) : (modGrid s i g).joins = s.joins := rfl
@[simp] theorem modGrid_held (s : State) (i : Nat) (g : Grid → Grid) : (modGrid s i g).held = s.held := rfl
@[simp] theorem modGrid_heldCmap (s : State) (i : Nat) (g : Grid → Grid) : (modGrid s i g).heldCmap = s.heldCmap := rfl
@[simp] theorem modGrid_fills (s : State) (i : Nat) (g : Grid → Grid) : (modGrid s i g).fills = s.fills := rfl
@[simp] theorem modGrid_wants (s : State) (i : Nat) (g : Grid → Grid) : (modGrid s i g).wants = s.wants := rfl
@[simp] theorem modGrid_failed (s : State) (i : Nat) (g : Grid → Grid) : (modGrid s i g).failed = s.failed := rfl
@[simp] theorem modGrid_nextId (s : State) (i : Nat) (g : Grid → Grid) : (modGrid s i g).nextId = s.nextId := rfl
@[simp] theorem modGrid_free (s : State) (i : Nat) (g : Grid → Grid) : (modGrid s i g).free = s.free := rfl
@[simp] theorem modGrid_agenda (s : State) (i : Nat) (g : Grid → Grid) : (modGrid s i g).agenda = s.agenda := rfl
@[simp] theorem modGrid_issuer (s : State) (i : Nat) (g : Grid → Grid) : (modGrid s i g).issuer = s.issuer := rfl
@[simp] theorem modGrid_start (s : State) (i : Nat) (g : Grid → Grid) : (modGrid s i g).start = s.start := rfl
@[simp] theorem coreAt_modGrid (s : State) (i : Nat) (g : Grid → Grid) (k' : CoreId) : coreAt (modGrid s i g) k' = coreAt s k' := rfl
@[simp] theorem dieAt_modGrid (s : State) (i : Nat) (g : Grid → Grid) (d' : DieId) : dieAt (modGrid s i g) d' = dieAt s d' := rfl
@[simp] theorem portAt_modGrid (s : State) (i : Nat) (g : Grid → Grid) (p' : PortId) : portAt (modGrid s i g) p' = portAt s p' := rfl
@[simp] theorem ctxAt_modGrid (s : State) (i : Nat) (g : Grid → Grid) (c' : CtxId) : ctxAt (modGrid s i g) c' = ctxAt s c' := rfl
@[simp] theorem queueAt_modGrid (s : State) (i : Nat) (g : Grid → Grid) (q' : QueueId) : queueAt (modGrid s i g) q' = queueAt s q' := rfl
@[simp] theorem teamAt_modGrid (s : State) (i : Nat) (g : Grid → Grid) (t' : Nat) : teamAt (modGrid s i g) t' = teamAt s t' := rfl
@[simp] theorem joinAt_modGrid (s : State) (i : Nat) (g : Grid → Grid) (j' : Nat) : joinAt (modGrid s i g) j' = joinAt s j' := rfl
@[simp] theorem reqAt_modGrid (s : State) (i : Nat) (g : Grid → Grid) (r' : Nat) : reqAt (modGrid s i g) r' = reqAt s r' := rfl

/-! ### modJoin -/

@[simp] theorem modJoin_tick (s : State) (j : Nat) (g : Join → Join) : (modJoin s j g).tick = s.tick := rfl
@[simp] theorem modJoin_quarter (s : State) (j : Nat) (g : Join → Join) : (modJoin s j g).quarter = s.quarter := rfl
@[simp] theorem modJoin_dies (s : State) (j : Nat) (g : Join → Join) : (modJoin s j g).dies = s.dies := rfl
@[simp] theorem modJoin_cores (s : State) (j : Nat) (g : Join → Join) : (modJoin s j g).cores = s.cores := rfl
@[simp] theorem modJoin_ports (s : State) (j : Nat) (g : Join → Join) : (modJoin s j g).ports = s.ports := rfl
@[simp] theorem modJoin_ctxs (s : State) (j : Nat) (g : Join → Join) : (modJoin s j g).ctxs = s.ctxs := rfl
@[simp] theorem modJoin_queues (s : State) (j : Nat) (g : Join → Join) : (modJoin s j g).queues = s.queues := rfl
@[simp] theorem modJoin_dev (s : State) (j : Nat) (g : Join → Join) : (modJoin s j g).dev = s.dev := rfl
@[simp] theorem modJoin_host (s : State) (j : Nat) (g : Join → Join) : (modJoin s j g).host = s.host := rfl
@[simp] theorem modJoin_lines (s : State) (j : Nat) (g : Join → Join) : (modJoin s j g).lines = s.lines := rfl
@[simp] theorem modJoin_floors (s : State) (j : Nat) (g : Join → Join) : (modJoin s j g).floors = s.floors := rfl
@[simp] theorem modJoin_reqs (s : State) (j : Nat) (g : Join → Join) : (modJoin s j g).reqs = s.reqs := rfl
@[simp] theorem modJoin_marks (s : State) (j : Nat) (g : Join → Join) : (modJoin s j g).marks = s.marks := rfl
@[simp] theorem modJoin_syncs (s : State) (j : Nat) (g : Join → Join) : (modJoin s j g).syncs = s.syncs := rfl
@[simp] theorem modJoin_teams (s : State) (j : Nat) (g : Join → Join) : (modJoin s j g).teams = s.teams := rfl
@[simp] theorem modJoin_grids (s : State) (j : Nat) (g : Join → Join) : (modJoin s j g).grids = s.grids := rfl
@[simp] theorem modJoin_past (s : State) (j : Nat) (g : Join → Join) : (modJoin s j g).past = s.past := rfl
@[simp] theorem modJoin_pastGrids (s : State) (j : Nat) (g : Join → Join) : (modJoin s j g).pastGrids = s.pastGrids := rfl
@[simp] theorem modJoin_held (s : State) (j : Nat) (g : Join → Join) : (modJoin s j g).held = s.held := rfl
@[simp] theorem modJoin_heldCmap (s : State) (j : Nat) (g : Join → Join) : (modJoin s j g).heldCmap = s.heldCmap := rfl
@[simp] theorem modJoin_fills (s : State) (j : Nat) (g : Join → Join) : (modJoin s j g).fills = s.fills := rfl
@[simp] theorem modJoin_wants (s : State) (j : Nat) (g : Join → Join) : (modJoin s j g).wants = s.wants := rfl
@[simp] theorem modJoin_failed (s : State) (j : Nat) (g : Join → Join) : (modJoin s j g).failed = s.failed := rfl
@[simp] theorem modJoin_nextId (s : State) (j : Nat) (g : Join → Join) : (modJoin s j g).nextId = s.nextId := rfl
@[simp] theorem modJoin_free (s : State) (j : Nat) (g : Join → Join) : (modJoin s j g).free = s.free := rfl
@[simp] theorem modJoin_agenda (s : State) (j : Nat) (g : Join → Join) : (modJoin s j g).agenda = s.agenda := rfl
@[simp] theorem modJoin_issuer (s : State) (j : Nat) (g : Join → Join) : (modJoin s j g).issuer = s.issuer := rfl
@[simp] theorem modJoin_start (s : State) (j : Nat) (g : Join → Join) : (modJoin s j g).start = s.start := rfl
@[simp] theorem coreAt_modJoin (s : State) (j : Nat) (g : Join → Join) (k' : CoreId) : coreAt (modJoin s j g) k' = coreAt s k' := rfl
@[simp] theorem dieAt_modJoin (s : State) (j : Nat) (g : Join → Join) (d' : DieId) : dieAt (modJoin s j g) d' = dieAt s d' := rfl
@[simp] theorem portAt_modJoin (s : State) (j : Nat) (g : Join → Join) (p' : PortId) : portAt (modJoin s j g) p' = portAt s p' := rfl
@[simp] theorem ctxAt_modJoin (s : State) (j : Nat) (g : Join → Join) (c' : CtxId) : ctxAt (modJoin s j g) c' = ctxAt s c' := rfl
@[simp] theorem queueAt_modJoin (s : State) (j : Nat) (g : Join → Join) (q' : QueueId) : queueAt (modJoin s j g) q' = queueAt s q' := rfl
@[simp] theorem teamAt_modJoin (s : State) (j : Nat) (g : Join → Join) (t' : Nat) : teamAt (modJoin s j g) t' = teamAt s t' := rfl
@[simp] theorem gridAt_modJoin (s : State) (j : Nat) (g : Join → Join) (g' : Nat) : gridAt (modJoin s j g) g' = gridAt s g' := rfl
@[simp] theorem reqAt_modJoin (s : State) (j : Nat) (g : Join → Join) (r' : Nat) : reqAt (modJoin s j g) r' = reqAt s r' := rfl

/-! ### modReq -/

@[simp] theorem modReq_tick (s : State) (r : Nat) (g : Req → Req) : (modReq s r g).tick = s.tick := rfl
@[simp] theorem modReq_quarter (s : State) (r : Nat) (g : Req → Req) : (modReq s r g).quarter = s.quarter := rfl
@[simp] theorem modReq_dies (s : State) (r : Nat) (g : Req → Req) : (modReq s r g).dies = s.dies := rfl
@[simp] theorem modReq_cores (s : State) (r : Nat) (g : Req → Req) : (modReq s r g).cores = s.cores := rfl
@[simp] theorem modReq_ports (s : State) (r : Nat) (g : Req → Req) : (modReq s r g).ports = s.ports := rfl
@[simp] theorem modReq_ctxs (s : State) (r : Nat) (g : Req → Req) : (modReq s r g).ctxs = s.ctxs := rfl
@[simp] theorem modReq_queues (s : State) (r : Nat) (g : Req → Req) : (modReq s r g).queues = s.queues := rfl
@[simp] theorem modReq_dev (s : State) (r : Nat) (g : Req → Req) : (modReq s r g).dev = s.dev := rfl
@[simp] theorem modReq_host (s : State) (r : Nat) (g : Req → Req) : (modReq s r g).host = s.host := rfl
@[simp] theorem modReq_lines (s : State) (r : Nat) (g : Req → Req) : (modReq s r g).lines = s.lines := rfl
@[simp] theorem modReq_floors (s : State) (r : Nat) (g : Req → Req) : (modReq s r g).floors = s.floors := rfl
@[simp] theorem modReq_marks (s : State) (r : Nat) (g : Req → Req) : (modReq s r g).marks = s.marks := rfl
@[simp] theorem modReq_syncs (s : State) (r : Nat) (g : Req → Req) : (modReq s r g).syncs = s.syncs := rfl
@[simp] theorem modReq_teams (s : State) (r : Nat) (g : Req → Req) : (modReq s r g).teams = s.teams := rfl
@[simp] theorem modReq_grids (s : State) (r : Nat) (g : Req → Req) : (modReq s r g).grids = s.grids := rfl
@[simp] theorem modReq_past (s : State) (r : Nat) (g : Req → Req) : (modReq s r g).past = s.past := rfl
@[simp] theorem modReq_pastGrids (s : State) (r : Nat) (g : Req → Req) : (modReq s r g).pastGrids = s.pastGrids := rfl
@[simp] theorem modReq_joins (s : State) (r : Nat) (g : Req → Req) : (modReq s r g).joins = s.joins := rfl
@[simp] theorem modReq_held (s : State) (r : Nat) (g : Req → Req) : (modReq s r g).held = s.held := rfl
@[simp] theorem modReq_heldCmap (s : State) (r : Nat) (g : Req → Req) : (modReq s r g).heldCmap = s.heldCmap := rfl
@[simp] theorem modReq_fills (s : State) (r : Nat) (g : Req → Req) : (modReq s r g).fills = s.fills := rfl
@[simp] theorem modReq_wants (s : State) (r : Nat) (g : Req → Req) : (modReq s r g).wants = s.wants := rfl
@[simp] theorem modReq_failed (s : State) (r : Nat) (g : Req → Req) : (modReq s r g).failed = s.failed := rfl
@[simp] theorem modReq_nextId (s : State) (r : Nat) (g : Req → Req) : (modReq s r g).nextId = s.nextId := rfl
@[simp] theorem modReq_free (s : State) (r : Nat) (g : Req → Req) : (modReq s r g).free = s.free := rfl
@[simp] theorem modReq_agenda (s : State) (r : Nat) (g : Req → Req) : (modReq s r g).agenda = s.agenda := rfl
@[simp] theorem modReq_issuer (s : State) (r : Nat) (g : Req → Req) : (modReq s r g).issuer = s.issuer := rfl
@[simp] theorem modReq_start (s : State) (r : Nat) (g : Req → Req) : (modReq s r g).start = s.start := rfl
@[simp] theorem coreAt_modReq (s : State) (r : Nat) (g : Req → Req) (k' : CoreId) : coreAt (modReq s r g) k' = coreAt s k' := rfl
@[simp] theorem dieAt_modReq (s : State) (r : Nat) (g : Req → Req) (d' : DieId) : dieAt (modReq s r g) d' = dieAt s d' := rfl
@[simp] theorem portAt_modReq (s : State) (r : Nat) (g : Req → Req) (p' : PortId) : portAt (modReq s r g) p' = portAt s p' := rfl
@[simp] theorem ctxAt_modReq (s : State) (r : Nat) (g : Req → Req) (c' : CtxId) : ctxAt (modReq s r g) c' = ctxAt s c' := rfl
@[simp] theorem queueAt_modReq (s : State) (r : Nat) (g : Req → Req) (q' : QueueId) : queueAt (modReq s r g) q' = queueAt s q' := rfl
@[simp] theorem teamAt_modReq (s : State) (r : Nat) (g : Req → Req) (t' : Nat) : teamAt (modReq s r g) t' = teamAt s t' := rfl
@[simp] theorem gridAt_modReq (s : State) (r : Nat) (g : Req → Req) (g' : Nat) : gridAt (modReq s r g) g' = gridAt s g' := rfl
@[simp] theorem joinAt_modReq (s : State) (r : Nat) (g : Req → Req) (j' : Nat) : joinAt (modReq s r g) j' = joinAt s j' := rfl

/-! ### dropReq -/

@[simp] theorem dropReq_tick (s : State) (r : Nat) : (dropReq s r).tick = s.tick := rfl
@[simp] theorem dropReq_quarter (s : State) (r : Nat) : (dropReq s r).quarter = s.quarter := rfl
@[simp] theorem dropReq_dies (s : State) (r : Nat) : (dropReq s r).dies = s.dies := rfl
@[simp] theorem dropReq_cores (s : State) (r : Nat) : (dropReq s r).cores = s.cores := rfl
@[simp] theorem dropReq_ports (s : State) (r : Nat) : (dropReq s r).ports = s.ports := rfl
@[simp] theorem dropReq_ctxs (s : State) (r : Nat) : (dropReq s r).ctxs = s.ctxs := rfl
@[simp] theorem dropReq_queues (s : State) (r : Nat) : (dropReq s r).queues = s.queues := rfl
@[simp] theorem dropReq_dev (s : State) (r : Nat) : (dropReq s r).dev = s.dev := rfl
@[simp] theorem dropReq_host (s : State) (r : Nat) : (dropReq s r).host = s.host := rfl
@[simp] theorem dropReq_lines (s : State) (r : Nat) : (dropReq s r).lines = s.lines := rfl
@[simp] theorem dropReq_floors (s : State) (r : Nat) : (dropReq s r).floors = s.floors := rfl
@[simp] theorem dropReq_marks (s : State) (r : Nat) : (dropReq s r).marks = s.marks := rfl
@[simp] theorem dropReq_syncs (s : State) (r : Nat) : (dropReq s r).syncs = s.syncs := rfl
@[simp] theorem dropReq_teams (s : State) (r : Nat) : (dropReq s r).teams = s.teams := rfl
@[simp] theorem dropReq_grids (s : State) (r : Nat) : (dropReq s r).grids = s.grids := rfl
@[simp] theorem dropReq_past (s : State) (r : Nat) : (dropReq s r).past = s.past := rfl
@[simp] theorem dropReq_pastGrids (s : State) (r : Nat) : (dropReq s r).pastGrids = s.pastGrids := rfl
@[simp] theorem dropReq_joins (s : State) (r : Nat) : (dropReq s r).joins = s.joins := rfl
@[simp] theorem dropReq_held (s : State) (r : Nat) : (dropReq s r).held = s.held := rfl
@[simp] theorem dropReq_heldCmap (s : State) (r : Nat) : (dropReq s r).heldCmap = s.heldCmap := rfl
@[simp] theorem dropReq_fills (s : State) (r : Nat) : (dropReq s r).fills = s.fills := rfl
@[simp] theorem dropReq_wants (s : State) (r : Nat) : (dropReq s r).wants = s.wants := rfl
@[simp] theorem dropReq_failed (s : State) (r : Nat) : (dropReq s r).failed = s.failed := rfl
@[simp] theorem dropReq_nextId (s : State) (r : Nat) : (dropReq s r).nextId = s.nextId := rfl
@[simp] theorem dropReq_free (s : State) (r : Nat) : (dropReq s r).free = s.free := rfl
@[simp] theorem dropReq_agenda (s : State) (r : Nat) : (dropReq s r).agenda = s.agenda := rfl
@[simp] theorem dropReq_issuer (s : State) (r : Nat) : (dropReq s r).issuer = s.issuer := rfl
@[simp] theorem dropReq_start (s : State) (r : Nat) : (dropReq s r).start = s.start := rfl
@[simp] theorem coreAt_dropReq (s : State) (r : Nat) (k' : CoreId) : coreAt (dropReq s r) k' = coreAt s k' := rfl
@[simp] theorem dieAt_dropReq (s : State) (r : Nat) (d' : DieId) : dieAt (dropReq s r) d' = dieAt s d' := rfl
@[simp] theorem portAt_dropReq (s : State) (r : Nat) (p' : PortId) : portAt (dropReq s r) p' = portAt s p' := rfl
@[simp] theorem ctxAt_dropReq (s : State) (r : Nat) (c' : CtxId) : ctxAt (dropReq s r) c' = ctxAt s c' := rfl
@[simp] theorem queueAt_dropReq (s : State) (r : Nat) (q' : QueueId) : queueAt (dropReq s r) q' = queueAt s q' := rfl
@[simp] theorem teamAt_dropReq (s : State) (r : Nat) (t' : Nat) : teamAt (dropReq s r) t' = teamAt s t' := rfl
@[simp] theorem gridAt_dropReq (s : State) (r : Nat) (g' : Nat) : gridAt (dropReq s r) g' = gridAt s g' := rfl
@[simp] theorem joinAt_dropReq (s : State) (r : Nat) (j' : Nat) : joinAt (dropReq s r) j' = joinAt s j' := rfl

/-! ### leaveSlice -/

@[simp] theorem leaveSlice_tick (s : State) (x : HomeLine) : (leaveSlice s x).tick = s.tick := rfl
@[simp] theorem leaveSlice_quarter (s : State) (x : HomeLine) : (leaveSlice s x).quarter = s.quarter := rfl
@[simp] theorem leaveSlice_dies (s : State) (x : HomeLine) : (leaveSlice s x).dies = s.dies := rfl
@[simp] theorem leaveSlice_cores (s : State) (x : HomeLine) : (leaveSlice s x).cores = s.cores := rfl
@[simp] theorem leaveSlice_ports (s : State) (x : HomeLine) : (leaveSlice s x).ports = s.ports := rfl
@[simp] theorem leaveSlice_ctxs (s : State) (x : HomeLine) : (leaveSlice s x).ctxs = s.ctxs := rfl
@[simp] theorem leaveSlice_queues (s : State) (x : HomeLine) : (leaveSlice s x).queues = s.queues := rfl
@[simp] theorem leaveSlice_dev (s : State) (x : HomeLine) : (leaveSlice s x).dev = s.dev := rfl
@[simp] theorem leaveSlice_host (s : State) (x : HomeLine) : (leaveSlice s x).host = s.host := rfl
@[simp] theorem leaveSlice_reqs (s : State) (x : HomeLine) : (leaveSlice s x).reqs = s.reqs := rfl
@[simp] theorem leaveSlice_marks (s : State) (x : HomeLine) : (leaveSlice s x).marks = s.marks := rfl
@[simp] theorem leaveSlice_syncs (s : State) (x : HomeLine) : (leaveSlice s x).syncs = s.syncs := rfl
@[simp] theorem leaveSlice_teams (s : State) (x : HomeLine) : (leaveSlice s x).teams = s.teams := rfl
@[simp] theorem leaveSlice_grids (s : State) (x : HomeLine) : (leaveSlice s x).grids = s.grids := rfl
@[simp] theorem leaveSlice_past (s : State) (x : HomeLine) : (leaveSlice s x).past = s.past := rfl
@[simp] theorem leaveSlice_pastGrids (s : State) (x : HomeLine) : (leaveSlice s x).pastGrids = s.pastGrids := rfl
@[simp] theorem leaveSlice_joins (s : State) (x : HomeLine) : (leaveSlice s x).joins = s.joins := rfl
@[simp] theorem leaveSlice_held (s : State) (x : HomeLine) : (leaveSlice s x).held = s.held := rfl
@[simp] theorem leaveSlice_heldCmap (s : State) (x : HomeLine) : (leaveSlice s x).heldCmap = s.heldCmap := rfl
@[simp] theorem leaveSlice_fills (s : State) (x : HomeLine) : (leaveSlice s x).fills = s.fills := rfl
@[simp] theorem leaveSlice_wants (s : State) (x : HomeLine) : (leaveSlice s x).wants = s.wants := rfl
@[simp] theorem leaveSlice_failed (s : State) (x : HomeLine) : (leaveSlice s x).failed = s.failed := rfl
@[simp] theorem leaveSlice_nextId (s : State) (x : HomeLine) : (leaveSlice s x).nextId = s.nextId := rfl
@[simp] theorem leaveSlice_free (s : State) (x : HomeLine) : (leaveSlice s x).free = s.free := rfl
@[simp] theorem leaveSlice_agenda (s : State) (x : HomeLine) : (leaveSlice s x).agenda = s.agenda := rfl
@[simp] theorem leaveSlice_issuer (s : State) (x : HomeLine) : (leaveSlice s x).issuer = s.issuer := rfl
@[simp] theorem leaveSlice_start (s : State) (x : HomeLine) : (leaveSlice s x).start = s.start := rfl
@[simp] theorem coreAt_leaveSlice (s : State) (x : HomeLine) (k' : CoreId) : coreAt (leaveSlice s x) k' = coreAt s k' := rfl
@[simp] theorem dieAt_leaveSlice (s : State) (x : HomeLine) (d' : DieId) : dieAt (leaveSlice s x) d' = dieAt s d' := rfl
@[simp] theorem portAt_leaveSlice (s : State) (x : HomeLine) (p' : PortId) : portAt (leaveSlice s x) p' = portAt s p' := rfl
@[simp] theorem ctxAt_leaveSlice (s : State) (x : HomeLine) (c' : CtxId) : ctxAt (leaveSlice s x) c' = ctxAt s c' := rfl
@[simp] theorem queueAt_leaveSlice (s : State) (x : HomeLine) (q' : QueueId) : queueAt (leaveSlice s x) q' = queueAt s q' := rfl
@[simp] theorem teamAt_leaveSlice (s : State) (x : HomeLine) (t' : Nat) : teamAt (leaveSlice s x) t' = teamAt s t' := rfl
@[simp] theorem gridAt_leaveSlice (s : State) (x : HomeLine) (g' : Nat) : gridAt (leaveSlice s x) g' = gridAt s g' := rfl
@[simp] theorem joinAt_leaveSlice (s : State) (x : HomeLine) (j' : Nat) : joinAt (leaveSlice s x) j' = joinAt s j' := rfl
@[simp] theorem reqAt_leaveSlice (s : State) (x : HomeLine) (r' : Nat) : reqAt (leaveSlice s x) r' = reqAt s r' := rfl

/-! ### sliceFit -/

@[simp] theorem sliceFit_tick (s : State) (line : Nat) : (sliceFit s line).tick = s.tick := by unfold sliceFit; dsimp only; repeat' (first | rfl | split)
@[simp] theorem sliceFit_quarter (s : State) (line : Nat) : (sliceFit s line).quarter = s.quarter := by unfold sliceFit; dsimp only; repeat' (first | rfl | split)
@[simp] theorem sliceFit_dies (s : State) (line : Nat) : (sliceFit s line).dies = s.dies := by unfold sliceFit; dsimp only; repeat' (first | rfl | split)
@[simp] theorem sliceFit_cores (s : State) (line : Nat) : (sliceFit s line).cores = s.cores := by unfold sliceFit; dsimp only; repeat' (first | rfl | split)
@[simp] theorem sliceFit_ports (s : State) (line : Nat) : (sliceFit s line).ports = s.ports := by unfold sliceFit; dsimp only; repeat' (first | rfl | split)
@[simp] theorem sliceFit_ctxs (s : State) (line : Nat) : (sliceFit s line).ctxs = s.ctxs := by unfold sliceFit; dsimp only; repeat' (first | rfl | split)
@[simp] theorem sliceFit_queues (s : State) (line : Nat) : (sliceFit s line).queues = s.queues := by unfold sliceFit; dsimp only; repeat' (first | rfl | split)
@[simp] theorem sliceFit_dev (s : State) (line : Nat) : (sliceFit s line).dev = s.dev := by unfold sliceFit; dsimp only; repeat' (first | rfl | split)
@[simp] theorem sliceFit_host (s : State) (line : Nat) : (sliceFit s line).host = s.host := by unfold sliceFit; dsimp only; repeat' (first | rfl | split)
@[simp] theorem sliceFit_reqs (s : State) (line : Nat) : (sliceFit s line).reqs = s.reqs := by unfold sliceFit; dsimp only; repeat' (first | rfl | split)
@[simp] theorem sliceFit_marks (s : State) (line : Nat) : (sliceFit s line).marks = s.marks := by unfold sliceFit; dsimp only; repeat' (first | rfl | split)
@[simp] theorem sliceFit_syncs (s : State) (line : Nat) : (sliceFit s line).syncs = s.syncs := by unfold sliceFit; dsimp only; repeat' (first | rfl | split)
@[simp] theorem sliceFit_teams (s : State) (line : Nat) : (sliceFit s line).teams = s.teams := by unfold sliceFit; dsimp only; repeat' (first | rfl | split)
@[simp] theorem sliceFit_grids (s : State) (line : Nat) : (sliceFit s line).grids = s.grids := by unfold sliceFit; dsimp only; repeat' (first | rfl | split)
@[simp] theorem sliceFit_past (s : State) (line : Nat) : (sliceFit s line).past = s.past := by unfold sliceFit; dsimp only; repeat' (first | rfl | split)
@[simp] theorem sliceFit_pastGrids (s : State) (line : Nat) : (sliceFit s line).pastGrids = s.pastGrids := by unfold sliceFit; dsimp only; repeat' (first | rfl | split)
@[simp] theorem sliceFit_joins (s : State) (line : Nat) : (sliceFit s line).joins = s.joins := by unfold sliceFit; dsimp only; repeat' (first | rfl | split)
@[simp] theorem sliceFit_held (s : State) (line : Nat) : (sliceFit s line).held = s.held := by unfold sliceFit; dsimp only; repeat' (first | rfl | split)
@[simp] theorem sliceFit_heldCmap (s : State) (line : Nat) : (sliceFit s line).heldCmap = s.heldCmap := by unfold sliceFit; dsimp only; repeat' (first | rfl | split)
@[simp] theorem sliceFit_fills (s : State) (line : Nat) : (sliceFit s line).fills = s.fills := by unfold sliceFit; dsimp only; repeat' (first | rfl | split)
@[simp] theorem sliceFit_wants (s : State) (line : Nat) : (sliceFit s line).wants = s.wants := by unfold sliceFit; dsimp only; repeat' (first | rfl | split)
@[simp] theorem sliceFit_failed (s : State) (line : Nat) : (sliceFit s line).failed = s.failed := by unfold sliceFit; dsimp only; repeat' (first | rfl | split)
@[simp] theorem sliceFit_nextId (s : State) (line : Nat) : (sliceFit s line).nextId = s.nextId := by unfold sliceFit; dsimp only; repeat' (first | rfl | split)
@[simp] theorem sliceFit_free (s : State) (line : Nat) : (sliceFit s line).free = s.free := by unfold sliceFit; dsimp only; repeat' (first | rfl | split)
@[simp] theorem sliceFit_agenda (s : State) (line : Nat) : (sliceFit s line).agenda = s.agenda := by unfold sliceFit; dsimp only; repeat' (first | rfl | split)
@[simp] theorem sliceFit_issuer (s : State) (line : Nat) : (sliceFit s line).issuer = s.issuer := by unfold sliceFit; dsimp only; repeat' (first | rfl | split)
@[simp] theorem sliceFit_start (s : State) (line : Nat) : (sliceFit s line).start = s.start := by unfold sliceFit; dsimp only; repeat' (first | rfl | split)
@[simp] theorem coreAt_sliceFit (s : State) (line : Nat) (k' : CoreId) : coreAt (sliceFit s line) k' = coreAt s k' := by unfold sliceFit; dsimp only; repeat' (first | rfl | split)
@[simp] theorem dieAt_sliceFit (s : State) (line : Nat) (d' : DieId) : dieAt (sliceFit s line) d' = dieAt s d' := by unfold sliceFit; dsimp only; repeat' (first | rfl | split)
@[simp] theorem portAt_sliceFit (s : State) (line : Nat) (p' : PortId) : portAt (sliceFit s line) p' = portAt s p' := by unfold sliceFit; dsimp only; repeat' (first | rfl | split)
@[simp] theorem ctxAt_sliceFit (s : State) (line : Nat) (c' : CtxId) : ctxAt (sliceFit s line) c' = ctxAt s c' := by unfold sliceFit; dsimp only; repeat' (first | rfl | split)
@[simp] theorem queueAt_sliceFit (s : State) (line : Nat) (q' : QueueId) : queueAt (sliceFit s line) q' = queueAt s q' := by unfold sliceFit; dsimp only; repeat' (first | rfl | split)
@[simp] theorem teamAt_sliceFit (s : State) (line : Nat) (t' : Nat) : teamAt (sliceFit s line) t' = teamAt s t' := by unfold sliceFit; dsimp only; repeat' (first | rfl | split)
@[simp] theorem gridAt_sliceFit (s : State) (line : Nat) (g' : Nat) : gridAt (sliceFit s line) g' = gridAt s g' := by unfold sliceFit; dsimp only; repeat' (first | rfl | split)
@[simp] theorem joinAt_sliceFit (s : State) (line : Nat) (j' : Nat) : joinAt (sliceFit s line) j' = joinAt s j' := by unfold sliceFit; dsimp only; repeat' (first | rfl | split)
@[simp] theorem reqAt_sliceFit (s : State) (line : Nat) (r' : Nat) : reqAt (sliceFit s line) r' = reqAt s r' := by unfold sliceFit; dsimp only; repeat' (first | rfl | split)

/-! ### modLine -/

@[simp] theorem modLine_tick (s : State) (line : Nat) (g : HomeLine → HomeLine) : (modLine s line g).tick = s.tick := by unfold modLine; split <;> first | rfl | exact sliceFit_tick _ _
@[simp] theorem modLine_quarter (s : State) (line : Nat) (g : HomeLine → HomeLine) : (modLine s line g).quarter = s.quarter := by unfold modLine; split <;> first | rfl | exact sliceFit_quarter _ _
@[simp] theorem modLine_dies (s : State) (line : Nat) (g : HomeLine → HomeLine) : (modLine s line g).dies = s.dies := by unfold modLine; split <;> first | rfl | exact sliceFit_dies _ _
@[simp] theorem modLine_cores (s : State) (line : Nat) (g : HomeLine → HomeLine) : (modLine s line g).cores = s.cores := by unfold modLine; split <;> first | rfl | exact sliceFit_cores _ _
@[simp] theorem modLine_ports (s : State) (line : Nat) (g : HomeLine → HomeLine) : (modLine s line g).ports = s.ports := by unfold modLine; split <;> first | rfl | exact sliceFit_ports _ _
@[simp] theorem modLine_ctxs (s : State) (line : Nat) (g : HomeLine → HomeLine) : (modLine s line g).ctxs = s.ctxs := by unfold modLine; split <;> first | rfl | exact sliceFit_ctxs _ _
@[simp] theorem modLine_queues (s : State) (line : Nat) (g : HomeLine → HomeLine) : (modLine s line g).queues = s.queues := by unfold modLine; split <;> first | rfl | exact sliceFit_queues _ _
@[simp] theorem modLine_dev (s : State) (line : Nat) (g : HomeLine → HomeLine) : (modLine s line g).dev = s.dev := by unfold modLine; split <;> first | rfl | exact sliceFit_dev _ _
@[simp] theorem modLine_host (s : State) (line : Nat) (g : HomeLine → HomeLine) : (modLine s line g).host = s.host := by unfold modLine; split <;> first | rfl | exact sliceFit_host _ _
@[simp] theorem modLine_reqs (s : State) (line : Nat) (g : HomeLine → HomeLine) : (modLine s line g).reqs = s.reqs := by unfold modLine; split <;> first | rfl | exact sliceFit_reqs _ _
@[simp] theorem modLine_marks (s : State) (line : Nat) (g : HomeLine → HomeLine) : (modLine s line g).marks = s.marks := by unfold modLine; split <;> first | rfl | exact sliceFit_marks _ _
@[simp] theorem modLine_syncs (s : State) (line : Nat) (g : HomeLine → HomeLine) : (modLine s line g).syncs = s.syncs := by unfold modLine; split <;> first | rfl | exact sliceFit_syncs _ _
@[simp] theorem modLine_teams (s : State) (line : Nat) (g : HomeLine → HomeLine) : (modLine s line g).teams = s.teams := by unfold modLine; split <;> first | rfl | exact sliceFit_teams _ _
@[simp] theorem modLine_grids (s : State) (line : Nat) (g : HomeLine → HomeLine) : (modLine s line g).grids = s.grids := by unfold modLine; split <;> first | rfl | exact sliceFit_grids _ _
@[simp] theorem modLine_past (s : State) (line : Nat) (g : HomeLine → HomeLine) : (modLine s line g).past = s.past := by unfold modLine; split <;> first | rfl | exact sliceFit_past _ _
@[simp] theorem modLine_pastGrids (s : State) (line : Nat) (g : HomeLine → HomeLine) : (modLine s line g).pastGrids = s.pastGrids := by unfold modLine; split <;> first | rfl | exact sliceFit_pastGrids _ _
@[simp] theorem modLine_joins (s : State) (line : Nat) (g : HomeLine → HomeLine) : (modLine s line g).joins = s.joins := by unfold modLine; split <;> first | rfl | exact sliceFit_joins _ _
@[simp] theorem modLine_held (s : State) (line : Nat) (g : HomeLine → HomeLine) : (modLine s line g).held = s.held := by unfold modLine; split <;> first | rfl | exact sliceFit_held _ _
@[simp] theorem modLine_heldCmap (s : State) (line : Nat) (g : HomeLine → HomeLine) : (modLine s line g).heldCmap = s.heldCmap := by unfold modLine; split <;> first | rfl | exact sliceFit_heldCmap _ _
@[simp] theorem modLine_fills (s : State) (line : Nat) (g : HomeLine → HomeLine) : (modLine s line g).fills = s.fills := by unfold modLine; split <;> first | rfl | exact sliceFit_fills _ _
@[simp] theorem modLine_wants (s : State) (line : Nat) (g : HomeLine → HomeLine) : (modLine s line g).wants = s.wants := by unfold modLine; split <;> first | rfl | exact sliceFit_wants _ _
@[simp] theorem modLine_failed (s : State) (line : Nat) (g : HomeLine → HomeLine) : (modLine s line g).failed = s.failed := by unfold modLine; split <;> first | rfl | exact sliceFit_failed _ _
@[simp] theorem modLine_nextId (s : State) (line : Nat) (g : HomeLine → HomeLine) : (modLine s line g).nextId = s.nextId := by unfold modLine; split <;> first | rfl | exact sliceFit_nextId _ _
@[simp] theorem modLine_free (s : State) (line : Nat) (g : HomeLine → HomeLine) : (modLine s line g).free = s.free := by unfold modLine; split <;> first | rfl | exact sliceFit_free _ _
@[simp] theorem modLine_agenda (s : State) (line : Nat) (g : HomeLine → HomeLine) : (modLine s line g).agenda = s.agenda := by unfold modLine; split <;> first | rfl | exact sliceFit_agenda _ _
@[simp] theorem modLine_issuer (s : State) (line : Nat) (g : HomeLine → HomeLine) : (modLine s line g).issuer = s.issuer := by unfold modLine; split <;> first | rfl | exact sliceFit_issuer _ _
@[simp] theorem modLine_start (s : State) (line : Nat) (g : HomeLine → HomeLine) : (modLine s line g).start = s.start := by unfold modLine; split <;> first | rfl | exact sliceFit_start _ _
@[simp] theorem coreAt_modLine (s : State) (line : Nat) (g : HomeLine → HomeLine) (k' : CoreId) : coreAt (modLine s line g) k' = coreAt s k' := by unfold modLine; split <;> first | rfl | exact coreAt_sliceFit _ _ _
@[simp] theorem dieAt_modLine (s : State) (line : Nat) (g : HomeLine → HomeLine) (d' : DieId) : dieAt (modLine s line g) d' = dieAt s d' := by unfold modLine; split <;> first | rfl | exact dieAt_sliceFit _ _ _
@[simp] theorem portAt_modLine (s : State) (line : Nat) (g : HomeLine → HomeLine) (p' : PortId) : portAt (modLine s line g) p' = portAt s p' := by unfold modLine; split <;> first | rfl | exact portAt_sliceFit _ _ _
@[simp] theorem ctxAt_modLine (s : State) (line : Nat) (g : HomeLine → HomeLine) (c' : CtxId) : ctxAt (modLine s line g) c' = ctxAt s c' := by unfold modLine; split <;> first | rfl | exact ctxAt_sliceFit _ _ _
@[simp] theorem queueAt_modLine (s : State) (line : Nat) (g : HomeLine → HomeLine) (q' : QueueId) : queueAt (modLine s line g) q' = queueAt s q' := by unfold modLine; split <;> first | rfl | exact queueAt_sliceFit _ _ _
@[simp] theorem teamAt_modLine (s : State) (line : Nat) (g : HomeLine → HomeLine) (t' : Nat) : teamAt (modLine s line g) t' = teamAt s t' := by unfold modLine; split <;> first | rfl | exact teamAt_sliceFit _ _ _
@[simp] theorem gridAt_modLine (s : State) (line : Nat) (g : HomeLine → HomeLine) (g' : Nat) : gridAt (modLine s line g) g' = gridAt s g' := by unfold modLine; split <;> first | rfl | exact gridAt_sliceFit _ _ _
@[simp] theorem joinAt_modLine (s : State) (line : Nat) (g : HomeLine → HomeLine) (j' : Nat) : joinAt (modLine s line g) j' = joinAt s j' := by unfold modLine; split <;> first | rfl | exact joinAt_sliceFit _ _ _
@[simp] theorem reqAt_modLine (s : State) (line : Nat) (g : HomeLine → HomeLine) (r' : Nat) : reqAt (modLine s line g) r' = reqAt s r' := by unfold modLine; split <;> first | rfl | exact reqAt_sliceFit _ _ _

/-! ### unmarkLine -/

@[simp] theorem unmarkLine_tick (s : State) (line owner : Nat) : (unmarkLine s line owner).tick = s.tick := rfl
@[simp] theorem unmarkLine_quarter (s : State) (line owner : Nat) : (unmarkLine s line owner).quarter = s.quarter := rfl
@[simp] theorem unmarkLine_dies (s : State) (line owner : Nat) : (unmarkLine s line owner).dies = s.dies := rfl
@[simp] theorem unmarkLine_cores (s : State) (line owner : Nat) : (unmarkLine s line owner).cores = s.cores := rfl
@[simp] theorem unmarkLine_ports (s : State) (line owner : Nat) : (unmarkLine s line owner).ports = s.ports := rfl
@[simp] theorem unmarkLine_ctxs (s : State) (line owner : Nat) : (unmarkLine s line owner).ctxs = s.ctxs := rfl
@[simp] theorem unmarkLine_queues (s : State) (line owner : Nat) : (unmarkLine s line owner).queues = s.queues := rfl
@[simp] theorem unmarkLine_dev (s : State) (line owner : Nat) : (unmarkLine s line owner).dev = s.dev := rfl
@[simp] theorem unmarkLine_host (s : State) (line owner : Nat) : (unmarkLine s line owner).host = s.host := rfl
@[simp] theorem unmarkLine_floors (s : State) (line owner : Nat) : (unmarkLine s line owner).floors = s.floors := rfl
@[simp] theorem unmarkLine_reqs (s : State) (line owner : Nat) : (unmarkLine s line owner).reqs = s.reqs := rfl
@[simp] theorem unmarkLine_marks (s : State) (line owner : Nat) : (unmarkLine s line owner).marks = s.marks := rfl
@[simp] theorem unmarkLine_syncs (s : State) (line owner : Nat) : (unmarkLine s line owner).syncs = s.syncs := rfl
@[simp] theorem unmarkLine_teams (s : State) (line owner : Nat) : (unmarkLine s line owner).teams = s.teams := rfl
@[simp] theorem unmarkLine_grids (s : State) (line owner : Nat) : (unmarkLine s line owner).grids = s.grids := rfl
@[simp] theorem unmarkLine_past (s : State) (line owner : Nat) : (unmarkLine s line owner).past = s.past := rfl
@[simp] theorem unmarkLine_pastGrids (s : State) (line owner : Nat) : (unmarkLine s line owner).pastGrids = s.pastGrids := rfl
@[simp] theorem unmarkLine_joins (s : State) (line owner : Nat) : (unmarkLine s line owner).joins = s.joins := rfl
@[simp] theorem unmarkLine_held (s : State) (line owner : Nat) : (unmarkLine s line owner).held = s.held := rfl
@[simp] theorem unmarkLine_heldCmap (s : State) (line owner : Nat) : (unmarkLine s line owner).heldCmap = s.heldCmap := rfl
@[simp] theorem unmarkLine_fills (s : State) (line owner : Nat) : (unmarkLine s line owner).fills = s.fills := rfl
@[simp] theorem unmarkLine_wants (s : State) (line owner : Nat) : (unmarkLine s line owner).wants = s.wants := rfl
@[simp] theorem unmarkLine_failed (s : State) (line owner : Nat) : (unmarkLine s line owner).failed = s.failed := rfl
@[simp] theorem unmarkLine_nextId (s : State) (line owner : Nat) : (unmarkLine s line owner).nextId = s.nextId := rfl
@[simp] theorem unmarkLine_free (s : State) (line owner : Nat) : (unmarkLine s line owner).free = s.free := rfl
@[simp] theorem unmarkLine_agenda (s : State) (line owner : Nat) : (unmarkLine s line owner).agenda = s.agenda := rfl
@[simp] theorem unmarkLine_issuer (s : State) (line owner : Nat) : (unmarkLine s line owner).issuer = s.issuer := rfl
@[simp] theorem unmarkLine_start (s : State) (line owner : Nat) : (unmarkLine s line owner).start = s.start := rfl
@[simp] theorem coreAt_unmarkLine (s : State) (line owner : Nat) (k' : CoreId) : coreAt (unmarkLine s line owner) k' = coreAt s k' := rfl
@[simp] theorem dieAt_unmarkLine (s : State) (line owner : Nat) (d' : DieId) : dieAt (unmarkLine s line owner) d' = dieAt s d' := rfl
@[simp] theorem portAt_unmarkLine (s : State) (line owner : Nat) (p' : PortId) : portAt (unmarkLine s line owner) p' = portAt s p' := rfl
@[simp] theorem ctxAt_unmarkLine (s : State) (line owner : Nat) (c' : CtxId) : ctxAt (unmarkLine s line owner) c' = ctxAt s c' := rfl
@[simp] theorem queueAt_unmarkLine (s : State) (line owner : Nat) (q' : QueueId) : queueAt (unmarkLine s line owner) q' = queueAt s q' := rfl
@[simp] theorem teamAt_unmarkLine (s : State) (line owner : Nat) (t' : Nat) : teamAt (unmarkLine s line owner) t' = teamAt s t' := rfl
@[simp] theorem gridAt_unmarkLine (s : State) (line owner : Nat) (g' : Nat) : gridAt (unmarkLine s line owner) g' = gridAt s g' := rfl
@[simp] theorem joinAt_unmarkLine (s : State) (line owner : Nat) (j' : Nat) : joinAt (unmarkLine s line owner) j' = joinAt s j' := rfl
@[simp] theorem reqAt_unmarkLine (s : State) (line owner : Nat) (r' : Nat) : reqAt (unmarkLine s line owner) r' = reqAt s r' := rfl

/-! ### setFrag -/

@[simp] theorem setFrag_cycle (c : Core) (f : FragId) (x : Option Frag) : (setFrag c f x).cycle = c.cycle := rfl
@[simp] theorem setFrag_strands (c : Core) (f : FragId) (x : Option Frag) : (setFrag c f x).strands = c.strands := rfl
@[simp] theorem setFrag_front (c : Core) (f : FragId) (x : Option Frag) : (setFrag c f x).front = c.front := rfl
@[simp] theorem setFrag_bubble (c : Core) (f : FragId) (x : Option Frag) : (setFrag c f x).bubble = c.bubble := rfl
@[simp] theorem setFrag_lastFront (c : Core) (f : FragId) (x : Option Frag) : (setFrag c f x).lastFront = c.lastFront := rfl
@[simp] theorem setFrag_unitFree (c : Core) (f : FragId) (x : Option Frag) : (setFrag c f x).unitFree = c.unitFree := rfl
@[simp] theorem setFrag_warps (c : Core) (f : FragId) (x : Option Frag) : (setFrag c f x).warps = c.warps := rfl
@[simp] theorem setFrag_lastSel (c : Core) (f : FragId) (x : Option Frag) : (setFrag c f x).lastSel = c.lastSel := rfl
@[simp] theorem setFrag_issued (c : Core) (f : FragId) (x : Option Frag) : (setFrag c f x).issued = c.issued := rfl
@[simp] theorem setFrag_mismatch (c : Core) (f : FragId) (x : Option Frag) : (setFrag c f x).mismatch = c.mismatch := rfl
@[simp] theorem setFrag_seats (c : Core) (f : FragId) (x : Option Frag) : (setFrag c f x).seats = c.seats := rfl
@[simp] theorem setFrag_ended (c : Core) (f : FragId) (x : Option Frag) : (setFrag c f x).ended = c.ended := rfl
@[simp] theorem setFrag_l1 (c : Core) (f : FragId) (x : Option Frag) : (setFrag c f x).l1 = c.l1 := rfl
@[simp] theorem setFrag_tlb (c : Core) (f : FragId) (x : Option Frag) : (setFrag c f x).tlb = c.tlb := rfl
@[simp] theorem setFrag_copyQ (c : Core) (f : FragId) (x : Option Frag) : (setFrag c f x).copyQ = c.copyQ := rfl
@[simp] theorem setFrag_copies (c : Core) (f : FragId) (x : Option Frag) : (setFrag c f x).copies = c.copies := rfl
@[simp] theorem setFrag_abandoned (c : Core) (f : FragId) (x : Option Frag) : (setFrag c f x).abandoned = c.abandoned := rfl
@[simp] theorem setFrag_sampler (c : Core) (f : FragId) (x : Option Frag) : (setFrag c f x).sampler = c.sampler := rfl
@[simp] theorem setFrag_loopCtr (c : Core) (f : FragId) (x : Option Frag) : (setFrag c f x).loopCtr = c.loopCtr := rfl
@[simp] theorem warpAt_setFrag (c : Core) (f : FragId) (x : Option Frag) (w' : WarpIx) : warpAt (setFrag c f x) w' = warpAt c w' := rfl
@[simp] theorem strandAt_setFrag (c : Core) (f : FragId) (x : Option Frag) (n' : StrandId) : strandAt (setFrag c f x) n' = strandAt c n' := rfl
@[simp] theorem seatAt_setFrag (c : Core) (f : FragId) (x : Option Frag) (t' : Nat) : seatAt (setFrag c f x) t' = seatAt c t' := rfl

/-! ### setWarp -/

@[simp] theorem setWarp_cycle (c : Core) (w : WarpIx) (x : Option Warp) : (setWarp c w x).cycle = c.cycle := rfl
@[simp] theorem setWarp_strands (c : Core) (w : WarpIx) (x : Option Warp) : (setWarp c w x).strands = c.strands := rfl
@[simp] theorem setWarp_front (c : Core) (w : WarpIx) (x : Option Warp) : (setWarp c w x).front = c.front := rfl
@[simp] theorem setWarp_bubble (c : Core) (w : WarpIx) (x : Option Warp) : (setWarp c w x).bubble = c.bubble := rfl
@[simp] theorem setWarp_lastFront (c : Core) (w : WarpIx) (x : Option Warp) : (setWarp c w x).lastFront = c.lastFront := rfl
@[simp] theorem setWarp_unitFree (c : Core) (w : WarpIx) (x : Option Warp) : (setWarp c w x).unitFree = c.unitFree := rfl
@[simp] theorem setWarp_frags (c : Core) (w : WarpIx) (x : Option Warp) : (setWarp c w x).frags = c.frags := rfl
@[simp] theorem setWarp_lastSel (c : Core) (w : WarpIx) (x : Option Warp) : (setWarp c w x).lastSel = c.lastSel := rfl
@[simp] theorem setWarp_issued (c : Core) (w : WarpIx) (x : Option Warp) : (setWarp c w x).issued = c.issued := rfl
@[simp] theorem setWarp_mismatch (c : Core) (w : WarpIx) (x : Option Warp) : (setWarp c w x).mismatch = c.mismatch := rfl
@[simp] theorem setWarp_seats (c : Core) (w : WarpIx) (x : Option Warp) : (setWarp c w x).seats = c.seats := rfl
@[simp] theorem setWarp_ended (c : Core) (w : WarpIx) (x : Option Warp) : (setWarp c w x).ended = c.ended := rfl
@[simp] theorem setWarp_l1 (c : Core) (w : WarpIx) (x : Option Warp) : (setWarp c w x).l1 = c.l1 := rfl
@[simp] theorem setWarp_tlb (c : Core) (w : WarpIx) (x : Option Warp) : (setWarp c w x).tlb = c.tlb := rfl
@[simp] theorem setWarp_copyQ (c : Core) (w : WarpIx) (x : Option Warp) : (setWarp c w x).copyQ = c.copyQ := rfl
@[simp] theorem setWarp_copies (c : Core) (w : WarpIx) (x : Option Warp) : (setWarp c w x).copies = c.copies := rfl
@[simp] theorem setWarp_abandoned (c : Core) (w : WarpIx) (x : Option Warp) : (setWarp c w x).abandoned = c.abandoned := rfl
@[simp] theorem setWarp_sampler (c : Core) (w : WarpIx) (x : Option Warp) : (setWarp c w x).sampler = c.sampler := rfl
@[simp] theorem setWarp_loopCtr (c : Core) (w : WarpIx) (x : Option Warp) : (setWarp c w x).loopCtr = c.loopCtr := rfl
@[simp] theorem fragAt_setWarp (c : Core) (w : WarpIx) (x : Option Warp) (f' : FragId) : fragAt (setWarp c w x) f' = fragAt c f' := rfl
@[simp] theorem strandAt_setWarp (c : Core) (w : WarpIx) (x : Option Warp) (n' : StrandId) : strandAt (setWarp c w x) n' = strandAt c n' := rfl
@[simp] theorem seatAt_setWarp (c : Core) (w : WarpIx) (x : Option Warp) (t' : Nat) : seatAt (setWarp c w x) t' = seatAt c t' := rfl

/-! ### setStrand -/

@[simp] theorem setStrand_cycle (c : Core) (n : StrandId) (x : Option Strand) : (setStrand c n x).cycle = c.cycle := rfl
@[simp] theorem setStrand_front (c : Core) (n : StrandId) (x : Option Strand) : (setStrand c n x).front = c.front := rfl
@[simp] theorem setStrand_bubble (c : Core) (n : StrandId) (x : Option Strand) : (setStrand c n x).bubble = c.bubble := rfl
@[simp] theorem setStrand_lastFront (c : Core) (n : StrandId) (x : Option Strand) : (setStrand c n x).lastFront = c.lastFront := rfl
@[simp] theorem setStrand_unitFree (c : Core) (n : StrandId) (x : Option Strand) : (setStrand c n x).unitFree = c.unitFree := rfl
@[simp] theorem setStrand_warps (c : Core) (n : StrandId) (x : Option Strand) : (setStrand c n x).warps = c.warps := rfl
@[simp] theorem setStrand_frags (c : Core) (n : StrandId) (x : Option Strand) : (setStrand c n x).frags = c.frags := rfl
@[simp] theorem setStrand_lastSel (c : Core) (n : StrandId) (x : Option Strand) : (setStrand c n x).lastSel = c.lastSel := rfl
@[simp] theorem setStrand_issued (c : Core) (n : StrandId) (x : Option Strand) : (setStrand c n x).issued = c.issued := rfl
@[simp] theorem setStrand_mismatch (c : Core) (n : StrandId) (x : Option Strand) : (setStrand c n x).mismatch = c.mismatch := rfl
@[simp] theorem setStrand_seats (c : Core) (n : StrandId) (x : Option Strand) : (setStrand c n x).seats = c.seats := rfl
@[simp] theorem setStrand_ended (c : Core) (n : StrandId) (x : Option Strand) : (setStrand c n x).ended = c.ended := rfl
@[simp] theorem setStrand_l1 (c : Core) (n : StrandId) (x : Option Strand) : (setStrand c n x).l1 = c.l1 := rfl
@[simp] theorem setStrand_tlb (c : Core) (n : StrandId) (x : Option Strand) : (setStrand c n x).tlb = c.tlb := rfl
@[simp] theorem setStrand_copyQ (c : Core) (n : StrandId) (x : Option Strand) : (setStrand c n x).copyQ = c.copyQ := rfl
@[simp] theorem setStrand_copies (c : Core) (n : StrandId) (x : Option Strand) : (setStrand c n x).copies = c.copies := rfl
@[simp] theorem setStrand_abandoned (c : Core) (n : StrandId) (x : Option Strand) : (setStrand c n x).abandoned = c.abandoned := rfl
@[simp] theorem setStrand_sampler (c : Core) (n : StrandId) (x : Option Strand) : (setStrand c n x).sampler = c.sampler := rfl
@[simp] theorem setStrand_loopCtr (c : Core) (n : StrandId) (x : Option Strand) : (setStrand c n x).loopCtr = c.loopCtr := rfl
@[simp] theorem fragAt_setStrand (c : Core) (n : StrandId) (x : Option Strand) (f' : FragId) : fragAt (setStrand c n x) f' = fragAt c f' := rfl
@[simp] theorem warpAt_setStrand (c : Core) (n : StrandId) (x : Option Strand) (w' : WarpIx) : warpAt (setStrand c n x) w' = warpAt c w' := rfl
@[simp] theorem seatAt_setStrand (c : Core) (n : StrandId) (x : Option Strand) (t' : Nat) : seatAt (setStrand c n x) t' = seatAt c t' := rfl

/-! ### modSeat -/

@[simp] theorem modSeat_cycle (c : Core) (t : Nat) (g : Seat → Seat) : (modSeat c t g).cycle = c.cycle := rfl
@[simp] theorem modSeat_strands (c : Core) (t : Nat) (g : Seat → Seat) : (modSeat c t g).strands = c.strands := rfl
@[simp] theorem modSeat_front (c : Core) (t : Nat) (g : Seat → Seat) : (modSeat c t g).front = c.front := rfl
@[simp] theorem modSeat_bubble (c : Core) (t : Nat) (g : Seat → Seat) : (modSeat c t g).bubble = c.bubble := rfl
@[simp] theorem modSeat_lastFront (c : Core) (t : Nat) (g : Seat → Seat) : (modSeat c t g).lastFront = c.lastFront := rfl
@[simp] theorem modSeat_unitFree (c : Core) (t : Nat) (g : Seat → Seat) : (modSeat c t g).unitFree = c.unitFree := rfl
@[simp] theorem modSeat_warps (c : Core) (t : Nat) (g : Seat → Seat) : (modSeat c t g).warps = c.warps := rfl
@[simp] theorem modSeat_frags (c : Core) (t : Nat) (g : Seat → Seat) : (modSeat c t g).frags = c.frags := rfl
@[simp] theorem modSeat_lastSel (c : Core) (t : Nat) (g : Seat → Seat) : (modSeat c t g).lastSel = c.lastSel := rfl
@[simp] theorem modSeat_issued (c : Core) (t : Nat) (g : Seat → Seat) : (modSeat c t g).issued = c.issued := rfl
@[simp] theorem modSeat_mismatch (c : Core) (t : Nat) (g : Seat → Seat) : (modSeat c t g).mismatch = c.mismatch := rfl
@[simp] theorem modSeat_l1 (c : Core) (t : Nat) (g : Seat → Seat) : (modSeat c t g).l1 = c.l1 := rfl
@[simp] theorem modSeat_tlb (c : Core) (t : Nat) (g : Seat → Seat) : (modSeat c t g).tlb = c.tlb := rfl
@[simp] theorem modSeat_copyQ (c : Core) (t : Nat) (g : Seat → Seat) : (modSeat c t g).copyQ = c.copyQ := rfl
@[simp] theorem modSeat_copies (c : Core) (t : Nat) (g : Seat → Seat) : (modSeat c t g).copies = c.copies := rfl
@[simp] theorem modSeat_abandoned (c : Core) (t : Nat) (g : Seat → Seat) : (modSeat c t g).abandoned = c.abandoned := rfl
@[simp] theorem modSeat_sampler (c : Core) (t : Nat) (g : Seat → Seat) : (modSeat c t g).sampler = c.sampler := rfl
@[simp] theorem modSeat_loopCtr (c : Core) (t : Nat) (g : Seat → Seat) : (modSeat c t g).loopCtr = c.loopCtr := rfl
@[simp] theorem fragAt_modSeat (c : Core) (t : Nat) (g : Seat → Seat) (f' : FragId) : fragAt (modSeat c t g) f' = fragAt c f' := rfl
@[simp] theorem warpAt_modSeat (c : Core) (t : Nat) (g : Seat → Seat) (w' : WarpIx) : warpAt (modSeat c t g) w' = warpAt c w' := rfl
@[simp] theorem strandAt_modSeat (c : Core) (t : Nat) (g : Seat → Seat) (n' : StrandId) : strandAt (modSeat c t g) n' = strandAt c n' := rfl

/-! ### modFrag -/

@[simp] theorem modFrag_cycle (c : Core) (f : FragId) (g : Frag → Frag) : (modFrag c f g).cycle = c.cycle := by unfold modFrag; split <;> rfl
@[simp] theorem modFrag_strands (c : Core) (f : FragId) (g : Frag → Frag) : (modFrag c f g).strands = c.strands := by unfold modFrag; split <;> rfl
@[simp] theorem modFrag_front (c : Core) (f : FragId) (g : Frag → Frag) : (modFrag c f g).front = c.front := by unfold modFrag; split <;> rfl
@[simp] theorem modFrag_bubble (c : Core) (f : FragId) (g : Frag → Frag) : (modFrag c f g).bubble = c.bubble := by unfold modFrag; split <;> rfl
@[simp] theorem modFrag_lastFront (c : Core) (f : FragId) (g : Frag → Frag) : (modFrag c f g).lastFront = c.lastFront := by unfold modFrag; split <;> rfl
@[simp] theorem modFrag_unitFree (c : Core) (f : FragId) (g : Frag → Frag) : (modFrag c f g).unitFree = c.unitFree := by unfold modFrag; split <;> rfl
@[simp] theorem modFrag_warps (c : Core) (f : FragId) (g : Frag → Frag) : (modFrag c f g).warps = c.warps := by unfold modFrag; split <;> rfl
@[simp] theorem modFrag_lastSel (c : Core) (f : FragId) (g : Frag → Frag) : (modFrag c f g).lastSel = c.lastSel := by unfold modFrag; split <;> rfl
@[simp] theorem modFrag_issued (c : Core) (f : FragId) (g : Frag → Frag) : (modFrag c f g).issued = c.issued := by unfold modFrag; split <;> rfl
@[simp] theorem modFrag_mismatch (c : Core) (f : FragId) (g : Frag → Frag) : (modFrag c f g).mismatch = c.mismatch := by unfold modFrag; split <;> rfl
@[simp] theorem modFrag_seats (c : Core) (f : FragId) (g : Frag → Frag) : (modFrag c f g).seats = c.seats := by unfold modFrag; split <;> rfl
@[simp] theorem modFrag_ended (c : Core) (f : FragId) (g : Frag → Frag) : (modFrag c f g).ended = c.ended := by unfold modFrag; split <;> rfl
@[simp] theorem modFrag_l1 (c : Core) (f : FragId) (g : Frag → Frag) : (modFrag c f g).l1 = c.l1 := by unfold modFrag; split <;> rfl
@[simp] theorem modFrag_tlb (c : Core) (f : FragId) (g : Frag → Frag) : (modFrag c f g).tlb = c.tlb := by unfold modFrag; split <;> rfl
@[simp] theorem modFrag_copyQ (c : Core) (f : FragId) (g : Frag → Frag) : (modFrag c f g).copyQ = c.copyQ := by unfold modFrag; split <;> rfl
@[simp] theorem modFrag_copies (c : Core) (f : FragId) (g : Frag → Frag) : (modFrag c f g).copies = c.copies := by unfold modFrag; split <;> rfl
@[simp] theorem modFrag_abandoned (c : Core) (f : FragId) (g : Frag → Frag) : (modFrag c f g).abandoned = c.abandoned := by unfold modFrag; split <;> rfl
@[simp] theorem modFrag_sampler (c : Core) (f : FragId) (g : Frag → Frag) : (modFrag c f g).sampler = c.sampler := by unfold modFrag; split <;> rfl
@[simp] theorem modFrag_loopCtr (c : Core) (f : FragId) (g : Frag → Frag) : (modFrag c f g).loopCtr = c.loopCtr := by unfold modFrag; split <;> rfl
@[simp] theorem warpAt_modFrag (c : Core) (f : FragId) (g : Frag → Frag) (w' : WarpIx) : warpAt (modFrag c f g) w' = warpAt c w' := by unfold modFrag; split <;> rfl
@[simp] theorem strandAt_modFrag (c : Core) (f : FragId) (g : Frag → Frag) (n' : StrandId) : strandAt (modFrag c f g) n' = strandAt c n' := by unfold modFrag; split <;> rfl
@[simp] theorem seatAt_modFrag (c : Core) (f : FragId) (g : Frag → Frag) (t' : Nat) : seatAt (modFrag c f g) t' = seatAt c t' := by unfold modFrag; split <;> rfl

/-! ### modWarp -/

@[simp] theorem modWarp_cycle (c : Core) (w : WarpIx) (g : Warp → Warp) : (modWarp c w g).cycle = c.cycle := by unfold modWarp; split <;> rfl
@[simp] theorem modWarp_strands (c : Core) (w : WarpIx) (g : Warp → Warp) : (modWarp c w g).strands = c.strands := by unfold modWarp; split <;> rfl
@[simp] theorem modWarp_front (c : Core) (w : WarpIx) (g : Warp → Warp) : (modWarp c w g).front = c.front := by unfold modWarp; split <;> rfl
@[simp] theorem modWarp_bubble (c : Core) (w : WarpIx) (g : Warp → Warp) : (modWarp c w g).bubble = c.bubble := by unfold modWarp; split <;> rfl
@[simp] theorem modWarp_lastFront (c : Core) (w : WarpIx) (g : Warp → Warp) : (modWarp c w g).lastFront = c.lastFront := by unfold modWarp; split <;> rfl
@[simp] theorem modWarp_unitFree (c : Core) (w : WarpIx) (g : Warp → Warp) : (modWarp c w g).unitFree = c.unitFree := by unfold modWarp; split <;> rfl
@[simp] theorem modWarp_frags (c : Core) (w : WarpIx) (g : Warp → Warp) : (modWarp c w g).frags = c.frags := by unfold modWarp; split <;> rfl
@[simp] theorem modWarp_lastSel (c : Core) (w : WarpIx) (g : Warp → Warp) : (modWarp c w g).lastSel = c.lastSel := by unfold modWarp; split <;> rfl
@[simp] theorem modWarp_issued (c : Core) (w : WarpIx) (g : Warp → Warp) : (modWarp c w g).issued = c.issued := by unfold modWarp; split <;> rfl
@[simp] theorem modWarp_mismatch (c : Core) (w : WarpIx) (g : Warp → Warp) : (modWarp c w g).mismatch = c.mismatch := by unfold modWarp; split <;> rfl
@[simp] theorem modWarp_seats (c : Core) (w : WarpIx) (g : Warp → Warp) : (modWarp c w g).seats = c.seats := by unfold modWarp; split <;> rfl
@[simp] theorem modWarp_ended (c : Core) (w : WarpIx) (g : Warp → Warp) : (modWarp c w g).ended = c.ended := by unfold modWarp; split <;> rfl
@[simp] theorem modWarp_l1 (c : Core) (w : WarpIx) (g : Warp → Warp) : (modWarp c w g).l1 = c.l1 := by unfold modWarp; split <;> rfl
@[simp] theorem modWarp_tlb (c : Core) (w : WarpIx) (g : Warp → Warp) : (modWarp c w g).tlb = c.tlb := by unfold modWarp; split <;> rfl
@[simp] theorem modWarp_copyQ (c : Core) (w : WarpIx) (g : Warp → Warp) : (modWarp c w g).copyQ = c.copyQ := by unfold modWarp; split <;> rfl
@[simp] theorem modWarp_copies (c : Core) (w : WarpIx) (g : Warp → Warp) : (modWarp c w g).copies = c.copies := by unfold modWarp; split <;> rfl
@[simp] theorem modWarp_abandoned (c : Core) (w : WarpIx) (g : Warp → Warp) : (modWarp c w g).abandoned = c.abandoned := by unfold modWarp; split <;> rfl
@[simp] theorem modWarp_sampler (c : Core) (w : WarpIx) (g : Warp → Warp) : (modWarp c w g).sampler = c.sampler := by unfold modWarp; split <;> rfl
@[simp] theorem modWarp_loopCtr (c : Core) (w : WarpIx) (g : Warp → Warp) : (modWarp c w g).loopCtr = c.loopCtr := by unfold modWarp; split <;> rfl
@[simp] theorem fragAt_modWarp (c : Core) (w : WarpIx) (g : Warp → Warp) (f' : FragId) : fragAt (modWarp c w g) f' = fragAt c f' := by unfold modWarp; split <;> rfl
@[simp] theorem strandAt_modWarp (c : Core) (w : WarpIx) (g : Warp → Warp) (n' : StrandId) : strandAt (modWarp c w g) n' = strandAt c n' := by unfold modWarp; split <;> rfl
@[simp] theorem seatAt_modWarp (c : Core) (w : WarpIx) (g : Warp → Warp) (t' : Nat) : seatAt (modWarp c w g) t' = seatAt c t' := by unfold modWarp; split <;> rfl

/-! ### modStrand -/

@[simp] theorem modStrand_cycle (c : Core) (n : StrandId) (g : Strand → Strand) : (modStrand c n g).cycle = c.cycle := by unfold modStrand; split <;> rfl
@[simp] theorem modStrand_front (c : Core) (n : StrandId) (g : Strand → Strand) : (modStrand c n g).front = c.front := by unfold modStrand; split <;> rfl
@[simp] theorem modStrand_bubble (c : Core) (n : StrandId) (g : Strand → Strand) : (modStrand c n g).bubble = c.bubble := by unfold modStrand; split <;> rfl
@[simp] theorem modStrand_lastFront (c : Core) (n : StrandId) (g : Strand → Strand) : (modStrand c n g).lastFront = c.lastFront := by unfold modStrand; split <;> rfl
@[simp] theorem modStrand_unitFree (c : Core) (n : StrandId) (g : Strand → Strand) : (modStrand c n g).unitFree = c.unitFree := by unfold modStrand; split <;> rfl
@[simp] theorem modStrand_warps (c : Core) (n : StrandId) (g : Strand → Strand) : (modStrand c n g).warps = c.warps := by unfold modStrand; split <;> rfl
@[simp] theorem modStrand_frags (c : Core) (n : StrandId) (g : Strand → Strand) : (modStrand c n g).frags = c.frags := by unfold modStrand; split <;> rfl
@[simp] theorem modStrand_lastSel (c : Core) (n : StrandId) (g : Strand → Strand) : (modStrand c n g).lastSel = c.lastSel := by unfold modStrand; split <;> rfl
@[simp] theorem modStrand_issued (c : Core) (n : StrandId) (g : Strand → Strand) : (modStrand c n g).issued = c.issued := by unfold modStrand; split <;> rfl
@[simp] theorem modStrand_mismatch (c : Core) (n : StrandId) (g : Strand → Strand) : (modStrand c n g).mismatch = c.mismatch := by unfold modStrand; split <;> rfl
@[simp] theorem modStrand_seats (c : Core) (n : StrandId) (g : Strand → Strand) : (modStrand c n g).seats = c.seats := by unfold modStrand; split <;> rfl
@[simp] theorem modStrand_ended (c : Core) (n : StrandId) (g : Strand → Strand) : (modStrand c n g).ended = c.ended := by unfold modStrand; split <;> rfl
@[simp] theorem modStrand_l1 (c : Core) (n : StrandId) (g : Strand → Strand) : (modStrand c n g).l1 = c.l1 := by unfold modStrand; split <;> rfl
@[simp] theorem modStrand_tlb (c : Core) (n : StrandId) (g : Strand → Strand) : (modStrand c n g).tlb = c.tlb := by unfold modStrand; split <;> rfl
@[simp] theorem modStrand_copyQ (c : Core) (n : StrandId) (g : Strand → Strand) : (modStrand c n g).copyQ = c.copyQ := by unfold modStrand; split <;> rfl
@[simp] theorem modStrand_copies (c : Core) (n : StrandId) (g : Strand → Strand) : (modStrand c n g).copies = c.copies := by unfold modStrand; split <;> rfl
@[simp] theorem modStrand_abandoned (c : Core) (n : StrandId) (g : Strand → Strand) : (modStrand c n g).abandoned = c.abandoned := by unfold modStrand; split <;> rfl
@[simp] theorem modStrand_sampler (c : Core) (n : StrandId) (g : Strand → Strand) : (modStrand c n g).sampler = c.sampler := by unfold modStrand; split <;> rfl
@[simp] theorem modStrand_loopCtr (c : Core) (n : StrandId) (g : Strand → Strand) : (modStrand c n g).loopCtr = c.loopCtr := by unfold modStrand; split <;> rfl
@[simp] theorem fragAt_modStrand (c : Core) (n : StrandId) (g : Strand → Strand) (f' : FragId) : fragAt (modStrand c n g) f' = fragAt c f' := by unfold modStrand; split <;> rfl
@[simp] theorem warpAt_modStrand (c : Core) (n : StrandId) (g : Strand → Strand) (w' : WarpIx) : warpAt (modStrand c n g) w' = warpAt c w' := by unfold modStrand; split <;> rfl
@[simp] theorem seatAt_modStrand (c : Core) (n : StrandId) (g : Strand → Strand) (t' : Nat) : seatAt (modStrand c n g) t' = seatAt c t' := by unfold modStrand; split <;> rfl

/-! ### A place read after it was written -/

@[simp] theorem coreAt_setCore (s : State) (k : CoreId) (c : Core) : coreAt (setCore s k c) k = c := by
  simp [coreAt, setCore]
theorem coreAt_setCore_ne (s : State) {k j : CoreId} (c : Core) (h : j ≠ k) : coreAt (setCore s k c) j = coreAt s j := by
  have : k.val ≠ j.val := fun e => h (Fin.ext e.symm)
  simp [coreAt, setCore, this]
@[simp] theorem setCore_setCore (s : State) (k : CoreId) (c c' : Core) : setCore (setCore s k c) k c' = setCore s k c' := by
  simp [setCore]
@[simp] theorem setCore_coreAt (s : State) (k : CoreId) : setCore s k (coreAt s k) = s := by
  simp [setCore, coreAt]
@[simp] theorem fragAt_setFrag (c : Core) (f : FragId) (x : Option Frag) : fragAt (setFrag c f x) f = x := by
  simp [fragAt, setFrag]
theorem fragAt_setFrag_ne (c : Core) {f g : FragId} (x : Option Frag) (h : g ≠ f) : fragAt (setFrag c f x) g = fragAt c g := by
  have : f.val ≠ g.val := fun e => h (Fin.ext e.symm)
  simp [fragAt, setFrag, this]
@[simp] theorem setFrag_setFrag (c : Core) (f : FragId) (x y : Option Frag) : setFrag (setFrag c f x) f y = setFrag c f y := by
  simp [setFrag]
@[simp] theorem warpAt_setWarp (c : Core) (w : WarpIx) (x : Option Warp) : warpAt (setWarp c w x) w = x := by
  simp [warpAt, setWarp]
theorem warpAt_setWarp_ne (c : Core) {w v : WarpIx} (x : Option Warp) (h : v ≠ w) : warpAt (setWarp c w x) v = warpAt c v := by
  have : w.val ≠ v.val := fun e => h (Fin.ext e.symm)
  simp [warpAt, setWarp, this]
@[simp] theorem setWarp_setWarp (c : Core) (w : WarpIx) (x y : Option Warp) : setWarp (setWarp c w x) w y = setWarp c w y := by
  simp [setWarp]
@[simp] theorem strandAt_setStrand (c : Core) (n : StrandId) (x : Option Strand) : strandAt (setStrand c n x) n = x := by
  simp [strandAt, setStrand]
theorem strandAt_setStrand_ne (c : Core) {n m : StrandId} (x : Option Strand) (h : m ≠ n) :
    strandAt (setStrand c n x) m = strandAt c m := by
  have : n.val ≠ m.val := fun e => h (Fin.ext e.symm)
  simp [strandAt, setStrand, this]
@[simp] theorem setStrand_setStrand (c : Core) (n : StrandId) (x y : Option Strand) :
    setStrand (setStrand c n x) n y = setStrand c n y := by
  simp [setStrand]
/-- A warp place and a fragment entry are written in either order. -/
theorem setWarp_setFrag (c : Core) (w : WarpIx) (f : FragId) (x : Option Warp) (y : Option Frag) :
    setWarp (setFrag c f y) w x = setFrag (setWarp c w x) f y := rfl

@[simp] theorem coreAt_modCore (s : State) (k : CoreId) (g : Core → Core) : coreAt (modCore s k g) k = g (coreAt s k) := by
  simp [modCore]
theorem coreAt_modCore_ne (s : State) {k j : CoreId} (g : Core → Core) (h : j ≠ k) : coreAt (modCore s k g) j = coreAt s j := by
  simp [modCore, coreAt_setCore_ne _ _ h]
theorem modFrag_some {c : Core} {f : FragId} {x : Frag} (h : fragAt c f = some x) (g : Frag → Frag) :
    modFrag c f g = setFrag c f (some (g x)) := by simp [modFrag, h]
theorem modWarp_some {c : Core} {w : WarpIx} {x : Warp} (h : warpAt c w = some x) (g : Warp → Warp) :
    modWarp c w g = setWarp c w (some (g x)) := by simp [modWarp, h]
theorem modStrand_some {c : Core} {n : StrandId} {x : Strand} (h : strandAt c n = some x) (g : Strand → Strand) :
    modStrand c n g = setStrand c n (some (g x)) := by simp [modStrand, h]
theorem onFrag_some {s : State} {k : CoreId} {f : FragId} {x : Frag} (h : fragAt (coreAt s k) f = some x) (g : Frag → Frag) :
    onFrag s k f g = setCore s k (setFrag (coreAt s k) f (some (g x))) := by simp [onFrag, modCore, modFrag_some h]
theorem onWarp_some {s : State} {k : CoreId} {w : WarpIx} {x : Warp} (h : warpAt (coreAt s k) w = some x) (g : Warp → Warp) :
    onWarp s k w g = setCore s k (setWarp (coreAt s k) w (some (g x))) := by simp [onWarp, modCore, modWarp_some h]
theorem onStrand_some {s : State} {k : CoreId} {n : StrandId} {x : Strand} (h : strandAt (coreAt s k) n = some x)
    (g : Strand → Strand) : onStrand s k n g = setCore s k (setStrand (coreAt s k) n (some (g x))) := by
  simp [onStrand, modCore, modStrand_some h]

@[simp] theorem dieAt_modDie (s : State) (d : DieId) (g : Die → Die) : dieAt (modDie s d g) d = g (dieAt s d) := by
  simp [dieAt, modDie]
theorem dieAt_modDie_ne (s : State) {d e : DieId} (g : Die → Die) (h : e ≠ d) : dieAt (modDie s d g) e = dieAt s e := by
  have : d.val ≠ e.val := fun x => h (Fin.ext x.symm)
  simp [dieAt, modDie, this]
@[simp] theorem portAt_modPort (s : State) (p : PortId) (g : Port → Port) : portAt (modPort s p g) p = g (portAt s p) := by
  simp [portAt, modPort]
theorem portAt_modPort_ne (s : State) {p q : PortId} (g : Port → Port) (h : q ≠ p) : portAt (modPort s p g) q = portAt s q := by
  have : p.val ≠ q.val := fun x => h (Fin.ext x.symm)
  simp [portAt, modPort, this]
@[simp] theorem ctxAt_setCtx (s : State) (c : CtxId) (x : Option Ctx) : ctxAt (setCtx s c x) c = x := by
  simp [ctxAt, setCtx]
theorem ctxAt_setCtx_ne (s : State) {c d : CtxId} (x : Option Ctx) (h : d ≠ c) : ctxAt (setCtx s c x) d = ctxAt s d := by
  have : c.val ≠ d.val := fun e => h (Fin.ext e.symm)
  simp [ctxAt, setCtx, this]
@[simp] theorem queueAt_setQueue (s : State) (q : QueueId) (x : Option Queue) : queueAt (setQueue s q x) q = x := by
  simp [queueAt, setQueue]
theorem queueAt_setQueue_ne (s : State) {q r : QueueId} (x : Option Queue) (h : r ≠ q) : queueAt (setQueue s q x) r = queueAt s r := by
  have : q.val ≠ r.val := fun e => h (Fin.ext e.symm)
  simp [queueAt, setQueue, this]

end Sys2Proof.Machine
end

