-- ==== Sys2Proof/Laws/Issue.lean ====
section
/-! SUPPORT. What the shared operations of the issue come to, once for every op: masks and lanes, the issue of a fragment's op
and of a slot, the per-lane op, and the results of a strand. -/

namespace Sys2Proof.Machine

/-! ## Masks -/

/-- A mask with one more bit. -/
theorem getLsbD_or_bit (m : LaneMask) (a l : Lane) :
    (m ||| (1#32 <<< a.val)).getLsbD l.val = (m.getLsbD l.val || decide (l = a)) := by
  have hl : l.val < 32 := l.isLt
  rw [BitVec.getLsbD_or, BitVec.getLsbD_shiftLeft]
  congr 1
  by_cases h : l = a
  · subst h; simp
  · have hne : l.val ≠ a.val := fun e => h (Fin.ext e)
    by_cases hlt : l.val < a.val
    · simp [h, hlt]
    · have : l.val - a.val ≠ 0 := by omega
      simp [h, hlt, this]

/-- The bits of a mask that is gathered over a list of lanes. -/
theorem laneIn_fold (t : Lane → Bool) (ls : List Lane) (m : LaneMask) (l : Lane) :
    laneIn (ls.foldl (fun m l => if t l then m ||| (1#32 <<< l.val) else m) m) l = (laneIn m l || (ls.contains l && t l)) := by
  induction ls generalizing m with
  | nil => simp [laneIn]
  | cons a ls ih =>
    rw [List.foldl_cons, ih, List.contains_cons]
    by_cases ha : t a
    · rw [if_pos ha, laneIn, getLsbD_or_bit, laneIn]
      by_cases h : l = a
      · subst h; simp [ha]
      · have hb : (l == a) = false := by simpa using h
        simp [h, hb]
    · rw [if_neg ha]
      by_cases h : l = a
      · subst h; simp [ha]
      · have hb : (l == a) = false := by simpa using h
        rw [hb, Bool.false_or]

theorem mem_allLanes (l : Lane) : l ∈ allLanes := List.mem_finRange l

/-- A lane is in the mask of a test when it passes the test. -/
@[simp] theorem laneIn_maskOf (t : Lane → Bool) (l : Lane) : laneIn (maskOf t) l = t l := by
  rw [maskOf, laneIn_fold]
  simp [laneIn, mem_allLanes]

/-- A mask without lanes. -/
theorem mask_eq_zero {m : LaneMask} (h : ∀ l, laneIn m l = false) : m = 0#32 := by
  apply BitVec.eq_of_getLsbD_eq
  intro i hi
  simpa [laneIn] using h ⟨i, hi⟩

theorem maskOf_eq_zero {t : Lane → Bool} (h : ∀ l, t l = false) : maskOf t = 0#32 :=
  mask_eq_zero fun l => by rw [laneIn_maskOf, h]

/-- A lane takes part when its guard reads true. -/
@[simp] theorem laneIn_partsOf (w : Warp) (m : LaneMask) (g : Guard) (l : Lane) :
    laneIn (partsOf w m g) l = (laneIn m l && guardOn g w.lanes[l].p) := by rw [partsOf, laneIn_maskOf]

/-! ## The registers of an op -/

theorem windowTrap_none {e : WarpEnv} {rs : List Reg} (h : (∃ r ∈ rs, isY r = true) → windowHeld e = true) :
    windowTrap e rs = none := by
  unfold windowTrap
  by_cases hy : rs.any isY = true
  · rw [h (List.any_eq_true.1 hy)]; simp
  · simp [hy]

theorem poisonTrap_none {e : WarpEnv} {srcs dsts : List Reg}
    (h : ∀ l, laneIn e.parts l = true → ∀ r ∈ srcs ++ dsts.filter isY, poisoned e l r = false) : poisonTrap e srcs dsts = none := by
  unfold poisonTrap
  dsimp only
  rw [maskOf_eq_zero]
  · rfl
  · intro l
    by_cases hl : laneIn e.parts l = true
    · rw [hl, Bool.true_and, List.any_eq_false]
      intro r hr
      rw [h l hl r hr]; simp
    · simp [hl]

theorem LaneClean.noTrap {e : WarpEnv} {srcs dsts : List Reg} (h : LaneClean e srcs dsts) :
    windowTrap e (srcs ++ dsts) = none ∧ poisonTrap e srcs dsts = none :=
  ⟨windowTrap_none h.window, poisonTrap_none h.poison⟩

theorem LaneClean.regTrap {e : WarpEnv} {srcs dsts : List Reg} (h : LaneClean e srcs dsts) : regTrap e srcs dsts = none := by
  rw [Machine.regTrap, h.noTrap.1, h.noTrap.2]

/-- An op that acts once, and that nothing about its registers stops, runs its body for the lead lane. -/
theorem once_clean {e : WarpEnv} {srcs dsts : List Reg} (h : OnceClean e srcs dsts) (s : State) (body : Lane → Out) :
    once e s srcs dsts body = body (leadLane e.parts) := by
  have hp : (srcs ++ dsts.filter isY).any (poisoned e (leadLane e.parts)) = false := by
    rw [List.any_eq_false]; intro r hr; rw [h.poison r hr]; simp
  rw [once, onceTrap, windowTrap_none h.window]
  dsimp only
  rw [hp]
  rfl

/-! ## The issue of a fragment's op -/

@[simp] theorem atCycle_wisn (w : Warp) : (atCycle w).wisn = w.wisn := by unfold atCycle; split <;> rfl
@[simp] theorem atCycle_lanes (w : Warp) : (atCycle w).lanes = w.lanes := by unfold atCycle; split <;> rfl
@[simp] theorem atCycle_team (w : Warp) : (atCycle w).team = w.team := by unfold atCycle; split <;> rfl

/-- The fragment's op has been counted. -/
theorem counted_of_issues {s : State} {k : CoreId} {f : FragId} {x : Frag} {w : Warp} (h : FragIssues s k f x w) (i : Instr)
    (g : Guard) : onFrag (onWarp s k x.warp fun w => { w with wisn := w.wisn + 1 }) k f (fun x => { x with num := w.wisn }) =
      countedState s (laneEnv s i g k f x w) := by
  rw [onWarp_some h.warp, onFrag_some (x := x)]
  · simp [countedState, laneEnv, modWarp_some h.warp, countedWarp]
  · simp [h.frag]

/-- An op that a fragment takes runs its body on the counted state. -/
theorem asOp_takes {s : State} {i : Instr} {g : Guard} {k : CoreId} {f : FragId} {x : Frag} {w : Warp}
    (h : LaneTakes s i g k f x w) (wb : WarpEnv → State → Out) (sb : StrandEnv → State → Out) :
    asOp i g s wb sb = wb (laneEnv s i g k f x w) (countedState s (laneEnv s i g k f x w)) := by
  have hi : asOp i g s wb sb = issueWarp i g k f s wb := by rw [asOp, h.issuer]
  rw [hi, issueWarp, h.frag]
  dsimp only
  rw [h.warp]
  dsimp only
  rw [if_neg (by rw [h.accepted]; exact Bool.noConfusion), if_neg h.takesPart]
  exact congrArg _ (counted_of_issues h.toFragIssues i g)

/-- The core once the op has been counted: its warp, if it is there, and its fragment. -/
theorem coreAt_countedState (s : State) (e : WarpEnv) : coreAt (countedState s e) e.k =
    setFrag (modWarp (coreAt s e.k) e.x.warp countedWarp) e.f (some { e.x with num := e.w.wisn }) := by simp [countedState]

/-- The lanes of a mask changed, lane by lane. -/
theorem mapLanes_eq (m : LaneMask) (g : Lane → LaneRegs → LaneRegs) (w : Warp) :
    mapLanes m g w = { w with lanes := Vector.ofFn fun l => if laneIn m l then g l w.lanes[l] else w.lanes[l] } := by
  have hv : (w.lanes.mapFinIdx fun i r h => if laneIn m ⟨i, h⟩ then g ⟨i, h⟩ r else r) =
      Vector.ofFn fun l => if laneIn m l then g l w.lanes[l] else w.lanes[l] := by
    apply Vector.ext
    intro i hi
    rw [Vector.getElem_mapFinIdx, Vector.getElem_ofFn]
    rfl
  rw [mapLanes, hv]

/-- A fragment of the counted state is changed: the counted fragment of it is. -/
theorem onFrag_fragCore (s : State) (e : WarpEnv) (x : Frag) (w : Warp) (g : Frag → Frag) :
    onFrag (fragDone s e x w) e.k e.f g = fragDone s e (g x) w := by
  rw [onFrag_some (x := x)]
  · simp [fragDone, fragCore]
  · simp [fragDone, fragCore]

/-- The warp of the counted state is changed. -/
theorem onWarp_fragCore (s : State) (e : WarpEnv) (x : Frag) (w : Warp) (g : Warp → Warp) :
    onWarp (fragDone s e x w) e.k e.x.warp g = fragDone s e x (g w) := by
  rw [onWarp_some (x := w)]
  · simp [fragDone, fragCore, setWarp_setFrag]
  · simp [fragDone, fragCore]

/-- A counted op has changed its fragment and its warp only. -/
theorem countedState_eq {s : State} {e : WarpEnv} {w : Warp} (hw : warpAt (coreAt s e.k) e.x.warp = some w) :
    countedState s e = fragDone s e { e.x with num := e.w.wisn } (countedWarp w) := by
  rw [countedState, modWarp_some hw]
  rfl

/-- The fragment goes on to its next op, and nothing else happens. -/
theorem warpAdvance_counted {s : State} {e : WarpEnv} {w : Warp} (hw : warpAt (coreAt s e.k) e.x.warp = some w) :
    warpAdvance (countedState s e) e = fragDone s e (nextFrag e) (countedWarp w) := by
  rw [warpAdvance, countedState_eq hw, onFrag_fragCore]
  rfl

theorem modTile_setFrag (c : Core) (f : FragId) (x : Option Frag) (team t : Nat) (g : Tile → Tile) :
    modTile (setFrag c f x) team t g = setFrag (modTile c team t g) f x := rfl

theorem modTile_setWarp (c : Core) (w : WarpIx) (x : Option Warp) (team t : Nat) (g : Tile → Tile) :
    modTile (setWarp c w x) team t g = setWarp (modTile c team t g) w x := rfl

@[simp] theorem modTile_cycle (c : Core) (team t : Nat) (g : Tile → Tile) : (modTile c team t g).cycle = c.cycle := rfl
@[simp] theorem fragAt_modTile (c : Core) (team t : Nat) (g : Tile → Tile) (f : FragId) :
    fragAt (modTile c team t g) f = fragAt c f := rfl
@[simp] theorem warpAt_modTile (c : Core) (team t : Nat) (g : Tile → Tile) (w : WarpIx) :
    warpAt (modTile c team t g) w = warpAt c w := rfl
@[simp] theorem strandAt_modTile (c : Core) (team t : Nat) (g : Tile → Tile) (n : StrandId) :
    strandAt (modTile c team t g) n = strandAt c n := rfl

/-- The flags and the count of an op are put beside what the cycle began with. -/
theorem raiseFlags_counted (fl : BitVec 5) (w : Warp) : raiseFlags fl (countedWarp w) = countedWarp (raiseFlags fl w) := rfl

@[simp] theorem raiseFlags_wisn (fl : BitVec 5) (w : Warp) : (raiseFlags fl w).wisn = w.wisn := rfl
@[simp] theorem raiseFlags_lanes (fl : BitVec 5) (w : Warp) : (raiseFlags fl w).lanes = w.lanes := rfl

/-- An op's results in the lanes of a counted warp. -/
theorem mapLanes_counted (e : WarpEnv) (res : Lane → LaneRes) (w : Warp) :
    mapLanes e.parts (fun l r => laneWrite r (res l)) (raiseFlags (laneFlags e.parts res) (countedWarp w)) = doneWarp e res w := by
  rw [mapLanes_eq]
  rfl

/-- The results of the lanes put in place, the scoreboard, and the next address: a completed per-lane op. -/
theorem lanes_done {s : State} {e : WarpEnv} {w : Warp} (hw : warpAt (coreAt s e.k) e.x.warp = some w) (he : e.w = atCycle w)
    (rs : List Reg) (ps : List Pred) (lat : Nat) (res : Lane → LaneRes) :
    warpAdvance (setScore (writeLanes (countedState s e) e.k e.x.warp e.parts lat res) e.k e.f rs ps lat) e =
      laneDone s e rs ps lat res := by
  have hc : warpAt (coreAt (countedState s e) e.k) e.x.warp = some (countedWarp w) := by
    simp [countedState_eq hw, fragDone, fragCore, ← setWarp_setFrag]
  have hs : (atCycle (countedWarp w)).sel = e.w.sel := by rw [he]; unfold atCycle countedWarp; cases w.now <;> rfl
  have ht : e.w.team = w.team := by rw [he, atCycle_team]
  unfold writeLanes
  simp only [hc]
  rw [modWarp_some hc, mapLanes_counted, hs, countedState_eq hw]
  unfold laneDone
  rw [modWarp_some hw, ht]
  have hm : (countedWarp w).team = w.team := rfl
  rw [hm]
  cases e.w.sel with
  | none =>
    simp [fragDone, fragCore, setScore, warpAdvance, onFrag, modCore, modFrag, setWarp_setFrag, doneFrag]
  | some t =>
    by_cases hy : writesWindow e res = true
    · have hy' := hy
      unfold writesWindow at hy'
      simp [fragDone, fragCore, setScore, warpAdvance, onFrag, modCore, modFrag, setWarp_setFrag, modTile_setFrag, modTile_setWarp,
        doneFrag, hy, hy']
    · have hy' := hy
      unfold writesWindow at hy'
      simp [fragDone, fragCore, setScore, warpAdvance, onFrag, modCore, modFrag, setWarp_setFrag, doneFrag, hy, hy']

/-- A per-lane op that nothing stops completes. -/
theorem perLane_done {s : State} {e : WarpEnv} {w : Warp} {srcs dsts : List Reg} (hw : warpAt (coreAt s e.k) e.x.warp = some w)
    (he : e.w = atCycle w) (h : LaneClean e srcs dsts) (pds : List Pred) (lat : Nat) (res : Lane → LaneRes) :
    perLane e (countedState s e) srcs dsts pds lat res = .next (laneDone s e dsts pds lat res) := by
  rw [perLane, h.noTrap.1, h.noTrap.2]
  exact congrArg _ (lanes_done hw he dsts pds lat res)

/-! ## The issue of a slot -/

/-- An op that a slot takes runs its body. -/
theorem asOp_slot {s : State} {i : Instr} {g : Guard} {k : CoreId} {n : StrandId} {slot : Slot} {st cur : Strand}
    (h : SlotTakes s i g k n slot st cur) (wb : WarpEnv → State → Out) (sb : StrandEnv → State → Out) :
    asOp i g s wb sb = sb (slotEnv s i k n slot st) s := by
  have hp : (!dropsPoison i && (usesOf false i).srcs.any fun r => st.poison.getLsbD r.toNat) = false := by
    rw [Bool.and_eq_false_iff]; right
    rw [List.any_eq_false]; intro r hr; rw [h.clean r hr]; simp
  have hi : asOp i g s wb sb = issueStrand i g k n slot s sb := by rw [asOp, h.issuer]
  have hg : (!guardless i && !opGuard (slotEnv s i k n slot st) g) = false := by
    rcases h.guard with hg | hg
    · simp [hg]
    · simp [hg]
  rw [hi, issueStrand]
  dsimp only
  rw [h.start]
  dsimp only
  rw [if_neg (by rw [h.accepted]; exact Bool.noConfusion), hp]
  change (if (!guardless i && decide (opGuard (slotEnv s i k n slot st) g = false)) = true then _ else _) = _
  rw [if_neg]
  · rfl
  · intro hb
    simp only [Bool.and_eq_true, Bool.not_eq_true', decide_eq_true_eq] at hb
    rw [hb.1, hb.2] at hg
    exact Bool.noConfusion hg

/-- A strand is changed. -/
theorem onStrand_done {s : State} {k : CoreId} {n : StrandId} {cur : Strand} (h : strandAt (coreAt s k) n = some cur)
    (g : Strand → Strand) : onStrand s k n g = strandDone s k n (g cur) := onStrand_some h g

@[simp] theorem strandAt_strandDone (s : State) (k : CoreId) (n : StrandId) (x : Strand) :
    strandAt (coreAt (strandDone s k n x) k) n = some x := by simp [strandDone]

@[simp] theorem strandDone_strandDone (s : State) (k : CoreId) (n : StrandId) (x y : Strand) :
    strandDone (strandDone s k n x) k n y = strandDone s k n y := by simp [strandDone]

/-- A slot's result is on its way. -/
theorem pendAdd_done {s : State} {e : StrandEnv} {cur : Strand} (h : strandAt (coreAt s e.k) e.n = some cur) (lat : Nat)
    (dst : PendDst) : pendAdd s e lat dst = strandDone s e.k e.n (addPend cur e lat dst) := by
  rw [pendAdd, onStrand_done h]
  rfl

/-- A slot marks its bundle. -/
theorem markFx_done {s : State} {e : StrandEnv} {cur : Strand} (h : strandAt (coreAt s e.k) e.n = some cur)
    (g : BundleFx → BundleFx) : markFx s e g = strandDone s e.k e.n { cur with fx := g cur.fx } := by
  rw [markFx, onStrand_done h]

/-! ## Ops that are guarded off -/

/-- An op that no lane of its fragment takes part in is counted and passed. -/
theorem asOp_off {s : State} {i : Instr} {g : Guard} {k : CoreId} {f : FragId} {x : Frag} {w : Warp} (h : FragIssues s k f x w)
    (hw : i.wf .warp = true) (hp : partsOf w x.mask g = 0#32) (wb : WarpEnv → State → Out) (sb : StrandEnv → State → Out) :
    asOp i g s wb sb = .next (fragDone s (laneEnv s i g k f x w) (nextFrag (laneEnv s i g k f x w)) (countedWarp w)) := by
  rw [asOp, h.issuer]
  dsimp only
  rw [issueWarp]
  simp only [h.frag, h.warp, hw, counted_of_issues h i g, Bool.true_eq_false, if_false]
  rw [if_pos hp]
  exact congrArg _ (warpAdvance_counted (e := laneEnv s i g k f x w) h.warp)

/-- A slot whose guard is false does nothing. -/
theorem asOp_slot_off {s : State} {i : Instr} {g : Guard} {k : CoreId} {n : StrandId} {slot : Slot} {st cur : Strand}
    (h : SlotIssues s k n slot st cur) (hw : i.wf (.slot slot) = true) (hn : guardless i = false)
    (hp : opGuard (slotEnv s i k n slot st) g = false) (wb : WarpEnv → State → Out) (sb : StrandEnv → State → Out) :
    asOp i g s wb sb = .next s := by
  rw [asOp, h.issuer]
  dsimp only
  rw [issueStrand]
  simp only [h.start, hw]
  unfold slotEnv opGuard at hp
  dsimp only at hp
  simp only [hn, Bool.true_eq_false, if_false, Bool.not_false, Bool.true_and]
  rw [if_pos]
  simpa using hp

end Sys2Proof.Machine
end

