-- ==== Sys2Proof/Laws/Access.lean ====
section
/-! SUPPORT. What a memory op comes to when its accesses pass every check. -/

namespace Sys2Proof.Machine

/-! ## Teams are not touched by translation, sampling and watching -/

/-- Two states hold the same teams, those that retired among them. -/
def SameTeams (s t : State) : Prop := t.teams = s.teams ∧ t.past = s.past

theorem SameTeams.rfl {s : State} : SameTeams s s := ⟨Eq.refl _, Eq.refl _⟩
theorem SameTeams.trans {s t u : State} (h : SameTeams s t) (h' : SameTeams t u) : SameTeams s u :=
  ⟨h'.1.trans h.1, h'.2.trans h.2⟩

theorem foldl_sameTeams {α : Type} {g : State → α → State} (h : ∀ s a, SameTeams s (g s a)) (l : List α) (s : State) :
    SameTeams s (l.foldl g s) := by
  induction l generalizing s with
  | nil => exact .rfl
  | cons a l ih => exact (h s a).trans (ih _)

theorem noteWalk_sameTeams (s : State) (k : CoreId) (c : CtxId) (va : Nat) : SameTeams s (noteWalk s k c va) := by
  unfold noteWalk
  split
  · exact .rfl
  · split
    · exact .rfl
    · split <;> exact ⟨Eq.refl _, Eq.refl _⟩

theorem noteWalks_sameTeams (s : State) (q : Issue) (ps : List Placed) : SameTeams s (noteWalks s q ps) := by
  unfold noteWalks
  apply foldl_sameTeams
  intro s a
  split
  · exact noteWalk_sameTeams ..
  · exact .rfl

theorem teamCtx_of_teams {s t : State} (h : SameTeams s t) (n : Nat) : teamCtx t n = teamCtx s n := by
  unfold teamCtx teamAt; rw [h.1, h.2]

theorem warpIssue_of_teams {s t : State} (h : SameTeams s t) (e : WarpEnv) : warpIssue t e = warpIssue s e := by
  unfold warpIssue; rw [teamCtx_of_teams h]

theorem strandIssue_of_teams {s t : State} (h : SameTeams s t) (e : StrandEnv) : strandIssue t e = strandIssue s e := by
  unfold strandIssue; rw [teamCtx_of_teams h]

@[simp] theorem warpIssue_countedState (s : State) (e e' : WarpEnv) : warpIssue (countedState s e') e = warpIssue s e :=
  warpIssue_of_teams ⟨Eq.refl _, Eq.refl _⟩ e

/-! ## Memory ops -/

theorem AccsPass.retracts {s : State} {q : Issue} {i : Instr} {kind : MemKind} {log : Nat} {irr : Bool} {as : List Acc}
    (h : AccsPass s q i kind log irr as) :
    (kind != .load && memberRunning s q.team && touchesSys (locate s q kind as)) = false := by
  rcases h.retract with h | h | h <;> simp [h]

theorem AccsPass.fits {s : State} {q : Issue} {i : Instr} {kind : MemKind} {log : Nat} {irr : Bool} {as : List Acc}
    (h : AccsPass s q i kind log irr as) :
    (kind != .load && overBudget s q.team (devLines (locate s q kind as).ok)) = false := by
  rcases h.budget with h | h <;> simp [h]

theorem AccsPass.noneAbsent {s : State} {q : Issue} {i : Instr} {kind : MemKind} {log : Nat} {irr : Bool} {as : List Acc}
    (h : AccsPass s q i kind log irr as) :
    (if kind == .load then as.flatMap (absentLines s q) else []) = [] := by
  by_cases hk : kind = .load
  · simp [hk, h.present hk]
  · simp [hk]

/-- A fragment's memory op that nothing stops performs its accesses. -/
theorem warpMem_done {s : State} {e : WarpEnv} {kind : MemKind} {log : Nat} {irr : Bool} {rel : Option Scope} {srcs dsts : List Reg}
    {as : List Acc} (hc : LaneClean e srcs dsts) (ha : AccsPass s (warpIssue s e) e.i kind log irr as)
    (hr : ∀ sc, rel = some sc → waitDone s (.frag e.k e.f) sc (owned s (.frag e.k e.f)) = true)
    (perform : WarpEnv → State → List Placed → State) :
    warpMem e s kind log irr rel srcs dsts as perform = .next (memDone s e kind as (perform e)) := by
  unfold warpMem
  dsimp only
  rw [hc.regTrap, ha.checks]
  have hw : ∀ sc, rel = some sc → (if waitDone s (warpIssue s e).who sc (owned s (warpIssue s e).who) then none else some sc) = none :=
    fun sc h => if_pos (hr sc h)
  rcases rel with _ | sc
  all_goals dsimp only
  case' some => rw [hw sc rfl]
  all_goals try dsimp only
  all_goals rw [ha.noneAbsent]
  all_goals simp only [List.isEmpty_nil, Bool.not_true, Bool.false_eq_true, if_false, ha.retracts, ha.fits, ha.walked, ha.mapped.1, ha.mapped.2,
    Bool.and_true, if_true]
  all_goals unfold memDone warpEnd seen
  all_goals simp only [warpIssue_of_teams (noteWalks_sameTeams ..)]
  all_goals rfl

/-- A slot's memory op that nothing stops performs its access. -/
theorem strandMem_done {s : State} {e : StrandEnv} {kind : MemKind} {log : Nat} {irr : Bool} {as : List Acc}
    (ha : AccsPass s (strandIssue s e) e.i kind log irr as) (perform : State → List Placed → Out) :
    strandMem e s kind log irr as perform = perform (seen s (strandIssue s e) kind as) (locate s (strandIssue s e) kind as).ok := by
  unfold strandMem
  dsimp only
  rw [ha.checks]
  dsimp only
  rw [ha.noneAbsent]
  simp only [List.isEmpty_nil, Bool.not_true, Bool.false_eq_true, if_false, ha.retracts, ha.fits, ha.walked, ha.mapped.1, ha.mapped.2]
  rfl

end Sys2Proof.Machine
end

