-- ==== Sys2Proof/Laws/Encoding.lean ====
section
/-! SUPPORT. The fields of the words that the encoder builds (R58). -/

namespace Sys2Proof

/-- A field of a word, below the field in front of it. -/
theorem extract_low {m n : Nat} (x : BitVec m) (y : BitVec n) (i k : Nat) (h : i + k ≤ n) :
    (x ++ y).extractLsb' i k = y.extractLsb' i k := by
  apply BitVec.eq_of_getLsbD_eq
  intro j hj
  simp only [BitVec.getLsbD_extractLsb', BitVec.getLsbD_append, hj, decide_true, Bool.true_and]
  rw [if_pos (by omega)]

/-- A field of a word, above the field behind it. -/
theorem extract_high {m n : Nat} (x : BitVec m) (y : BitVec n) (i k : Nat) (h : n ≤ i) :
    (x ++ y).extractLsb' i k = x.extractLsb' (i - n) k := by
  apply BitVec.eq_of_getLsbD_eq
  intro j hj
  simp only [BitVec.getLsbD_extractLsb', BitVec.getLsbD_append, hj, decide_true, Bool.true_and]
  rw [if_neg (by omega), show i + j - n = i - n + j by omega]

/-- The whole of a field. -/
theorem extract_all {n : Nat} (x : BitVec n) : x.extractLsb' 0 n = x := by simp

@[simp] theorem fOp_encWord (op : BitVec 6) (g : Guard) (b : BitVec 22) : fOp (encWord op g b) = op := by
  unfold fOp encWord
  rw [extract_high _ _ _ _ (by omega), extract_high _ _ _ _ (by omega), extract_high _ _ _ _ (by omega), extract_all]

@[simp] theorem fGuard_encWord (op : BitVec 6) (g : Guard) (b : BitVec 22) : fGuard (encWord op g b) = g := by
  unfold fGuard encWord
  rw [extract_high _ _ _ _ (by omega), extract_low _ _ _ _ (by omega), extract_all]
  simp only [BitVec.getLsbD_append]
  cases g with
  | mk n p => cases n <;> simp

@[simp] theorem fO22_encWord (op : BitVec 6) (g : Guard) (b : BitVec 22) : fO22 (encWord op g b) = b := by
  unfold fO22 encWord
  rw [extract_low _ _ _ _ (by omega), extract_all]

/-- A field of the 22 bits of a format. -/
theorem extract_encWord (op : BitVec 6) (g : Guard) (b : BitVec 22) (i k : Nat) (h : i + k ≤ 22) :
    (encWord op g b).extractLsb' i k = b.extractLsb' i k := extract_low _ _ _ _ h

section F3
variable (op : BitVec 6) (g : Guard) (d a b : Reg) (fn : BitVec 4)

@[simp] theorem fOp_encF3 : fOp (encF3 op g d a b fn) = op := fOp_encWord ..
@[simp] theorem fGuard_encF3 : fGuard (encF3 op g d a b fn) = g := fGuard_encWord ..
@[simp] theorem fD_encF3 : fD (encF3 op g d a b fn) = d := by
  unfold fD encF3
  rw [extract_encWord _ _ _ _ _ (by omega), extract_high _ _ _ _ (by omega), extract_high _ _ _ _ (by omega),
    extract_high _ _ _ _ (by omega), extract_all]
@[simp] theorem fA_encF3 : fA (encF3 op g d a b fn) = a := by
  unfold fA encF3
  rw [extract_encWord _ _ _ _ _ (by omega), extract_high _ _ _ _ (by omega), extract_high _ _ _ _ (by omega),
    extract_low _ _ _ _ (by omega), extract_all]
@[simp] theorem fB_encF3 : fB (encF3 op g d a b fn) = b := by
  unfold fB encF3
  rw [extract_encWord _ _ _ _ _ (by omega), extract_high _ _ _ _ (by omega), extract_low _ _ _ _ (by omega), extract_all]
@[simp] theorem fFn_encF3 : fFn (encF3 op g d a b fn) = fn := by
  unfold fFn encF3
  rw [extract_encWord _ _ _ _ _ (by omega), extract_low _ _ _ _ (by omega), extract_all]
end F3

section F2I
variable (op : BitVec 6) (g : Guard) (d a : Reg) (imm : BitVec 10)

@[simp] theorem fOp_encF2I : fOp (encF2I op g d a imm) = op := fOp_encWord ..
@[simp] theorem fGuard_encF2I : fGuard (encF2I op g d a imm) = g := fGuard_encWord ..
@[simp] theorem fD_encF2I : fD (encF2I op g d a imm) = d := by
  unfold fD encF2I
  rw [extract_encWord _ _ _ _ _ (by omega), extract_high _ _ _ _ (by omega), extract_high _ _ _ _ (by omega), extract_all]
@[simp] theorem fA_encF2I : fA (encF2I op g d a imm) = a := by
  unfold fA encF2I
  rw [extract_encWord _ _ _ _ _ (by omega), extract_high _ _ _ _ (by omega), extract_low _ _ _ _ (by omega), extract_all]
@[simp] theorem fI10_encF2I : fI10 (encF2I op g d a imm) = imm := by
  unfold fI10 encF2I
  rw [extract_encWord _ _ _ _ _ (by omega), extract_low _ _ _ _ (by omega), extract_all]
end F2I

section F1I
variable (op : BitVec 6) (g : Guard) (d : Reg) (imm : BitVec 16)

@[simp] theorem fOp_encF1I : fOp (encF1I op g d imm) = op := fOp_encWord ..
@[simp] theorem fGuard_encF1I : fGuard (encF1I op g d imm) = g := fGuard_encWord ..
@[simp] theorem fD_encF1I : fD (encF1I op g d imm) = d := by
  unfold fD encF1I
  rw [extract_encWord _ _ _ _ _ (by omega), extract_high _ _ _ _ (by omega), extract_all]
@[simp] theorem fI16_encF1I : fI16 (encF1I op g d imm) = imm := by
  unfold fI16 encF1I
  rw [extract_encWord _ _ _ _ _ (by omega), extract_low _ _ _ _ (by omega), extract_all]
end F1I

@[simp] theorem ofCode_code_cond (c : Cond) : Cond.ofCode c.code = c := by cases c <;> rfl
@[simp] theorem ofCode_code_scope (c : Scope) : Scope.ofCode c.code = c := by cases c <;> rfl
@[simp] theorem ofCode_code_order (c : Order) : Order.ofCode c.code = some c := by cases c <;> rfl
@[simp] theorem ofCode_code_width (c : Width) : Width.ofCode c.code = some c := by cases c <;> rfl
@[simp] theorem ofCode_code_atomOp (c : AtomOp) : AtomOp.ofCode c.code = some c := by cases c <;> rfl
@[simp] theorem ofCode_code_fmaRound (c : FmaRound) : FmaRound.ofCode c.code = some c := by cases c <;> rfl
@[simp] theorem ofCode_code_cvtf (c : CvtfKind) : CvtfKind.ofCode c.code = c := by cases c <;> rfl
@[simp] theorem ofCode_code_cvti (c : CvtiKind) : CvtiKind.ofCode c.code = c := by cases c <;> rfl
@[simp] theorem ofCode_code_unpk (c : UnpkMode) : UnpkMode.ofCode c.code = some c := by cases c <;> rfl
@[simp] theorem ofCode_code_tile (c : TileMode) : TileMode.ofCode c.code = some c := by cases c <;> rfl

section FC
variable (op : BitVec 6) (g : Guard) (pd : Pred) (cc : Cond) (a b : Reg) (fn : BitVec 4)

@[simp] theorem fOp_encFC : fOp (encFC op g pd cc.code a b fn) = op := fOp_encWord ..
@[simp] theorem fGuard_encFC : fGuard (encFC op g pd cc.code a b fn) = g := fGuard_encWord ..
@[simp] theorem fPd_encFC : fPd (encFC op g pd cc.code a b fn) = pd := by
  unfold fPd encFC
  rw [extract_encWord _ _ _ _ _ (by omega)]
  iterate 4 rw [extract_high _ _ _ _ (by omega)]
  rw [extract_all]
@[simp] theorem fCc_encFC : fCc (encFC op g pd cc.code a b fn) = cc := by
  unfold fCc encFC
  rw [extract_encWord _ _ _ _ _ (by omega)]
  iterate 3 rw [extract_high _ _ _ _ (by omega)]
  rw [extract_low _ _ _ _ (by omega), extract_all, ofCode_code_cond]
@[simp] theorem fA_encFC : fA (encFC op g pd cc.code a b fn) = a := by
  unfold fA encFC
  rw [extract_encWord _ _ _ _ _ (by omega), extract_high _ _ _ _ (by omega), extract_high _ _ _ _ (by omega),
    extract_low _ _ _ _ (by omega), extract_all]
@[simp] theorem fB_encFC : fB (encFC op g pd cc.code a b fn) = b := by
  unfold fB encFC
  rw [extract_encWord _ _ _ _ _ (by omega), extract_high _ _ _ _ (by omega), extract_low _ _ _ _ (by omega), extract_all]
@[simp] theorem fFn_encFC : fFn (encFC op g pd cc.code a b fn) = fn := by
  unfold fFn encFC
  rw [extract_encWord _ _ _ _ _ (by omega), extract_low _ _ _ _ (by omega), extract_all]
end FC

section FM
variable (op : BitVec 6) (g : Guard) (d a : Reg) (sc : Scope) (ord : Order) (w : Width) (fn : BitVec 3)

@[simp] theorem fOp_encFM : fOp (encFM op g d a sc ord w fn) = op := fOp_encWord ..
@[simp] theorem fGuard_encFM : fGuard (encFM op g d a sc ord w fn) = g := fGuard_encWord ..
@[simp] theorem fD_encFM : fD (encFM op g d a sc ord w fn) = d := by
  unfold fD encFM
  rw [extract_encWord _ _ _ _ _ (by omega)]
  iterate 5 rw [extract_high _ _ _ _ (by omega)]
  rw [extract_all]
@[simp] theorem fA_encFM : fA (encFM op g d a sc ord w fn) = a := by
  unfold fA encFM
  rw [extract_encWord _ _ _ _ _ (by omega)]
  iterate 4 rw [extract_high _ _ _ _ (by omega)]
  rw [extract_low _ _ _ _ (by omega), extract_all]
@[simp] theorem fSc_encFM : fSc (encFM op g d a sc ord w fn) = sc := by
  unfold fSc encFM
  rw [extract_encWord _ _ _ _ _ (by omega)]
  iterate 3 rw [extract_high _ _ _ _ (by omega)]
  rw [extract_low _ _ _ _ (by omega), extract_all, ofCode_code_scope]
@[simp] theorem ord_encFM : (encFM op g d a sc ord w fn).extractLsb' 6 2 = ord.code := by
  unfold encFM
  rw [extract_encWord _ _ _ _ _ (by omega)]
  iterate 2 rw [extract_high _ _ _ _ (by omega)]
  rw [extract_low _ _ _ _ (by omega), extract_all]
@[simp] theorem width_encFM : (encFM op g d a sc ord w fn).extractLsb' 3 3 = w.code := by
  unfold encFM
  rw [extract_encWord _ _ _ _ _ (by omega), extract_high _ _ _ _ (by omega), extract_low _ _ _ _ (by omega), extract_all]
theorem fn_encFM (i k : Nat) (h : i + k ≤ 3) : (encFM op g d a sc ord w fn).extractLsb' i k = fn.extractLsb' i k := by
  unfold encFM
  rw [extract_encWord _ _ _ _ _ (by omega), extract_low _ _ _ _ (by omega)]
end FM

/-! ## The word of each op (R62) -/

namespace Instr

@[simp] theorem encode_nop (g : Guard) : (Instr.nop g).encode = encF3 0x00#6 g 0#6 0#6 0#6 0x0#4 := rfl
@[simp] theorem encode_yield (g : Guard) : (Instr.yield g).encode = encF3 0x00#6 g 0#6 0#6 0#6 0x1#4 := rfl
@[simp] theorem encode_endOp (g : Guard) : (Instr.endOp g).encode = encF3 0x00#6 g 0#6 0#6 0#6 0x2#4 := rfl
@[simp] theorem encode_exit (g : Guard) : (Instr.exit g).encode = encF3 0x00#6 g 0#6 0#6 0#6 0x3#4 := rfl
@[simp] theorem encode_segb (g : Guard) : (Instr.segb g).encode = encF3 0x00#6 g 0#6 0#6 0#6 0x4#4 := rfl
@[simp] theorem encode_conv (g : Guard) : (Instr.conv g).encode = encF3 0x00#6 g 0#6 0#6 0#6 0x6#4 := rfl
@[simp] theorem encode_irrev (g : Guard) : (Instr.irrev g).encode = encF3 0x00#6 g 0#6 0#6 0#6 0x7#4 := rfl
@[simp] theorem encode_kpt (g : Guard) : (Instr.kpt g).encode = encF3 0x00#6 g 0#6 0#6 0#6 0x8#4 := rfl
@[simp] theorem encode_rft (g : Guard) : (Instr.rft g).encode = encF3 0x00#6 g 0#6 0#6 0#6 0x9#4 := rfl
@[simp] theorem encode_rftNext (g : Guard) : (Instr.rftNext g).encode = encF3 0x00#6 g 0#6 0#6 1#6 0x9#4 := rfl
@[simp] theorem encode_brk (g : Guard) (n : BitVec 6) : (Instr.brk g n).encode = encF3 0x00#6 g 0#6 0#6 n 0x5#4 := rfl
@[simp] theorem encode_bra (g : Guard) (off : BitVec 22) : (Instr.bra g off).encode = encWord 0x01#6 g off := rfl
@[simp] theorem encode_call (g : Guard) (off : BitVec 22) : (Instr.call g off).encode = encWord 0x02#6 g off := rfl
@[simp] theorem encode_loop (g : Guard) (d : Reg) (len : BitVec 10) : (Instr.loop g d len).encode = encF2I 0x03#6 g d 0#6 len := rfl
@[simp] theorem encode_brx (g : Guard) (a : Reg) : (Instr.brx g a).encode = encF3 0x04#6 g 0#6 a 0#6 0x0#4 := rfl
@[simp] theorem encode_callx (g : Guard) (a : Reg) : (Instr.callx g a).encode = encF3 0x04#6 g 0#6 a 0#6 0x1#4 := rfl
@[simp] theorem encode_ret (g : Guard) : (Instr.ret g).encode = encF3 0x04#6 g 0#6 0#6 0#6 0x2#4 := rfl
@[simp] theorem encode_trap (g : Guard) (code : BitVec 16) : (Instr.trap g code).encode = encF1I 0x05#6 g 0#6 code := rfl
@[simp] theorem encode_rdv (g : Guard) (n : BitVec 16) : (Instr.rdv g n).encode = encF1I 0x06#6 g 0#6 n := rfl
@[simp] theorem encode_nxt (g : Guard) (sl : BitVec 16) : (Instr.nxt g sl).encode = encF1I 0x07#6 g 0#6 sl := rfl
@[simp] theorem encode_add (g : Guard) (d a b : Reg) : (Instr.add g d a b).encode = encF3 0x08#6 g d a b 0x0#4 := rfl
@[simp] theorem encode_sub (g : Guard) (d a b : Reg) : (Instr.sub g d a b).encode = encF3 0x08#6 g d a b 0x1#4 := rfl
@[simp] theorem encode_mul (g : Guard) (d a b : Reg) : (Instr.mul g d a b).encode = encF3 0x08#6 g d a b 0x2#4 := rfl
@[simp] theorem encode_mulh (g : Guard) (d a b : Reg) : (Instr.mulh g d a b).encode = encF3 0x08#6 g d a b 0x3#4 := rfl
@[simp] theorem encode_mulhn (g : Guard) (d a b : Reg) : (Instr.mulhn g d a b).encode = encF3 0x08#6 g d a b 0x4#4 := rfl
@[simp] theorem encode_min (g : Guard) (d a b : Reg) : (Instr.min g d a b).encode = encF3 0x08#6 g d a b 0x5#4 := rfl
@[simp] theorem encode_max (g : Guard) (d a b : Reg) : (Instr.max g d a b).encode = encF3 0x08#6 g d a b 0x6#4 := rfl
@[simp] theorem encode_minn (g : Guard) (d a b : Reg) : (Instr.minn g d a b).encode = encF3 0x08#6 g d a b 0x7#4 := rfl
@[simp] theorem encode_maxn (g : Guard) (d a b : Reg) : (Instr.maxn g d a b).encode = encF3 0x08#6 g d a b 0x8#4 := rfl
@[simp] theorem encode_and (g : Guard) (d a b : Reg) : (Instr.and g d a b).encode = encF3 0x08#6 g d a b 0x9#4 := rfl
@[simp] theorem encode_or (g : Guard) (d a b : Reg) : (Instr.or g d a b).encode = encF3 0x08#6 g d a b 0xA#4 := rfl
@[simp] theorem encode_xor (g : Guard) (d a b : Reg) : (Instr.xor g d a b).encode = encF3 0x08#6 g d a b 0xB#4 := rfl
@[simp] theorem encode_andn (g : Guard) (d a b : Reg) : (Instr.andn g d a b).encode = encF3 0x08#6 g d a b 0xC#4 := rfl
@[simp] theorem encode_shl (g : Guard) (d a b : Reg) : (Instr.shl g d a b).encode = encF3 0x08#6 g d a b 0xD#4 := rfl
@[simp] theorem encode_shr (g : Guard) (d a b : Reg) : (Instr.shr g d a b).encode = encF3 0x08#6 g d a b 0xE#4 := rfl
@[simp] theorem encode_sar (g : Guard) (d a b : Reg) : (Instr.sar g d a b).encode = encF3 0x08#6 g d a b 0xF#4 := rfl
@[simp] theorem encode_mov (g : Guard) (d a : Reg) : (Instr.mov g d a).encode = encF3 0x09#6 g d a 0#6 0x0#4 := rfl
@[simp] theorem encode_sel (g : Guard) (d a b : Reg) : (Instr.sel g d a b).encode = encF3 0x09#6 g d a b 0x1#4 := rfl
@[simp] theorem encode_mac (g : Guard) (d a b : Reg) : (Instr.mac g d a b).encode = encF3 0x09#6 g d a b 0x2#4 := rfl
@[simp] theorem encode_popc (g : Guard) (d a : Reg) : (Instr.popc g d a).encode = encF3 0x09#6 g d a 0#6 0x3#4 := rfl
@[simp] theorem encode_clz (g : Guard) (d a : Reg) : (Instr.clz g d a).encode = encF3 0x09#6 g d a 0#6 0x4#4 := rfl
@[simp] theorem encode_brev (g : Guard) (d a : Reg) : (Instr.brev g d a).encode = encF3 0x09#6 g d a 0#6 0x5#4 := rfl
@[simp] theorem encode_bfe (g : Guard) (d a b : Reg) : (Instr.bfe g d a b).encode = encF3 0x09#6 g d a b 0x6#4 := rfl
@[simp] theorem encode_bfi (g : Guard) (d a b : Reg) : (Instr.bfi g d a b).encode = encF3 0x09#6 g d a b 0x7#4 := rfl
@[simp] theorem encode_rotl (g : Guard) (d a b : Reg) : (Instr.rotl g d a b).encode = encF3 0x09#6 g d a b 0x8#4 := rfl
@[simp] theorem encode_abs (g : Guard) (d a : Reg) : (Instr.abs g d a).encode = encF3 0x09#6 g d a 0#6 0x9#4 := rfl
@[simp] theorem encode_neg (g : Guard) (d a : Reg) : (Instr.neg g d a).encode = encF3 0x09#6 g d a 0#6 0xA#4 := rfl
@[simp] theorem encode_mulw (g : Guard) (d a b : Reg) : (Instr.mulw g d a b).encode = encF3 0x09#6 g d a b 0xB#4 := rfl
@[simp] theorem encode_lea (g : Guard) (d a b : Reg) (sh : BitVec 2) : (Instr.lea g d a b sh).encode = encF3 0x09#6 g d a b (0b11#2 ++ sh) := rfl
@[simp] theorem encode_addi (g : Guard) (d a : Reg) (imm : BitVec 10) : (Instr.addi g d a imm).encode = encF2I 0x0A#6 g d a imm := rfl
@[simp] theorem encode_andi (g : Guard) (d a : Reg) (imm : BitVec 10) : (Instr.andi g d a imm).encode = encF2I 0x0B#6 g d a imm := rfl
@[simp] theorem encode_ori (g : Guard) (d a : Reg) (imm : BitVec 10) : (Instr.ori g d a imm).encode = encF2I 0x0C#6 g d a imm := rfl
@[simp] theorem encode_xori (g : Guard) (d a : Reg) (imm : BitVec 10) : (Instr.xori g d a imm).encode = encF2I 0x0D#6 g d a imm := rfl
@[simp] theorem encode_shli (g : Guard) (d a : Reg) (n : BitVec 6) : (Instr.shli g d a n).encode = encF2I 0x0E#6 g d a (0#4 ++ n) := rfl
@[simp] theorem encode_shri (g : Guard) (d a : Reg) (n : BitVec 6) : (Instr.shri g d a n).encode = encF2I 0x0F#6 g d a (0#4 ++ n) := rfl
@[simp] theorem encode_sari (g : Guard) (d a : Reg) (n : BitVec 6) : (Instr.sari g d a n).encode = encF2I 0x10#6 g d a (0#4 ++ n) := rfl
@[simp] theorem encode_movi (g : Guard) (d : Reg) (imm : BitVec 16) : (Instr.movi g d imm).encode = encF1I 0x11#6 g d imm := rfl
@[simp] theorem encode_movh (g : Guard) (d : Reg) (imm : BitVec 16) : (Instr.movh g d imm).encode = encF1I 0x12#6 g d imm := rfl
@[simp] theorem encode_limm (g : Guard) (d : Reg) (imm : BitVec 16) (z0 : W32) : (Instr.limm g d imm z0).encode = encF1I 0x13#6 g d imm := rfl
@[simp] theorem encode_cmp (g : Guard) (pd : Pred) (cc : Cond) (a b : Reg) : (Instr.cmp g pd cc a b).encode =
    encFC 0x14#6 g pd cc.code a b 0x0#4 := rfl
@[simp] theorem encode_cmp64 (g : Guard) (pd : Pred) (cc : Cond) (a b : Reg) : (Instr.cmp64 g pd cc a b).encode =
    encFC 0x14#6 g pd cc.code a b 0x1#4 := rfl
@[simp] theorem encode_cmpi (g : Guard) (pd : Pred) (cc : Cond) (a : Reg) (imm : BitVec 10) : (Instr.cmpi g pd cc a imm).encode =
    encWord 0x15#6 g (pd ++ cc.code ++ a ++ imm) := rfl
@[simp] theorem encode_pand (g : Guard) (pd pa pb : Pred) : (Instr.pand g pd pa pb).encode =
    encF3 0x16#6 g (0#3 ++ pd) (0#3 ++ pa) (0#3 ++ pb) 0x0#4 := rfl
@[simp] theorem encode_por (g : Guard) (pd pa pb : Pred) : (Instr.por g pd pa pb).encode =
    encF3 0x16#6 g (0#3 ++ pd) (0#3 ++ pa) (0#3 ++ pb) 0x1#4 := rfl
@[simp] theorem encode_pxor (g : Guard) (pd pa pb : Pred) : (Instr.pxor g pd pa pb).encode =
    encF3 0x16#6 g (0#3 ++ pd) (0#3 ++ pa) (0#3 ++ pb) 0x2#4 := rfl
@[simp] theorem encode_pandn (g : Guard) (pd pa pb : Pred) : (Instr.pandn g pd pa pb).encode =
    encF3 0x16#6 g (0#3 ++ pd) (0#3 ++ pa) (0#3 ++ pb) 0x3#4 := rfl
@[simp] theorem encode_fadd (g : Guard) (d a b : Reg) : (Instr.fadd g d a b).encode = encF3 0x17#6 g d a b 0x0#4 := rfl
@[simp] theorem encode_fsub (g : Guard) (d a b : Reg) : (Instr.fsub g d a b).encode = encF3 0x17#6 g d a b 0x1#4 := rfl
@[simp] theorem encode_fmul (g : Guard) (d a b : Reg) : (Instr.fmul g d a b).encode = encF3 0x17#6 g d a b 0x2#4 := rfl
@[simp] theorem encode_fmin (g : Guard) (d a b : Reg) : (Instr.fmin g d a b).encode = encF3 0x17#6 g d a b 0x3#4 := rfl
@[simp] theorem encode_fmax (g : Guard) (d a b : Reg) : (Instr.fmax g d a b).encode = encF3 0x17#6 g d a b 0x4#4 := rfl
@[simp] theorem encode_fabs (g : Guard) (d a : Reg) : (Instr.fabs g d a).encode = encF3 0x17#6 g d a 0#6 0x5#4 := rfl
@[simp] theorem encode_fneg (g : Guard) (d a : Reg) : (Instr.fneg g d a).encode = encF3 0x17#6 g d a 0#6 0x6#4 := rfl
@[simp] theorem encode_fcps (g : Guard) (d a b : Reg) : (Instr.fcps g d a b).encode = encF3 0x17#6 g d a b 0x7#4 := rfl
@[simp] theorem encode_ffma (g : Guard) (d a b : Reg) (rm : FmaRound) : (Instr.ffma g d a b rm).encode = encF3 0x18#6 g d a b rm.code := rfl
@[simp] theorem encode_fcmp (g : Guard) (pd : Pred) (cc : Cond) (a b : Reg) (sig : Bool) : (Instr.fcmp g pd cc a b sig).encode =
    encFC 0x19#6 g pd cc.code a b (0#3 ++ BitVec.ofBool sig) := rfl
@[simp] theorem encode_padd2 (g : Guard) (d a b : Reg) (hf : Bool) : (Instr.padd2 g d a b hf).encode =
    encF3 0x1A#6 g d a b (BitVec.ofBool hf ++ 0#3) := rfl
@[simp] theorem encode_psub2 (g : Guard) (d a b : Reg) (hf : Bool) : (Instr.psub2 g d a b hf).encode =
    encF3 0x1A#6 g d a b (BitVec.ofBool hf ++ 1#3) := rfl
@[simp] theorem encode_pmul2 (g : Guard) (d a b : Reg) (hf : Bool) : (Instr.pmul2 g d a b hf).encode =
    encF3 0x1A#6 g d a b (BitVec.ofBool hf ++ 2#3) := rfl
@[simp] theorem encode_pfma2 (g : Guard) (d a b : Reg) (hf : Bool) : (Instr.pfma2 g d a b hf).encode =
    encF3 0x1A#6 g d a b (BitVec.ofBool hf ++ 3#3) := rfl
@[simp] theorem encode_pmax2 (g : Guard) (d a b : Reg) (hf : Bool) : (Instr.pmax2 g d a b hf).encode =
    encF3 0x1A#6 g d a b (BitVec.ofBool hf ++ 4#3) := rfl
@[simp] theorem encode_pmin2 (g : Guard) (d a b : Reg) (hf : Bool) : (Instr.pmin2 g d a b hf).encode =
    encF3 0x1A#6 g d a b (BitVec.ofBool hf ++ 5#3) := rfl
@[simp] theorem encode_xexp2 (g : Guard) (d a : Reg) : (Instr.xexp2 g d a).encode = encF3 0x1B#6 g d a 0#6 0x0#4 := rfl
@[simp] theorem encode_xlog2 (g : Guard) (d a : Reg) : (Instr.xlog2 g d a).encode = encF3 0x1B#6 g d a 0#6 0x1#4 := rfl
@[simp] theorem encode_xrcp (g : Guard) (d a : Reg) : (Instr.xrcp g d a).encode = encF3 0x1B#6 g d a 0#6 0x2#4 := rfl
@[simp] theorem encode_xrsq (g : Guard) (d a : Reg) : (Instr.xrsq g d a).encode = encF3 0x1B#6 g d a 0#6 0x3#4 := rfl
@[simp] theorem encode_xsqrt (g : Guard) (d a : Reg) : (Instr.xsqrt g d a).encode = encF3 0x1B#6 g d a 0#6 0x4#4 := rfl
@[simp] theorem encode_xtanh (g : Guard) (d a : Reg) : (Instr.xtanh g d a).encode = encF3 0x1B#6 g d a 0#6 0x5#4 := rfl
@[simp] theorem encode_xsin (g : Guard) (d a : Reg) : (Instr.xsin g d a).encode = encF3 0x1B#6 g d a 0#6 0x6#4 := rfl
@[simp] theorem encode_xcos (g : Guard) (d a : Reg) : (Instr.xcos g d a).encode = encF3 0x1B#6 g d a 0#6 0x7#4 := rfl
@[simp] theorem encode_cvtf (g : Guard) (d a : Reg) (k : CvtfKind) (hi : Bool) : (Instr.cvtf g d a k hi).encode =
    encF3 0x1C#6 g d a (0#3 ++ BitVec.ofBool hi ++ k.code) 0x0#4 := rfl
@[simp] theorem encode_cvti (g : Guard) (d a : Reg) (k : CvtiKind) (trunc : Bool) : (Instr.cvti g d a k trunc).encode =
    encF3 0x1C#6 g d a (0#3 ++ BitVec.ofBool trunc ++ k.code) 0x1#4 := rfl
@[simp] theorem encode_cvtn (g : Guard) (d a b : Reg) : (Instr.cvtn g d a b).encode = encF3 0x1C#6 g d a b 0x2#4 := rfl
@[simp] theorem encode_pack2 (g : Guard) (d a b : Reg) : (Instr.pack2 g d a b).encode = encF3 0x1C#6 g d a b 0x3#4 := rfl
@[simp] theorem encode_unpk2 (g : Guard) (d a : Reg) (m : UnpkMode) : (Instr.unpk2 g d a m).encode = encF3 0x1C#6 g d a (0#4 ++ m.code) 0x4#4 := rfl
@[simp] theorem encode_voteAny (g : Guard) (pd pa : Pred) : (Instr.voteAny g pd pa).encode = encF3 0x1D#6 g (0#3 ++ pd) (0#3 ++ pa) 0#6 0x0#4 := rfl
@[simp] theorem encode_voteAll (g : Guard) (pd pa : Pred) : (Instr.voteAll g pd pa).encode = encF3 0x1D#6 g (0#3 ++ pd) (0#3 ++ pa) 0#6 0x1#4 := rfl
@[simp] theorem encode_voteBal (g : Guard) (d : Reg) (pa : Pred) : (Instr.voteBal g d pa).encode = encF3 0x1D#6 g d (0#3 ++ pa) 0#6 0x2#4 := rfl
@[simp] theorem encode_shflIdx (g : Guard) (d a b : Reg) : (Instr.shflIdx g d a b).encode = encF3 0x1D#6 g d a b 0x3#4 := rfl
@[simp] theorem encode_shflUp (g : Guard) (d a b : Reg) : (Instr.shflUp g d a b).encode = encF3 0x1D#6 g d a b 0x4#4 := rfl
@[simp] theorem encode_shflDn (g : Guard) (d a b : Reg) : (Instr.shflDn g d a b).encode = encF3 0x1D#6 g d a b 0x5#4 := rfl
@[simp] theorem encode_shflXor (g : Guard) (d a b : Reg) : (Instr.shflXor g d a b).encode = encF3 0x1D#6 g d a b 0x6#4 := rfl
@[simp] theorem encode_srd (g : Guard) (d : Reg) (n : BitVec 12) : (Instr.srd g d n).encode = encF1I 0x1E#6 g d (0b0000#4 ++ n) := rfl
@[simp] theorem encode_swr (g : Guard) (d : Reg) (n : BitVec 12) : (Instr.swr g d n).encode = encF1I 0x1E#6 g d (0b1000#4 ++ n) := rfl
@[simp] theorem encode_give (g : Guard) (a b : Reg) : (Instr.give g a b).encode = encF3 0x1F#6 g 0#6 a b 0x0#4 := rfl
@[simp] theorem encode_take (g : Guard) (a : Reg) : (Instr.take g a).encode = encF3 0x1F#6 g 0#6 a 0#6 0x1#4 := rfl
@[simp] theorem encode_ttry (g : Guard) (pd : Pred) (a : Reg) : (Instr.ttry g pd a).encode = encF3 0x1F#6 g (0#3 ++ pd) a 0#6 0x2#4 := rfl
@[simp] theorem encode_tsel (g : Guard) (a : Reg) : (Instr.tsel g a).encode = encF3 0x1F#6 g 0#6 a 0#6 0x3#4 := rfl
@[simp] theorem encode_town (g : Guard) (d a : Reg) : (Instr.town g d a).encode = encF3 0x1F#6 g d a 0#6 0x4#4 := rfl
@[simp] theorem encode_ld (g : Guard) (d a : Reg) (sc : Scope) (ord : Order) (w : Width) (sx : Bool) : (Instr.ld g d a sc ord w sx).encode =
    encFM 0x20#6 g d a sc ord w (0#2 ++ BitVec.ofBool sx) := rfl
@[simp] theorem encode_st (g : Guard) (d a : Reg) (sc : Scope) (ord : Order) (w : Width) : (Instr.st g d a sc ord w).encode =
    encFM 0x21#6 g d a sc ord w 0#3 := rfl
@[simp] theorem encode_ldo (g : Guard) (d a : Reg) (sc : Scope) (ord : Order) (w : Width) (sx : Bool) (z0 : W32) :
    (Instr.ldo g d a sc ord w sx z0).encode = encFM 0x22#6 g d a sc ord w (0#2 ++ BitVec.ofBool sx) := rfl
@[simp] theorem encode_sto (g : Guard) (d a : Reg) (sc : Scope) (ord : Order) (w : Width) (z0 : W32) : (Instr.sto g d a sc ord w z0).encode =
    encFM 0x23#6 g d a sc ord w 0#3 := rfl
@[simp] theorem encode_atom (g : Guard) (d a b : Reg) (op : AtomOp) : (Instr.atom g d a b op).encode = encF3 0x24#6 g d a b op.code := rfl
@[simp] theorem encode_atcas (g : Guard) (d a b : Reg) (w64 : Bool) : (Instr.atcas g d a b w64).encode =
    encF3 0x25#6 g d a b (0#3 ++ BitVec.ofBool w64) := rfl
@[simp] theorem encode_red (g : Guard) (a b : Reg) (op : AtomOp) : (Instr.red g a b op).encode = encF3 0x26#6 g 0#6 a b op.code := rfl
@[simp] theorem encode_fence (g : Guard) (sc : Scope) : (Instr.fence g sc).encode = encF1I 0x27#6 g 0#6 (0#14 ++ sc.code) := rfl
@[simp] theorem encode_tfence (g : Guard) (sc : Scope) : (Instr.tfence g sc).encode = encF1I 0x27#6 g 0#6 (0#13 ++ 1#1 ++ sc.code) := rfl
@[simp] theorem encode_pft (g : Guard) (a : Reg) : (Instr.pft g a).encode = encF3 0x28#6 g 0#6 a 0#6 0x0#4 := rfl
@[simp] theorem encode_pclr (g : Guard) (a b : Reg) : (Instr.pclr g a b).encode = encF3 0x28#6 g 0#6 a b 0x1#4 := rfl
@[simp] theorem encode_await (g : Guard) (a : Reg) : (Instr.await g a).encode = encF3 0x28#6 g 0#6 a 0#6 0x2#4 := rfl
@[simp] theorem encode_cpk (g : Guard) (a : Reg) : (Instr.cpk g a).encode = encF3 0x29#6 g 0#6 a 0#6 0x0#4 := rfl
@[simp] theorem encode_racq (g : Guard) (d a : Reg) : (Instr.racq g d a).encode = encF3 0x2A#6 g d a 0#6 0x0#4 := rfl
@[simp] theorem encode_racqTry (g : Guard) (d a : Reg) (p : Pred) : (Instr.racqTry g d a p).encode = encF3 0x2A#6 g d a (0b001#3 ++ p) 0x0#4 := rfl
@[simp] theorem encode_rcmt (g : Guard) (a b : Reg) : (Instr.rcmt g a b).encode = encF3 0x2A#6 g 0#6 a b 0x1#4 := rfl
@[simp] theorem encode_rpek (g : Guard) (d a : Reg) : (Instr.rpek g d a).encode = encF3 0x2A#6 g d a 0#6 0x2#4 := rfl
@[simp] theorem encode_rpekTry (g : Guard) (d a : Reg) (p : Pred) : (Instr.rpekTry g d a p).encode = encF3 0x2A#6 g d a (0b001#3 ++ p) 0x2#4 := rfl
@[simp] theorem encode_rrel (g : Guard) (a : Reg) : (Instr.rrel g a).encode = encF3 0x2A#6 g 0#6 a 0#6 0x3#4 := rfl
@[simp] theorem encode_launch (g : Guard) (d a : Reg) : (Instr.launch g d a).encode = encF3 0x2B#6 g d a 0#6 0x0#4 := rfl
@[simp] theorem encode_jnew (g : Guard) (d a b : Reg) : (Instr.jnew g d a b).encode = encF3 0x2B#6 g d a b 0x1#4 := rfl
@[simp] theorem encode_jarr (g : Guard) (d : Reg) : (Instr.jarr g d).encode = encF3 0x2B#6 g d 0#6 0#6 0x2#4 := rfl
@[simp] theorem encode_jwait (g : Guard) (d a : Reg) : (Instr.jwait g d a).encode = encF3 0x2B#6 g d a 0#6 0x3#4 := rfl
@[simp] theorem encode_jqry (g : Guard) (d a : Reg) (sl : BitVec 6) : (Instr.jqry g d a sl).encode = encF3 0x2B#6 g d a sl 0x4#4 := rfl
@[simp] theorem encode_migr (g : Guard) (pd : Pred) (a : Reg) : (Instr.migr g pd a).encode = encF3 0x2B#6 g (0#3 ++ pd) a 0#6 0x5#4 := rfl
@[simp] theorem encode_mhome (g : Guard) (d a : Reg) : (Instr.mhome g d a).encode = encF3 0x2B#6 g d a 0#6 0x6#4 := rfl
@[simp] theorem encode_bar (g : Guard) (n : Byte) (id : BitVec 4) : (Instr.bar g n id).encode = encF1I 0x2C#6 g 0#6 (0#4 ++ n ++ id) := rfl
@[simp] theorem encode_mma (g : Guard) (d a b : Reg) (fn : BitVec 4) : (Instr.mma g d a b fn).encode = encF3 0x30#6 g d a b fn := rfl
@[simp] theorem encode_mmaz (g : Guard) (d a b : Reg) (fn : BitVec 4) : (Instr.mmaz g d a b fn).encode = encF3 0x31#6 g d a b fn := rfl
@[simp] theorem encode_mmar (g : Guard) (d a b : Reg) (fn : BitVec 4) : (Instr.mmar g d a b fn).encode = encF3 0x32#6 g d a b fn := rfl
@[simp] theorem encode_mxc (g : Guard) (a : Reg) : (Instr.mxc g a).encode = encF3 0x33#6 g 0#6 a 0#6 0x0#4 := rfl
@[simp] theorem encode_tadd (g : Guard) (d a b : Reg) : (Instr.tadd g d a b).encode = encF3 0x34#6 g d a b 0x0#4 := rfl
@[simp] theorem encode_tsub (g : Guard) (d a b : Reg) : (Instr.tsub g d a b).encode = encF3 0x34#6 g d a b 0x1#4 := rfl
@[simp] theorem encode_tmul (g : Guard) (d a b : Reg) : (Instr.tmul g d a b).encode = encF3 0x34#6 g d a b 0x2#4 := rfl
@[simp] theorem encode_tfma (g : Guard) (d a b : Reg) : (Instr.tfma g d a b).encode = encF3 0x34#6 g d a b 0x3#4 := rfl
@[simp] theorem encode_tmax (g : Guard) (d a b : Reg) : (Instr.tmax g d a b).encode = encF3 0x34#6 g d a b 0x4#4 := rfl
@[simp] theorem encode_tmin (g : Guard) (d a b : Reg) : (Instr.tmin g d a b).encode = encF3 0x34#6 g d a b 0x5#4 := rfl
@[simp] theorem encode_tsclr (g : Guard) (d a b : Reg) : (Instr.tsclr g d a b).encode = encF3 0x34#6 g d a b 0x6#4 := rfl
@[simp] theorem encode_tsclc (g : Guard) (d a b : Reg) : (Instr.tsclc g d a b).encode = encF3 0x34#6 g d a b 0x7#4 := rfl
@[simp] theorem encode_tcpy (g : Guard) (d a : Reg) : (Instr.tcpy g d a).encode = encF3 0x34#6 g d a 0#6 0x8#4 := rfl
@[simp] theorem encode_tfill (g : Guard) (d a : Reg) : (Instr.tfill g d a).encode = encF3 0x34#6 g d a 0#6 0x9#4 := rfl
@[simp] theorem encode_tmsk (g : Guard) (d a b : Reg) : (Instr.tmsk g d a b).encode = encF3 0x34#6 g d a b 0xA#4 := rfl
@[simp] theorem encode_tcvt (g : Guard) (d a b : Reg) : (Instr.tcvt g d a b).encode = encF3 0x34#6 g d a b 0xB#4 := rfl
@[simp] theorem encode_trmax (g : Guard) (d a : Reg) : (Instr.trmax g d a).encode = encF3 0x35#6 g d a 0#6 0x0#4 := rfl
@[simp] theorem encode_trsum (g : Guard) (d a : Reg) : (Instr.trsum g d a).encode = encF3 0x35#6 g d a 0#6 0x1#4 := rfl
@[simp] theorem encode_tcmax (g : Guard) (d a : Reg) : (Instr.tcmax g d a).encode = encF3 0x35#6 g d a 0#6 0x2#4 := rfl
@[simp] theorem encode_tcsum (g : Guard) (d a : Reg) : (Instr.tcsum g d a).encode = encF3 0x35#6 g d a 0#6 0x3#4 := rfl
@[simp] theorem encode_ttrn (g : Guard) (d a : Reg) : (Instr.ttrn g d a).encode = encF3 0x35#6 g d a 0#6 0x4#4 := rfl
@[simp] theorem encode_tbcr (g : Guard) (d a : Reg) : (Instr.tbcr g d a).encode = encF3 0x35#6 g d a 0#6 0x5#4 := rfl
@[simp] theorem encode_tbcc (g : Guard) (d a : Reg) : (Instr.tbcc g d a).encode = encF3 0x35#6 g d a 0#6 0x6#4 := rfl
@[simp] theorem encode_sexp2 (g : Guard) (d a : Reg) : (Instr.sexp2 g d a).encode = encF3 0x36#6 g d a 0#6 0x0#4 := rfl
@[simp] theorem encode_slog2 (g : Guard) (d a : Reg) : (Instr.slog2 g d a).encode = encF3 0x36#6 g d a 0#6 0x1#4 := rfl
@[simp] theorem encode_srcp (g : Guard) (d a : Reg) : (Instr.srcp g d a).encode = encF3 0x36#6 g d a 0#6 0x2#4 := rfl
@[simp] theorem encode_srsq (g : Guard) (d a : Reg) : (Instr.srsq g d a).encode = encF3 0x36#6 g d a 0#6 0x3#4 := rfl
@[simp] theorem encode_stanh (g : Guard) (d a : Reg) : (Instr.stanh g d a).encode = encF3 0x36#6 g d a 0#6 0x4#4 := rfl
@[simp] theorem encode_tld (g : Guard) (d a b : Reg) (strong : Bool) (mode : TileMode) : (Instr.tld g d a b strong mode).encode =
    encF3 0x37#6 g d a b (BitVec.ofBool strong ++ mode.code) := rfl
@[simp] theorem encode_tst (g : Guard) (d a b : Reg) (strong : Bool) (mode : TileMode) : (Instr.tst g d a b strong mode).encode =
    encF3 0x38#6 g d a b (BitVec.ofBool strong ++ mode.code) := rfl

end Instr

end Sys2Proof
end

