-- ==== Sys2Proof/Laws/Memory.lean ====
section
/-! SUPPORT. The laws of the byte memories: what a byte reads as after a write, and the canonical form that every memory
operation keeps. -/

namespace Sys2Proof.Machine

/-- Every address of a memory lies above `a`. -/
def Memory.above (a : Nat) (m : Memory) : Prop := ∀ c ∈ m, a < c.1

theorem Memory.wf_cons {a : Nat} {b : Byte} {m : Memory} :
    Memory.wf ((a, b) :: m) = true ↔ b ≠ unlisted ∧ Memory.above a m ∧ Memory.wf m = true := by
  induction m generalizing a b with
  | nil => simp [Memory.wf, Memory.above]
  | cons c m ih =>
    obtain ⟨a', b'⟩ := c
    have h' := @ih a' b'
    constructor
    · intro h
      simp only [Memory.wf, Bool.and_eq_true, bne_iff_ne, ne_eq, decide_eq_true_eq] at h
      refine ⟨h.1.1, fun c hc => ?_, h.2⟩
      rcases List.mem_cons.1 hc with rfl | hc
      · exact h.1.2
      · exact Nat.lt_trans h.1.2 ((h'.1 h.2).2.1 c hc)
    · rintro ⟨hb, ha, hw⟩
      simp only [Memory.wf, Bool.and_eq_true, bne_iff_ne, ne_eq, decide_eq_true_eq]
      exact ⟨⟨hb, ha (a', b') (by simp)⟩, hw⟩

theorem memCons_wf {a : Nat} {b : Byte} {m : Memory} (h : Memory.wf m = true) (ha : Memory.above a m) :
    Memory.wf (memCons a b m) = true := by
  unfold memCons
  split
  · exact h
  · exact Memory.wf_cons.2 ⟨‹_›, ha, h⟩

theorem memCons_above {a n : Nat} {b : Byte} {m : Memory} (h : n < a) (hm : Memory.above n m) :
    Memory.above n (memCons a b m) := by
  unfold memCons
  split
  · exact hm
  · intro c hc
    rcases List.mem_cons.1 hc with rfl | hc
    · exact h
    · exact hm c hc

theorem memWrite_above {m : Memory} {n a : Nat} {b : Byte} (h : n < a) (hm : Memory.above n m) :
    Memory.above n (memWrite m a b) := by
  induction m with
  | nil => exact memCons_above h (by simp [Memory.above])
  | cons c m ih =>
    obtain ⟨a', b'⟩ := c
    have ht : Memory.above n m := fun c hc => hm c (List.mem_cons_of_mem _ hc)
    have hd : n < a' := hm (a', b') (by simp)
    unfold memWrite
    split
    · exact memCons_above h hm
    · split
      · exact memCons_above h ht
      · intro c hc
        rcases List.mem_cons.1 hc with rfl | hc
        · exact hd
        · exact ih ht c hc

/-- A byte written keeps the canonical form. -/
theorem memWrite_wf {m : Memory} (h : Memory.wf m = true) (a : Nat) (b : Byte) : Memory.wf (memWrite m a b) = true := by
  induction m with
  | nil => exact memCons_wf rfl (by simp [Memory.above])
  | cons c m ih =>
    obtain ⟨a', b'⟩ := c
    obtain ⟨hb, ha, hw⟩ := Memory.wf_cons.1 h
    unfold memWrite
    split
    · refine memCons_wf h fun c hc => ?_
      rcases List.mem_cons.1 hc with rfl | hc
      · assumption
      · have := ha c hc; omega
    · split
      · subst_vars; exact memCons_wf hw ha
      · exact Memory.wf_cons.2 ⟨hb, memWrite_above (by omega) ha, ih hw⟩

/-- Bytes written keep the canonical form. -/
theorem memPut_wf {m : Memory} (h : Memory.wf m = true) (a : Nat) (bs : List Byte) : Memory.wf (memPut m a bs) = true := by
  induction bs generalizing m a with
  | nil => exact h
  | cons b bs ih => exact ih (memWrite_wf h a b) _

/-- A range removed keeps the canonical form. -/
theorem memClear_wf {m : Memory} (h : Memory.wf m = true) (a n : Nat) : Memory.wf (memClear m a n) = true := by
  unfold memClear
  induction m with
  | nil => rfl
  | cons c m ih =>
    obtain ⟨a', b'⟩ := c
    obtain ⟨hb, ha, hw⟩ := Memory.wf_cons.1 h
    rw [List.filter_cons]
    split
    · exact Memory.wf_cons.2 ⟨hb, fun c hc => ha c (List.mem_filter.1 hc).1, ih hw⟩
    · exact ih hw

theorem memRead_above {m : Memory} {a : Nat} (h : Memory.above a m) : memRead m a = unlisted := by
  cases m with
  | nil => rfl
  | cons c m =>
    obtain ⟨a', b'⟩ := c
    have : a < a' := h (a', b') (by simp)
    simp [memRead, this, Nat.ne_of_lt this]

theorem memRead_memCons {a c : Nat} {b : Byte} {m : Memory} (h : Memory.above a m) :
    memRead (memCons a b m) c = if c = a then b else memRead m c := by
  unfold memCons
  split
  · split
    · subst_vars; exact memRead_above h
    · rfl
  · simp only [memRead]
    split
    · rfl
    · split
      · rw [memRead_above]
        intro x hx
        exact Nat.lt_trans ‹_› (h x hx)
      · rfl

/-- What a byte reads as after a byte was written. -/
theorem memRead_memWrite {m : Memory} (h : Memory.wf m = true) (a c : Nat) (b : Byte) :
    memRead (memWrite m a b) c = if c = a then b else memRead m c := by
  induction m with
  | nil => exact memRead_memCons (by simp [Memory.above])
  | cons x m ih =>
    obtain ⟨a', b'⟩ := x
    obtain ⟨hb, ha, hw⟩ := Memory.wf_cons.1 h
    unfold memWrite
    split
    · refine memRead_memCons fun c hc => ?_
      rcases List.mem_cons.1 hc with rfl | hc
      · assumption
      · have := ha c hc; omega
    · split
      · subst_vars
        rw [memRead_memCons ha]
        split
        · rfl
        · simp only [memRead, if_neg ‹¬c = _›]
          split
          · exact memRead_above fun x hx => Nat.lt_trans ‹_› (ha x hx)
          · rfl
      · simp only [memRead, ih hw]
        split
        · rw [if_neg (by omega)]
        · split
          · rw [if_neg (by omega)]
          · rfl

/-- What a byte reads as after bytes were written: theirs inside the range, as before outside it. -/
theorem memRead_memPut {m : Memory} (h : Memory.wf m = true) (a c : Nat) (bs : List Byte) :
    memRead (memPut m a bs) c = if a ≤ c ∧ c < a + bs.length then bs.getD (c - a) 0 else memRead m c := by
  induction bs generalizing m a with
  | nil => rw [if_neg (by simp only [List.length_nil]; omega)]; rfl
  | cons b bs ih =>
    rw [memPut, ih (memWrite_wf h a b), memRead_memWrite h]
    by_cases h1 : c = a
    · subst h1
      rw [if_neg (by omega), if_pos rfl, if_pos (by simp)]
      simp
    · by_cases h2 : a + 1 ≤ c ∧ c < a + 1 + bs.length
      · rw [if_pos h2, if_pos (by simp; omega)]
        obtain ⟨n, rfl⟩ : ∃ n, c = a + 1 + n := ⟨c - (a + 1), by omega⟩
        have : a + 1 + n - a = n + 1 := by omega
        simp [this]
      · rw [if_neg h2, if_neg h1, if_neg (by simp; omega)]

/-- A range reads as before after a write that does not touch it. -/
theorem memBytes_memPut_of_disjoint {m : Memory} (h : Memory.wf m = true) (a c n : Nat) (bs : List Byte)
    (hd : c + n ≤ a ∨ a + bs.length ≤ c) : memBytes (memPut m a bs) c n = memBytes m c n := by
  induction n generalizing c with
  | zero => rfl
  | succ n ih =>
    have h1 : memBytes (memPut m a bs) (c + 1) n = memBytes m (c + 1) n := ih (c + 1) (by omega)
    rw [memBytes, memBytes, memRead_memPut h, if_neg (by omega), h1]

/-- The bytes that were written are read back. -/
theorem memBytes_memPut {m : Memory} (h : Memory.wf m = true) (a : Nat) (bs : List Byte) :
    memBytes (memPut m a bs) a bs.length = bs := by
  have : ∀ (n k : Nat), k + n = bs.length → memBytes (memPut m a bs) (a + k) n = bs.drop k := by
    intro n
    induction n with
    | zero => intro k hk; rw [memBytes, List.drop_of_length_le (by omega)]
    | succ n ih =>
      intro k hk
      have hlt : k < bs.length := by omega
      rw [memBytes, Nat.add_assoc, ih (k + 1) (by omega), memRead_memPut h, if_pos (by omega), List.drop_eq_getElem_cons hlt]
      simp [hlt]
  simpa using this bs.length 0 (by omega)

end Sys2Proof.Machine
end

