-- ==== Sys2Proof/Laws/Tile.lean ====
section
/-! SUPPORT. What the units of a strand's tile ops come to. -/

namespace Sys2Proof.Machine

/-! ## Memory and other cores -/

theorem SameBytes.refl (s : State) : SameBytes s s := ⟨fun _ => rfl, fun _ => rfl, fun _ _ _ => rfl⟩

theorem SameBytes.trans {s t u : State} (h : SameBytes s t) (h' : SameBytes t u) : SameBytes s u :=
  ⟨fun a => (h'.dev a).trans (h.dev a), fun a => (h'.host a).trans (h.host a), fun k m a => (h'.shared k m a).trans (h.shared k m a)⟩

theorem OneCore.refl (s : State) (k : CoreId) : OneCore s s k := ⟨SameBytes.refl s, fun _ _ => rfl⟩

theorem OneCore.trans {s t u : State} {k : CoreId} (h : OneCore s t k) (h' : OneCore t u k) : OneCore s u k :=
  ⟨h.toSameBytes.trans h'.toSameBytes, fun k' hk => (h'.others k' hk).trans (h.others k' hk)⟩

/-- A change of one core that keeps its teams' shared memories. -/
theorem oneCore_setCore (s : State) (k : CoreId) (c : Core)
    (h : ∀ m, (seatAt c m).map (·.shared) = (seatAt (coreAt s k) m).map (·.shared)) : OneCore s (setCore s k c) k := by
  refine ⟨⟨fun _ => rfl, fun _ => rfl, ?_⟩, fun k' hk => coreAt_setCore_ne _ _ hk⟩
  intro k' m a
  by_cases hk : k' = k
  · subst hk
    unfold sharedMem
    rw [coreAt_setCore]
    have := h m
    cases h1 : seatAt c m <;> cases h2 : seatAt (coreAt s k') m <;> simp_all
  · unfold sharedMem
    rw [coreAt_setCore_ne _ _ hk]

theorem oneCore_modCore (s : State) (k : CoreId) (g : Core → Core)
    (h : ∀ m, (seatAt (g (coreAt s k)) m).map (·.shared) = (seatAt (coreAt s k) m).map (·.shared)) : OneCore s (modCore s k g) k :=
  oneCore_setCore s k _ h

/-! ## Seats and tiles -/

theorem find_map_team (l : List Seat) (t : Nat) (g : Seat → Seat) (hg : ∀ x, (g x).team = x.team) (m : Nat) :
    (l.map fun x => if x.team == t then g x else x).find? (fun x => x.team == m) =
      (l.find? fun x => x.team == m).map fun x => if x.team == t then g x else x := by
  induction l with
  | nil => rfl
  | cons a l ih =>
    have ht : ((if a.team == t then g a else a).team == m) = (a.team == m) := by
      by_cases h : (a.team == t) = true
      · rw [if_pos h, hg]
      · rw [if_neg h]
    rw [List.map_cons, List.find?_cons, List.find?_cons, ht]
    cases h : (a.team == m) with
    | true => rfl
    | false => exact ih

/-- A team's seat after a change of one. -/
theorem seatAt_modSeat (c : Core) (t : Nat) (g : Seat → Seat) (hg : ∀ x, (g x).team = x.team) (m : Nat) :
    seatAt (modSeat c t g) m = (seatAt c m).map fun x => if x.team == t then g x else x := by
  rw [seatAt, modSeat, ← List.map_append]
  exact find_map_team (c.seats ++ c.ended) t g hg m

theorem shared_modTile (c : Core) (team t : Nat) (g : Tile → Tile) (m : Nat) :
    (seatAt (modTile c team t g) m).map (·.shared) = (seatAt c m).map (·.shared) := by
  rw [modTile, seatAt_modSeat c team (fun x => { x with tiles := x.tiles.modify t g }) fun _ => rfl]
  cases seatAt c m with
  | none => rfl
  | some x => simp only [Option.map_some]; split <;> rfl

theorem oneCore_modTile (s : State) (k : CoreId) (team t : Nat) (g : Tile → Tile) :
    OneCore s (modCore s k fun c => modTile c team t g) k := oneCore_modCore s k _ fun m => shared_modTile _ team t g m

theorem oneCore_onStrand (s : State) (k : CoreId) (n : StrandId) (g : Strand → Strand) : OneCore s (onStrand s k n g) k :=
  oneCore_modCore s k _ fun m => by simp

theorem oneCore_onFrag (s : State) (k : CoreId) (f : FragId) (g : Frag → Frag) : OneCore s (onFrag s k f g) k :=
  oneCore_modCore s k _ fun m => by simp

theorem oneCore_onWarp (s : State) (k : CoreId) (w : WarpIx) (g : Warp → Warp) : OneCore s (onWarp s k w g) k :=
  oneCore_modCore s k _ fun m => by simp

/-- A fold whose every step keeps the other cores and all memories. -/
theorem oneCore_foldl {α : Type} {k : CoreId} {g : State → α → State} (h : ∀ s a, OneCore s (g s a) k) (l : List α) (s : State) :
    OneCore s (l.foldl g s) k := by
  induction l generalizing s with
  | nil => exact OneCore.refl s k
  | cons a l ih => exact (h s a).trans (ih (g s a))

/-! ## The issue of a unit -/

theorem consume_good {s : State} {e : StrandEnv} {srcs : List Nat}
    (h : ∀ t ∈ srcs, (viewTile e t).suspect = false ∧ (viewTile e t).poison = false) (body : Out) : consume s e srcs body = body := by
  have hf : (srcs.find? fun t => (viewTile e t).suspect || (viewTile e t).poison) = none := by
    rw [List.find?_eq_none]
    intro t ht
    simp [h t ht]
  rw [consume, hf]

/-- The undo log has room for the tiles that an op writes. -/
theorem logTiles_room {s : State} {e : StrandEnv} {cur : Strand} {outs : List Nat} (hs : strandAt (coreAt s e.k) e.n = some cur)
    (hr : e.st.segOpen = true → cur.undo.length + (outs.filter fun t => !cur.undo.any fun u => u.1 == t).eraseDups.length ≤ 16) :
    ∃ s' cur', logTiles s e outs = some s' ∧ OneCore s s' e.k ∧ (coreAt s' e.k).unitFree = (coreAt s e.k).unitFree ∧
      strandAt (coreAt s' e.k) e.n = some cur' ∧ cur'.pend = cur.pend ∧ cur'.busy = cur.busy ∧ cur'.s = cur.s ∧ cur'.p = cur.p ∧
      cur'.fx = cur.fx := by
  unfold logTiles
  cases ho : e.st.segOpen with
  | false => exact ⟨s, cur, by simp, OneCore.refl s e.k, rfl, hs, rfl, rfl, rfl, rfl, rfl⟩
  | true =>
    have hlen := hr ho
    let new := (outs.filter fun t => !cur.undo.any fun u => u.1 == t).eraseDups
    refine ⟨onStrand s e.k e.n fun x => { x with undo := x.undo ++ new.map fun t => (t, viewTile e t) },
      { cur with undo := cur.undo ++ new.map fun t => (t, viewTile e t) }, ?_, oneCore_onStrand s e.k e.n _, ?_, ?_, rfl, rfl, rfl, rfl, rfl⟩
    · simp only [Bool.not_true, Bool.false_eq_true, if_false, hs]
      rw [if_neg (by omega)]
    · simp [onStrand, modCore]
    · rw [onStrand_some hs]; simp

theorem pendAdds_done {s : State} {e : StrandEnv} (lat : Nat) (outs : List (Nat × PendDst)) {cur : Strand}
    (hs : strandAt (coreAt s e.k) e.n = some cur) :
    OneCore s (outs.foldl (fun s o => pendAdd s e lat o.2) s) e.k ∧
      (coreAt (outs.foldl (fun s o => pendAdd s e lat o.2) s) e.k).unitFree = (coreAt s e.k).unitFree ∧
      strandAt (coreAt (outs.foldl (fun s o => pendAdd s e lat o.2) s) e.k) e.n =
        some { cur with pend := (outs.map (·.2)).foldl (fun ps d => pendInsert (slotPend e lat d) ps) cur.pend } := by
  induction outs generalizing s cur with
  | nil => exact ⟨OneCore.refl s e.k, rfl, hs⟩
  | cons o outs ih =>
    rw [List.foldl_cons, pendAdd_done hs]
    have h1 := ih (s := strandDone s e.k e.n (addPend cur e lat o.2)) (cur := addPend cur e lat o.2) (strandAt_strandDone ..)
    refine ⟨OneCore.trans ?_ h1.1, h1.2.1.trans ?_, h1.2.2⟩
    · rw [← onStrand_done hs fun _ => addPend cur e lat o.2]
      exact oneCore_onStrand s e.k e.n _
    · simp [strandDone]

/-- A unit issues: its results are due after its latency, and it is busy for its beats. -/
theorem unitIssue_done {s : State} {e : StrandEnv} {cur : Strand} (busy lat : Nat) (outs : List (Nat × PendDst)) (whole : List Nat)
    (hs : strandAt (coreAt s e.k) e.n = some cur)
    (hr : e.st.segOpen = true → cur.undo.length + ((outs.map (·.1)).filter fun t => !cur.undo.any fun u => u.1 == t).eraseDups.length ≤ 16) :
    ∃ t, unitIssue s e busy lat outs whole = .next t ∧ UnitDone s t e cur busy lat (outs.map (·.2)) := by
  obtain ⟨s1, c1, hl, ho1, hu1, hs1, h1, h2, h3, h4, h5⟩ := logTiles_room hs hr
  unfold unitIssue
  rw [hl]
  dsimp only
  have hw : ∀ (l : List Nat) (v : State), strandAt (coreAt v e.k) e.n = some c1 →
      OneCore v (l.foldl (fun s t => unmark s e t) v) e.k ∧
        (coreAt (l.foldl (fun s t => unmark s e t) v) e.k).unitFree = (coreAt v e.k).unitFree ∧
        strandAt (coreAt (l.foldl (fun s t => unmark s e t) v) e.k) e.n = some c1 := by
    intro l
    induction l with
    | nil => intro v hv; exact ⟨OneCore.refl v e.k, rfl, hv⟩
    | cons a l ih =>
      intro v hv
      have h := ih (unmark v e a) (by simpa [unmark, modCore] using hv)
      refine ⟨(oneCore_modTile v e.k e.st.team a _).trans h.1, h.2.1.trans ?_, h.2.2⟩
      simp [unmark, modCore, modTile, modSeat]
  obtain ⟨ho2, hu2, hs2⟩ := hw whole s1 hs1
  generalize whole.foldl (fun s t => unmark s e t) s1 = s2 at *
  have hs3 : strandAt (coreAt (onStrand s2 e.k e.n fun x => { x with busy := x.busy.set (slotUnit e.slot) (e.st.clock + busy) }) e.k) e.n =
      some { c1 with busy := c1.busy.set (slotUnit e.slot) (e.st.clock + busy) } := by rw [onStrand_some hs2]; simp
  have ho3 := oneCore_onStrand s2 e.k e.n fun x => { x with busy := x.busy.set (slotUnit e.slot) (e.st.clock + busy) }
  have hu3 : (coreAt (onStrand s2 e.k e.n fun x => { x with busy := x.busy.set (slotUnit e.slot) (e.st.clock + busy) }) e.k).unitFree =
      (coreAt s2 e.k).unitFree := by simp [onStrand, modCore]
  generalize (onStrand s2 e.k e.n fun x => { x with busy := x.busy.set (slotUnit e.slot) (e.st.clock + busy) }) = s3 at *
  have hs4 : strandAt (coreAt (modCore s3 e.k fun c => { c with unitFree := c.unitFree.set (slotUnit e.slot) (e.c.cycle + busy) }) e.k) e.n =
      some { c1 with busy := c1.busy.set (slotUnit e.slot) (e.st.clock + busy) } := by simpa [modCore, strandAt] using hs3
  have ho4 := oneCore_modCore s3 e.k (fun c => { c with unitFree := c.unitFree.set (slotUnit e.slot) (e.c.cycle + busy) }) fun _ => rfl
  have hu4 : (coreAt (modCore s3 e.k fun c => { c with unitFree := c.unitFree.set (slotUnit e.slot) (e.c.cycle + busy) }) e.k).unitFree =
      (coreAt s3 e.k).unitFree.set (slotUnit e.slot) (e.c.cycle + busy) := by simp [modCore]
  generalize (modCore s3 e.k fun c => { c with unitFree := c.unitFree.set (slotUnit e.slot) (e.c.cycle + busy) }) = s4 at *
  obtain ⟨ho5, hu5, hs5⟩ := pendAdds_done lat outs hs4
  refine ⟨_, rfl, ⟨ho1.trans (ho2.trans (ho3.trans (ho4.trans ho5))), ?_, _, hs5, ?_, ?_, h3, h4, h5⟩⟩
  · rw [hu5, hu4, hu3, hu2, hu1]
  · simp [h1]
  · simp [h2]

end Sys2Proof.Machine
end

