-- ==== Sys2Proof/Laws/Values.lean ====
section
/-! SUPPORT. What the integer value functions come to, in the spec's own terms. -/

namespace Sys2Proof.Machine

theorem sMin_eq {w : Nat} (a b : BitVec w) : sMin a b = if a.toInt ≤ b.toInt then a else b := by
  unfold sMin; simp only [BitVec.slt, decide_eq_true_eq]; split <;> split <;> first | rfl | omega

theorem sMax_eq {w : Nat} (a b : BitVec w) : sMax a b = if b.toInt ≤ a.toInt then a else b := by
  unfold sMax; simp only [BitVec.slt, decide_eq_true_eq]; split <;> split <;> first | rfl | omega

theorem uMin_eq {w : Nat} (a b : BitVec w) : uMin a b = if a.toNat ≤ b.toNat then a else b := by
  unfold uMin; simp only [BitVec.ult, decide_eq_true_eq]; split <;> split <;> first | rfl | omega

theorem uMax_eq {w : Nat} (a b : BitVec w) : uMax a b = if b.toNat ≤ a.toNat then a else b := by
  unfold uMax; simp only [BitVec.ult, decide_eq_true_eq]; split <;> split <;> first | rfl | omega

theorem absVal_eq {w : Nat} (a : BitVec w) : absVal a = if 0 ≤ a.toInt then a else 0#w - a := by
  unfold absVal
  rw [BitVec.msb_eq_toInt]
  by_cases h : a.toInt < 0
  · have h' : ¬ (0 ≤ a.toInt) := by omega
    simp [h, h']
  · simp [h, Int.not_lt.1 h]

/-- SAR by a count below w is a division by 2^n that rounds down; from w on, w copies of the sign (R82). -/
theorem shiftA_eq {w : Nat} (a : BitVec w) (n : Nat) : shiftA a n =
    if n < w then BitVec.ofInt w (a.toInt / 2 ^ n) else if a.msb then BitVec.allOnes w else 0#w := by
  unfold shiftA
  by_cases h : n < w
  · simp only [h, if_true]
    apply BitVec.eq_of_toInt_eq
    rw [BitVec.toInt_ofInt]
    have h1 := BitVec.toInt_sshiftRight (x := a) (n := n)
    rw [Int.shiftRight_eq_div_pow] at h1
    have h2 : a.toInt / 2 ^ n = (a.sshiftRight n).toInt := by rw [h1]; norm_cast
    rw [h2, BitVec.toInt_bmod_cancel]
  · simp only [h, if_false]
    apply BitVec.eq_of_getLsbD_eq
    intro i hi
    rw [BitVec.getLsbD_sshiftRight]
    by_cases hm : a.msb <;> simp [hm, hi]

theorem popCount_eq {w : Nat} (a : BitVec w) : popCount a = BitVec.ofNat w ((List.range w).filter a.getLsbD).length := by
  rw [popCount, List.countP_eq_length_filter]

/-- The leading zeros counted down to the highest 1 bit. -/
theorem takeZeros {w : Nat} {a : BitVec w} (ha : a ≠ 0) (k : Nat) :
    ((List.range (Nat.log2 a.toNat + 1 + k)).reverse.takeWhile fun i => !a.getLsbD i).length = k := by
  have hn : a.toNat ≠ 0 := fun h => ha (BitVec.eq_of_toNat_eq h)
  induction k with
  | zero =>
    have hb : a.getLsbD (Nat.log2 a.toNat) = true := by
      rw [BitVec.getLsbD, Nat.testBit_log2 hn]
    simp [List.range_succ, hb]
  | succ k ih =>
    have hb : a.getLsbD (Nat.log2 a.toNat + 1 + k) = false := by
      rw [BitVec.getLsbD]
      apply Nat.testBit_lt_two_pow
      exact Nat.lt_of_lt_of_le Nat.lt_log2_self (Nat.pow_le_pow_right (by omega) (by omega))
    rw [← Nat.add_assoc, List.range_succ, List.reverse_append]
    simp only [List.reverse_singleton, List.singleton_append]
    rw [List.takeWhile_cons_of_pos (by simp [hb])]
    simp [ih]

theorem leadZeros_eq {w : Nat} (a : BitVec w) :
    leadZeros a = BitVec.ofNat w ((List.range w).reverse.takeWhile fun i => !a.getLsbD i).length := by
  rw [leadZeros]
  by_cases h : a = 0
  · subst h
    have ht : ∀ l : List Nat, l.takeWhile (fun i => !(0 : BitVec w).getLsbD i) = l := by
      intro l
      induction l with
      | nil => rfl
      | cons x l ih => rw [List.takeWhile_cons_of_pos (by simp), ih]
    rw [ht]
    simp
  · rw [if_neg h]
    have hn : a.toNat ≠ 0 := fun e => h (BitVec.eq_of_toNat_eq e)
    have hl : Nat.log2 a.toNat < w := (Nat.log2_lt hn).2 a.isLt
    obtain ⟨k, hk⟩ : ∃ k, w = Nat.log2 a.toNat + 1 + k := ⟨w - (Nat.log2 a.toNat + 1), by omega⟩
    have ht := takeZeros h k
    rw [← hk] at ht
    rw [ht]
    congr 1
    omega

/-- The bits gathered by a fold, from the last one on. -/
theorem testBit_gather {w : Nat} (a : BitVec w) (n j : Nat) :
    ((List.range n).foldl (fun m i => 2 * m + (a.getLsbD i).toNat) 0).testBit j = (decide (j < n) && a.getLsbD (n - 1 - j)) := by
  induction n generalizing j with
  | zero => simp
  | succ n ih =>
    rw [List.range_succ, List.foldl_append, List.foldl_cons, List.foldl_nil]
    cases j with
    | zero =>
      cases h : a.getLsbD n <;> simp [h, Nat.testBit_zero]
    | succ j =>
      have h2 : ∀ (m : Nat) (b : Bool), (2 * m + b.toNat).testBit (j + 1) = m.testBit j := by
        intro m b
        rw [Nat.testBit_succ]
        congr 1
        cases b <;> simp <;> omega
      rw [h2, ih]
      have : n + 1 - 1 - (j + 1) = n - 1 - j := by omega
      rw [this]
      simp

theorem bitReverse_eq {w : Nat} (a : BitVec w) : bitReverse a = a.reverse := by
  apply BitVec.eq_of_getLsbD_eq
  intro i hi
  rw [bitReverse, BitVec.getLsbD_ofNat, testBit_gather, BitVec.getLsbD_reverse, BitVec.getMsbD]
  simp [hi]

theorem fieldInsert_eq {w : Nat} (a b d : BitVec w) : fieldInsert a b d =
    ((d &&& ~~~(BitVec.ofNat w ((2 ^ min (b.toNat / 256 % 256) w - 1) * 2 ^ (b.toNat % 256)))) |||
      (a <<< (b.toNat % 256) &&& BitVec.ofNat w ((2 ^ min (b.toNat / 256 % 256) w - 1) * 2 ^ (b.toNat % 256)))) := by
  have h : BitVec.ofNat w (a.toNat * 2 ^ (b.toNat % 256)) = a <<< (b.toNat % 256) := by
    apply BitVec.eq_of_toNat_eq
    simp [BitVec.toNat_shiftLeft, Nat.shiftLeft_eq]
  simp only [fieldInsert, bitField, h]

theorem fieldExtract_eq {w : Nat} (a b : BitVec w) : fieldExtract a b =
    if min (b.toNat / 256 % 256) w = 0 ∨ w ≤ b.toNat % 256 then 0#w
    else if b.getLsbD 16 ∧ 2 ^ (min (b.toNat / 256 % 256) w - 1) ≤ a.toNat / 2 ^ (b.toNat % 256) % 2 ^ min (b.toNat / 256 % 256) w
      then BitVec.ofInt w (((a.toNat / 2 ^ (b.toNat % 256) % 2 ^ min (b.toNat / 256 % 256) w : Nat) : Int) - 2 ^ min (b.toNat / 256 % 256) w)
      else BitVec.ofNat w (a.toNat / 2 ^ (b.toNat % 256) % 2 ^ min (b.toNat / 256 % 256) w) := by
  have hs : (b.toNat / 65536 % 2 == 1) = b.getLsbD 16 := by
    rw [BitVec.getLsbD, Nat.testBit_eq_decide_div_mod_eq]
    rfl
  simp only [fieldExtract, bitField, hs]
  generalize min (b.toNat / 256 % 256) w = len
  generalize b.toNat % 256 = pos
  by_cases h0 : len = 0 ∨ w ≤ pos
  · simp [h0]
  · simp only [h0, ge_iff_le, if_false]
    have hl : 0 < len := by omega
    have hf := Nat.mod_lt (a.toNat / 2 ^ pos) (Nat.two_pow_pos len)
    generalize a.toNat / 2 ^ pos % 2 ^ len = f at *
    have hp : 2 ^ len = 2 * 2 ^ (len - 1) := by
      obtain ⟨k, rfl⟩ : ∃ k, len = k + 1 := ⟨len - 1, by omega⟩
      rw [Nat.pow_succ, Nat.add_sub_cancel, Nat.mul_comm]
    have hq : f / 2 ^ (len - 1) % 2 = 1 ↔ 2 ^ (len - 1) ≤ f := by
      have hlt : f / 2 ^ (len - 1) < 2 := Nat.div_lt_of_lt_mul (by rw [Nat.mul_comm]; omega)
      constructor
      · intro h
        apply Classical.byContradiction
        intro hn
        rw [Nat.div_eq_of_lt (by omega)] at h
        omega
      · intro h
        have : 1 ≤ f / 2 ^ (len - 1) := (Nat.le_div_iff_mul_le (Nat.two_pow_pos _)).2 (by omega)
        omega
    by_cases hb : b.getLsbD 16 = true
    · by_cases hc : 2 ^ (len - 1) ≤ f
      · simp [hb, hc, hq.2 hc]
      · have : ¬ (f / 2 ^ (len - 1) % 2 = 1) := fun h => hc (hq.1 h)
        simp [hb, hc, this]
    · simp [hb]

/-- The exact product of two signed 32-bit values (R86). -/
theorem mulWide_eq (a b : BitVec 32) : a.signExtend 64 * b.signExtend 64 = BitVec.ofInt 64 (a.toInt * b.toInt) := by
  rw [← BitVec.ofInt_toInt (x := a.signExtend 64), ← BitVec.ofInt_toInt (x := b.signExtend 64), ← BitVec.ofInt_mul,
    BitVec.toInt_signExtend_of_le (by omega), BitVec.toInt_signExtend_of_le (by omega)]

end Sys2Proof.Machine
end

