-- ==== Sys2Proof/Tests/Slice0.lean ====
section
/-! SUPPORT. Tests: words of the spec's encodings, terms that the form check refuses, and for every statement with hypotheses a state and
operands that meet them. -/

namespace Sys2Proof.Tests

open Sys2Proof Sys2Proof.Machine Sys2Proof.Claims

set_option Elab.async false

/-! ## A small state -/

/-- The guard that is always true. -/
abbrev on : Guard := ⟨false, 0⟩

/-- The value in a register of the warp's lanes, and in the pairs 16 (device memory), 20, 22 and 24 (shared memory). -/
def laneV : Vector W32 48 :=
  (((((((Vector.replicate 48 0).set 16 0x400000).set 18 2).set 19 3).set 20 0x100).set 21 0x80000000).set 22 0x200).set 23 0x80000000
    |>.set 24 0x140 |>.set 25 0x80000000 |>.set 27 0x82000000 |>.set 28 0x240 |>.set 29 0x80000000 |>.set 30 0x580 |>.set 31 0x80000000
    |>.set 32 0x400080 |>.set 34 0x400100 |>.set 36 0x400200 |>.set 38 0x600000

/-- A warp in slot 0 of core 0 whose window selects tile 0. -/
@[irreducible] def wp : Warp :=
  { warpStart 1 probeRecord 0 with sel := some 0, tbase := 0x1000, lanes := Vector.replicate 32 { LaneRegs.reset with v := laneV } }

/-- Its one fragment. -/
@[irreducible] def fr : Frag := fragStart 0 probeRecord 0

/-- A strand of the same team. -/
@[irreducible] def sd : Strand :=
  { strandStart 1 probeRecord with
    s := ((((Vector.replicate 64 0).set 16 0x400000).set 20 0x8000000000000100).set 22 0x8000000000000200).set 24 0x8000000000000140
      |>.set 26 0x8200000000000000 |>.set 28 0x8000000000000240 |>.set 30 0x8000000000000580 |>.set 32 0x400080 |>.set 34 0x400100
      |>.set 36 0x400200 }

/-- Tiles 0 and 1 are the warp's, tile 2 is offered to it, tile 3 is free, tiles 4 to 29 are the strand's, tile 30 is offered to it, and
tile 31 is free. Shared memory has a ring at 0x200, of whose slots 2 and 3 one is committed, a full one of one slot at 0x240, and 5 at
0x140. -/
def seat : Seat :=
  { team := 1,
    tiles := List.replicate 2 { owner := ownHeld (holderWarp 0) } ++ [{ owner := ownOffered (holderWarp 0) }, { owner := ownFree }] ++
      List.replicate 26 { owner := ownHeld (holderStrand 0) } ++ [{ owner := ownOffered (holderStrand 0) }, { owner := ownFree }],
    shared := memPut (memPut (memPut [] 0x140 [5]) 0x200 (bytesLE 8 0x8000000000000400 ++ bytesLE 8 0x0301 ++ bytesLE 8 0x100020004 ++ bytesLE 8 0 ++ [4]))
      0x240 (bytesLE 8 0x8000000000000400 ++ bytesLE 8 0x0001 ++ bytesLE 8 1),
    slots := [0], strand := some 0 }

/-- 2 MiB of die 1. -/
def farEntry : TlbEntry := { ctx := 0, base := 0x600000, size := 0x200000, pte := 0x28F#64 }

/-- Core 0, with translations for the 4 MiB from 0x400000 on. -/
@[irreducible] def core : Core :=
  setStrand (setFrag (setWarp { Core.reset with cycle := 5, seats := [seat], tlb := [probeEntry, farEntry], front := some 0 } 0 (some wp)) 0 (some fr))
    0 (some sd)

def team : Team := { id := 1, grid := 2, ctx := 0, cores := [0], bars := Vector.replicate 16 {} }

/-- A grid with three coordinate sets in its tile queue. -/
def grid : Grid := { id := 2, number := 0, depth := 0, ctx := 0, raw := probeRecord ||| (3#1024 <<< 0x1C0), cls := 0, die := 0, key := 64, next := 1 }

def ctx : Ctx :=
  { record := 0, root := 0, pager := 0, errq := 0, ovbase := 0, ovlog := 4, ovhead := 0, ovtail := 0, buckets := Vector.replicate 3 0,
    levels := Vector.replicate 4 (Vector.replicate 3 0), savebase := 0, savecnt := 4, grants := Vector.replicate 4 (0, 2 ^ 36), dbg := Debug.reset }

/-- Every die is READY, and one team runs on core 0. -/
@[irreducible] def base : State :=
  { State.reset with dies := Vector.replicate 4 { Die.reset with state := .ready, pair := true, cross := true },
                     cores := State.reset.cores.set 0 core, ctxs := State.reset.ctxs.set 0 (some ctx), teams := [team], grids := [grid],
                     nextId := 3, tick := 9, dev := memPut (memPut [] 0x80 (bytesLE 128 probeRecord.toNat)) 0x100 (bytesLE 8 2 ++ bytesLE 8 0x3F800000) }

/-- The warp issues. -/
def onW : State := { base with issuer := .frag 0 0 }

/-- A slot of the strand issues. -/
def onS (m : Slot) : State := { base with issuer := .strand 0 0 m, start := some core }

theorem coreAt_onW : coreAt onW 0 = core := by decide +kernel
theorem coreAt_onS (m : Slot) : coreAt (onS m) 0 = core := by revert m; decide +kernel

/-- Every op that a warp takes can issue there. -/
theorem warp_takes {i : Instr} (h : i.wf .warp = true) : LaneTakes onW i on 0 0 fr wp where
  issuer := rfl
  frag := by decide +kernel
  warp := by decide +kernel
  accepted := h
  takesPart := by decide +kernel

theorem strand_here : strandAt core 0 = some sd := by decide +kernel

theorem slot_issues (m : Slot) : SlotIssues (onS m) 0 0 m sd sd where
  issuer := rfl
  start := strand_here
  here := by rw [coreAt_onS]; exact strand_here

theorem sd_clean : sd.poison = 0#64 := by decide +kernel

theorem guard_on (m : Slot) : (match sd.replay[m] with | some q => q.g | none => viewGuard sd on) = true := by revert m; decide +kernel

/-- Every op that a slot takes can issue there. -/
theorem slot_takes {i : Instr} (m : Slot) (h : i.wf (.slot m) = true) : SlotTakes (onS m) i on 0 0 m sd sd where
  toSlotIssues := slot_issues m
  accepted := h
  guard := Or.inr (guard_on m)
  clean := fun r _ => by rw [sd_clean]; exact BitVec.getLsbD_zero

/-- Nothing about an op's registers stops it where the window is held and nothing is poisoned. -/
theorem clean_of {e : WarpEnv} {srcs dsts : List Reg}
    (h : windowHeld e = true ∧ ∀ (l : Lane) (n : Fin 64), poisoned e l (BitVec.ofFin n) = false) : LaneClean e srcs dsts :=
  ⟨fun _ => h.1, fun l _ r _ => h.2 l r.toFin⟩

theorem once_clean_of {e : WarpEnv} {srcs dsts : List Reg}
    (h : windowHeld e = true ∧ ∀ (l : Lane) (n : Fin 64), poisoned e l (BitVec.ofFin n) = false) : OnceClean e srcs dsts :=
  ⟨fun _ => h.1, fun r _ => h.2 _ r.toFin⟩

theorem not_poisoned : windowHeld (laneEnv onW (.nop on) on 0 0 fr wp) = true ∧
    ∀ (l : Lane) (n : Fin 64), poisoned (laneEnv onW (.nop on) on 0 0 fr wp) l (BitVec.ofFin n) = false := by decide +kernel

/-- Nothing about an op's registers stops it there. -/
theorem warp_clean (i : Instr) (srcs dsts : List Reg) : LaneClean (laneEnv onW i on 0 0 fr wp) srcs dsts := clean_of not_poisoned

theorem once_clean_there (i : Instr) (srcs dsts : List Reg) : OnceClean (laneEnv onW i on 0 0 fr wp) srcs dsts := once_clean_of not_poisoned

/-! ## States and operands that meet the statements' hypotheses -/

/-- A per-lane op of a table meets the hypotheses of its statement. -/
def LaneMeets (row : Instr → Option LaneRow) (i : Instr) : Prop :=
  ∃ r, row i = some r ∧ LaneTakes onW i r.g 0 0 fr wp ∧ LaneClean (laneEnv onW i r.g 0 0 fr wp) r.srcs r.dsts

/-- A slot op of a table does. -/
def SlotMeets (row : Instr → Option SlotRow) (i : Instr) (m : Slot) : Prop := ∃ r, row i = some r ∧ SlotTakes (onS m) i r.g 0 0 m sd sd

theorem meets_IntegerOpsComplete : LaneMeets (fun i => (aluRow i).map AluRow.lane) (.shl on 48 2 49) ∧
    SlotMeets (fun i => (aluRow i).map AluRow.slot) (.bfi on 3 1 2) 1 :=
  ⟨⟨_, rfl, warp_takes rfl, warp_clean ..⟩, ⟨_, rfl, slot_takes 1 rfl⟩⟩

theorem meets_WideOpsComplete : LaneMeets wideLane (.mulw on 8 2 49) ∧ SlotMeets wideSlot (.limm on 3 0xFFFF 1) 0 :=
  ⟨⟨_, rfl, warp_takes rfl, warp_clean ..⟩, ⟨_, rfl, slot_takes 0 rfl⟩⟩

theorem meets_PredicateOpsComplete : LaneMeets predRow (.voteBal on 48 0) ∧ SlotMeets predSlot (.cmp64 on 0 .gen 1 2) 1 :=
  ⟨⟨_, rfl, warp_takes rfl, warp_clean ..⟩, ⟨_, rfl, slot_takes 1 rfl⟩⟩

theorem meets_LaneShufflesComplete : LaneMeets shflRow (.shflUp on 3 48 2) := ⟨_, rfl, warp_takes rfl, warp_clean ..⟩

theorem meets_LaneFloatOpsComplete : LaneMeets floatRow (.ffma on 3 1 2 .rd) := ⟨_, rfl, warp_takes rfl, warp_clean ..⟩

theorem meets_SpecialRegisterReads : (LaneTakes onW (.srd on 48 0x809) on 0 0 fr wp ∧
    LaneClean (laneEnv onW (.srd on 48 0x809) on 0 0 fr wp) [] [48]) ∧ SlotTakes (onS 0) (.srd on 63 0x02A) on 0 0 0 sd sd :=
  ⟨⟨warp_takes rfl, warp_clean ..⟩, slot_takes 0 rfl⟩

theorem meets_SpecialRegisterWrites : (LaneTakes onW (.swr on 2 0x827) on 0 0 fr wp ∧
    OnceClean (laneEnv onW (.swr on 2 0x827) on 0 0 fr wp) [2] []) ∧ SlotTakes (onS 1) (.swr on 2 0x010) on 0 0 1 sd sd ∧
    SlotTakes (onS 0) (.swr on 2 0x011) on 0 0 0 sd sd ∧ SlotTakes (onS 0) (.swr on 2 0x009) on 0 0 0 sd sd ∧
    SlotTakes (onS 2) (.mxc on 63) on 0 0 2 sd sd :=
  ⟨⟨warp_takes rfl, once_clean_there ..⟩, slot_takes 1 rfl, slot_takes 0 rfl, slot_takes 0 rfl, slot_takes 2 rfl⟩

/-- Tile 3 belongs to the warp and tile 4 to the strand; V2 of every lane is 0, and B names the strand, holder 0x40. -/
theorem meets_TileOwnershipReads : (LaneTakes onW (.town on 5 2) on 0 0 fr wp ∧ OnceClean (laneEnv onW (.town on 5 2) on 0 0 fr wp) [2] [5]) ∧
    SlotTakes (onS 4) (.town on 5 63) on 0 0 4 sd sd ∧ LaneTakes onW (.tsel on 2) on 0 0 fr wp ∧
    OnceClean (laneEnv onW (.tsel on 2) on 0 0 fr wp) [2] [] ∧ wp.away = none ∧ (tileAt (coreAt onW 0) wp.team 0).isSome = true :=
  ⟨⟨warp_takes rfl, once_clean_there ..⟩, slot_takes 4 rfl, warp_takes rfl, once_clean_there .., by decide +kernel, by decide +kernel⟩

/-- A warp's op meets the hypotheses of an op that acts once. -/
abbrev OnceMeets (i : Instr) (srcs dsts : List Reg) : Prop :=
  LaneTakes onW i on 0 0 fr wp ∧ OnceClean (laneEnv onW i on 0 0 fr wp) srcs dsts

theorem once_meets {i : Instr} (srcs dsts : List Reg) (h : i.wf .warp = true) : OnceMeets i srcs dsts :=
  ⟨warp_takes h, once_clean_there ..⟩

/-- A slot's op meets the hypotheses of an op of the strand. -/
abbrev Takes (i : Instr) (m : Slot) : Prop := SlotTakes (onS m) i on 0 0 m sd sd

theorem meets_GiveOffersTile : (OnceMeets (.give on 17 17) [17, 17] [] ∧ wp.away = none ∧
      ∃ n r y, n = (readReg (laneEnv onW (.give on 17 17) on 0 0 fr wp) (leadLane (partsOf wp fr.mask on)) 17).toNat ∧
        r = (readReg (laneEnv onW (.give on 17 17) on 0 0 fr wp) (leadLane (partsOf wp fr.mask on)) 17).extractLsb' 0 7 ∧
        tileAt (coreAt onW 0) wp.team n = some y ∧ y.owner = ownHeld (holderWarp fr.warp) ∧ liveHolder (coreAt onW 0) wp.team r = true ∧
        waitDone onW (.frag 0 0) .core (owned onW (.frag 0 0)) = true) ∧
    (Takes (.give on 4 5) 4 ∧ ∃ n r y, n = (viewTwb sd).toNat + (4 : Reg).toNat ∧
      r = (opB (slotEnv (onS 4) (.give on 4 5) 0 0 4 sd) 5).extractLsb' 0 7 ∧ tileAt (startCore (onS 4) 0) sd.team n = some y ∧
      tileAt (coreAt (onS 4) 0) sd.team n = some y ∧ y.owner = ownHeld (holderStrand 0) ∧ liveHolder (startCore (onS 4) 0) sd.team r = true ∧
      waitDone (onS 4) (.strand 0 0) .core (ownedBefore (onS 4) (slotEnv (onS 4) (.give on 4 5) 0 0 4 sd)) = true) :=
  ⟨⟨once_meets _ _ rfl, by decide +kernel, _, _, { owner := ownHeld 0 }, rfl, rfl, by decide +kernel⟩,
   slot_takes 4 rfl, _, _, { owner := ownHeld (holderStrand 0) }, rfl, rfl, by decide +kernel⟩

theorem meets_TakeHoldsTile :
    (∀ p ∈ [((18 : Reg), 2, ownOffered (holderWarp 0)), (19, 3, ownFree)], OnceMeets (.take on p.1) [p.1] [] ∧ wp.away = none ∧
      p.2.1 = (readReg (laneEnv onW (.take on p.1) on 0 0 fr wp) (leadLane (partsOf wp fr.mask on)) p.1).toNat ∧
      tileAt (coreAt onW 0) wp.team p.2.1 = some { owner := p.2.2 } ∧ tileArrived onW 0 wp.team p.2.1 { owner := p.2.2 } = true ∧
      0 < (coreAt onW 0).cycle ∧ giveReleased onW { owner := p.2.2 } = true) ∧
    (∀ p ∈ [((30 : Reg), ownOffered (holderStrand 0)), (31, ownFree)], Takes (.take on p.1) 4 ∧
      p.1.toNat = (viewTwb sd).toNat + p.1.toNat ∧ tileAt (startCore (onS 4) 0) sd.team p.1.toNat = some { owner := p.2 } ∧
      tileAt (coreAt (onS 4) 0) sd.team p.1.toNat = some { owner := p.2 } ∧
      tileArrived (onS 4) 0 sd.team p.1.toNat { owner := p.2 } = true ∧ 0 < (coreAt (onS 4) 0).cycle ∧
      giveReleased (onS 4) { owner := p.2 } = true) ∧
    (OnceMeets (.ttry on 2 18) [18] [] ∧ takeRes onW 0 wp.team 2 (holderWarp fr.warp) { owner := ownOffered (holderWarp 0) } = .done) ∧
    Takes (.ttry on 2 31) 4 ∧ Takes (.ttry on 2 0) 4 ∧ takeRes (onS 4) 0 sd.team 31 (holderStrand 0) { owner := ownFree } = .done ∧
      takeRes (onS 4) 0 sd.team 0 (holderStrand 0) { owner := ownHeld (holderWarp 0) } ≠ .done := by
  refine ⟨?_, ?_, ⟨once_meets _ _ rfl, by decide +kernel⟩, slot_takes 4 rfl, slot_takes 4 rfl, by decide +kernel⟩
  · intro p hp
    simp only [List.mem_cons, List.not_mem_nil, or_false] at hp
    rcases hp with rfl | rfl <;> exact ⟨once_meets _ _ rfl, by decide +kernel⟩
  · intro p hp
    simp only [List.mem_cons, List.not_mem_nil, or_false] at hp
    rcases hp with rfl | rfl <;> exact ⟨slot_takes 4 rfl, by decide +kernel⟩

theorem meets_StrandTransfersComplete : (∃ r, controlSlot (.brx on 2) = some r ∧ Takes (.brx on 2) 0) ∧ Takes (.nop on) 1 ∧
    Takes (.loop on 16 2) 0 ∧ Takes (.loop on 2 1) 0 := ⟨⟨_, rfl, slot_takes 0 rfl⟩, slot_takes 1 rfl, slot_takes 0 rfl, slot_takes 0 rfl⟩

theorem meets_RdvPassesOrWaits : Takes (.rdv on 7) 1 ∧ sd.kill = false := ⟨slot_takes 1 rfl, by decide +kernel⟩

theorem meets_WarpControlCompletes : (∃ r, jumpRow (.callx on 20) = some r ∧ LaneTakes onW (.callx on 20) r.g 0 0 fr wp ∧
      LaneClean (laneEnv onW (.callx on 20) r.g 0 0 fr wp) r.srcs [] ∧
      (nextAddrs (laneEnv onW (.callx on 20) r.g 0 0 fr wp) r.target).length ≤ (freeEntries (coreAt onW 0) fr.warp).length + 1 ∧
      (liveFrags (coreAt onW 0) fr.warp).length + (nextAddrs (laneEnv onW (.callx on 20) r.g 0 0 fr wp) r.target).length ≤ 9) ∧
    LaneTakes onW (.nop on) on 0 0 fr wp ∧ LaneTakes onW (.kpt on) on 0 0 fr wp ∧ LaneTakes onW (.exit on) on 0 0 fr wp ∧ fr.state = .ready :=
  ⟨⟨_, rfl, warp_takes rfl, warp_clean .., by decide +kernel, by decide +kernel⟩, warp_takes rfl, warp_takes rfl, warp_takes rfl,
   by decide +kernel⟩

theorem meets_ConvWaitsForWarp : LaneTakes onW (.conv on) on 0 0 fr wp ∧ wp.kill = false ∧ liveFrags (coreAt onW 0) fr.warp = [0] :=
  ⟨warp_takes rfl, by decide +kernel⟩

theorem meets_BarArrives : (LaneTakes onW (.bar on 8 3) on 0 0 fr wp ∧ wp.kill = false) ∧ Takes (.bar on 8 3) 1 ∧ sd.kill = false :=
  ⟨⟨warp_takes rfl, by decide +kernel⟩, slot_takes 1 rfl, by decide +kernel⟩

theorem meets_TrapOpsTaken : (∃ v, LaneTakes onW (.trap on 18) on 0 0 fr wp ∧ raised onW (.trap on 18) wp.team 8 = some (on, v) ∧ fr.flag = false ∧
      wp.tbase ≠ 0#64) ∧ (∃ v, LaneTakes onW (.brk on 3) on 0 0 fr wp ∧ raised onW (.brk on 3) wp.team 8 = some (on, v)) ∧
    ∃ v, Takes (.rft on) 1 ∧ raised (onS 1) (.rft on) sd.team 1 = some (on, v) :=
  ⟨⟨_, warp_takes rfl, rfl, by decide +kernel⟩, ⟨{ cls := .brk, code := 3, unit := 8 }, warp_takes rfl, by decide +kernel⟩,
   _, slot_takes 1 rfl, rfl⟩

/-- A state with a debugger that has armed BRK. -/
def armed (s : State) : State := { s with ctxs := s.ctxs.set 0 (some { ctx with dbg := { Debug.reset with right := true, armbrk := true } }) }

theorem meets_ArmedBrkHalts : (LaneTakes (armed onW) (.brk on 3) on 0 0 fr wp ∧ brkArmed (armed onW) wp.team = true ∧
      partsOf wp fr.mask on = fr.mask) ∧ SlotTakes (armed (onS 1)) (.brk on 3) on 0 0 1 sd sd ∧ brkArmed (armed (onS 1)) sd.team = true :=
  ⟨⟨{ warp_takes rfl with }, by decide +kernel⟩, { slot_takes (i := .brk on 3) 1 rfl with }, by decide +kernel⟩

/-- The state with another fragment there. -/
def atF (y : Frag) : State := setCore onW 0 (setFrag core 0 (some y))

/-- The fragment in the handler. -/
def flagged : Frag := { fr with flag := true }

theorem meets_ReturnFromTrap : LaneTakes (atF flagged) (.rftNext on) on 0 0 flagged wp ∧ flagged.flag = true :=
  ⟨⟨⟨rfl, by decide +kernel, by decide +kernel⟩, rfl, by decide +kernel⟩, rfl⟩

/-- The accesses of a memory op of the warp, on the counted state, pass. -/
theorem accs_pass {s : State} {q : Issue} {i : Instr} {kind : MemKind} {log : Nat} {irr : Bool} {as : List Acc}
    (h : checkAccs s q i kind log irr as = none ∧ as.flatMap (absentLines s q) = [] ∧
      (locate s q kind as).wait = false ∧ ((locate s q kind as).pager = [] ∧ (locate s q kind as).bad = []) ∧
      memberRunning s q.team = false ∧ overBudget s q.team (devLines (locate s q kind as).ok) = false) : AccsPass s q i kind log irr as :=
  ⟨h.1, fun _ => h.2.1, h.2.2.1, h.2.2.2.1, Or.inr (Or.inl h.2.2.2.2.1), Or.inr h.2.2.2.2.2⟩

/-- A load or store of the warp, on device or shared memory. -/
abbrev WarpMem (row : Instr → Option LoadRow) (i : Instr) (kind : MemKind) (srcs dsts : LoadRow → List Reg) : Prop :=
  ∃ r, row i = some r ∧ LaneTakes onW i r.g 0 0 fr wp ∧ LaneClean (laneEnv onW i r.g 0 0 fr wp) (srcs r) (dsts r) ∧
    AccsPass (countedState onW (laneEnv onW i r.g 0 0 fr wp)) (warpIssue onW (laneEnv onW i r.g 0 0 fr wp)) i kind (logWidth r.w) false
      (accesses (laneEnv onW i r.g 0 0 fr wp) r.a r.off (2 ^ logWidth r.w))

abbrev LoadMeets (i : Instr) : Prop := WarpMem loadRow i .load (fun r => [r.a, r.a + 1]) fun r => valueRegs r.d r.w

/-- The state with another strand there, which issues. -/
def atS (m : Slot) (x : Strand) : State :=
  { setCore onW 0 (setStrand core 0 (some x)) with issuer := .strand 0 0 m, start := some (setStrand core 0 (some x)) }

theorem coreAt_atS (m : Slot) (x : Strand) : coreAt (atS m x) 0 = setStrand core 0 (some x) := coreAt_setCore onW 0 _

/-- Every op that a slot takes can issue in another strand too, if no register of it is poisoned and it replays nothing. -/
theorem takes_atS {i : Instr} {m : Slot} {x : Strand} (h : i.wf (.slot m) = true) (hg : x.replay[m] = none ∧ viewGuard x on = true)
    (hp : x.poison = 0#64) : SlotTakes (atS m x) i on 0 0 m x x where
  issuer := rfl
  start := strandAt_setStrand core 0 (some x)
  here := by rw [coreAt_atS]; exact strandAt_setStrand core 0 (some x)
  accepted := h
  guard := Or.inr (show (match x.replay[m] with | some q => q.g | none => viewGuard x on) = true by rw [hg.1]; exact hg.2)
  clean := fun r _ => by rw [hp]; exact BitVec.getLsbD_zero

/-- A load or store of the strand. -/
abbrev SlotMem (row : Instr → Option LoadRow) (i : Instr) (kind : MemKind) (m : Slot) (x : Strand) : Prop :=
  ∃ r p, row i = some r ∧ SlotTakes (atS m x) i r.g 0 0 m x x ∧
    ∃ as, as = [⟨0, opA (slotEnv (atS m x) i 0 0 m x) r.a + r.off, 2 ^ logWidth r.w⟩] ∧
      AccsPass (atS m x) (strandIssue (atS m x) (slotEnv (atS m x) i 0 0 m x)) i kind (logWidth r.w) false as ∧
      (locate (atS m x) (strandIssue (atS m x) (slotEnv (atS m x) i 0 0 m x)) kind as).ok = [p]

theorem meets_LoadsComplete : LoadMeets (.ld on 8 16 .core .weak .b32 false) ∧ LoadMeets (.ldo on 48 20 .clu .sync .b64 false 8) ∧
    SlotMem loadRow (.ld on 8 16 .core .strong .b128 false) .load 6 sd ∧ SlotMem loadRow (.ldo on 9 20 .core .weak .b8 true 3) .load 6 sd :=
  ⟨⟨_, rfl, warp_takes rfl, warp_clean .., accs_pass (by decide +kernel)⟩, ⟨_, rfl, warp_takes rfl, warp_clean .., accs_pass (by decide +kernel)⟩,
   ⟨_, ⟨0, 0x400000, 16, .dev 0, 512⟩, rfl, takes_atS rfl (by decide +kernel) (by decide +kernel), _, rfl, accs_pass (by decide +kernel), by decide +kernel⟩,
   ⟨_, ⟨0, 0x8000000000000103, 1, .shared 0 1 0x103, 0⟩, rfl, takes_atS rfl (by decide +kernel) (by decide +kernel), _, rfl,
    accs_pass (by decide +kernel), by decide +kernel⟩⟩

/-- A strand with an open segment. -/
def open_ : Strand := { sd with segOpen := true }

/-- One lane of the fragment. -/
def single : Frag := { fr with mask := 1 }

theorem meets_StoresComplete :
    WarpMem storeRow (.st on 8 16 .dev .sync .b32) .store (fun r => [r.a, r.a + 1] ++ valueRegs r.d r.w) (fun _ => []) ∧
    (∃ c, c = countedState onW (laneEnv onW (.st on 8 16 .dev .sync .b32) on 0 0 fr wp) ∧ waitDone c (.frag 0 0) .dev (owned c (.frag 0 0)) = true) ∧
    (LaneTakes (atF single) (.st on 20 26 .core .weak .b64) on 0 0 single wp ∧ ∃ e as, e = laneEnv (atF single) (.st on 20 26 .core .weak .b64) on 0 0 single wp ∧
      as = accesses e 26 0 8 ∧ LaneClean e [26, 27, 20, 21] [] ∧
      AccsPass (countedState (atF single) e) (warpIssue (atF single) e) (.st on 20 26 .core .weak .b64) .store 3 false as ∧
      (∀ a, a ∈ as → a.va = kickAddr → kickCheck (countedState (atF single) e) (warpIssue (atF single) e)
        (BitVec.ofNat 64 (natLE (storeBytes e a.lane 20 .b64))) (1#32 <<< a.lane.val) = none) ∧
      (coreAt (atF single) 0).copyQ.length + (as.filter fun a => a.va == kickAddr).length ≤ Config.copyQueue) ∧
    SlotMem storeRow (.sto on 9 20 .core .weak .b8 3) .store 6 sd ∧ SlotMem storeRow (.st on 9 16 .core .weak .b64) .store 6 open_ ∧
    (queueLines (open_.queue ++ [{ va := 0x400000, loc := .dev 0, data := [], lease := 0, pc := 0, wisn := 0 }])).length ≤ 64 ∧
    SlotMem storeRow (.st on 9 16 .dev .sync .b64) .store 6 sd ∧ SlotMem storeRow (.st on 20 26 .core .weak .b64) .store 6 sd ∧
    kickCheck (atS 6 sd) (strandIssue (atS 6 sd) (slotEnv (atS 6 sd) (.st on 20 26 .core .weak .b64) 0 0 6 sd))
      (opD (slotEnv (atS 6 sd) (.st on 20 26 .core .weak .b64) 0 0 6 sd) 20) 1 = none :=
  ⟨⟨_, rfl, warp_takes rfl, warp_clean .., accs_pass (by decide +kernel)⟩, ⟨_, rfl, by decide +kernel⟩,
   ⟨⟨⟨rfl, by decide +kernel, by decide +kernel⟩, rfl, by decide +kernel⟩, _, _, rfl, rfl, clean_of (by decide +kernel), accs_pass (by decide +kernel), by decide +kernel,
    by decide +kernel⟩,
   ⟨_, ⟨0, 0x8000000000000103, 1, .shared 0 1 0x103, 0⟩, rfl, takes_atS rfl (by decide +kernel) (by decide +kernel), _, rfl,
    accs_pass (by decide +kernel), by decide +kernel⟩,
   ⟨_, ⟨0, 0x400000, 8, .dev 0, 512⟩, rfl, takes_atS rfl (by decide +kernel) (by decide +kernel), _, rfl, accs_pass (by decide +kernel), by decide +kernel⟩,
   by decide +kernel,
   ⟨_, ⟨0, 0x400000, 8, .dev 0, 512⟩, rfl, takes_atS rfl (by decide +kernel) (by decide +kernel), _, rfl, accs_pass (by decide +kernel), by decide +kernel⟩,
   ⟨_, ⟨0, 0x8200000000000000, 8, .shared 0 1 0x100000000, 0⟩, rfl, takes_atS rfl (by decide +kernel) (by decide +kernel), _, rfl,
    accs_pass (by decide +kernel), by decide +kernel⟩, by decide +kernel⟩

/-! ### Atomics and fences -/

/-- The environments of the two issuers. -/
abbrev envW (i : Instr) : WarpEnv := laneEnv onW i on 0 0 fr wp
abbrev envS (i : Instr) (m : Slot) (x : Strand) : StrandEnv := slotEnv (atS m x) i 0 0 m x

/-- An access of the warp, and one of the strand, pass. -/
abbrev WarpPass (i : Instr) (kind : MemKind) (log : Nat) (irr : Bool) (a : Reg) (len : Nat) : Prop :=
  AccsPass (countedState onW (envW i)) (warpIssue onW (envW i)) i kind log irr (accesses (envW i) a 0 len)
abbrev SlotPass (i : Instr) (kind : MemKind) (log : Nat) (irr : Bool) (a : Reg) (len : Nat) (m : Slot) : Prop :=
  ∃ as p, as = [⟨0, opA (envS i m sd) a, len⟩] ∧ AccsPass (atS m sd) (strandIssue (atS m sd) (envS i m sd)) i kind log irr as ∧
    (locate (atS m sd) (strandIssue (atS m sd) (envS i m sd)) kind as).ok = [p]

/-- A slot's op there. -/
abbrev TakesS (i : Instr) (m : Slot) (x : Strand) : Prop := SlotTakes (atS m x) i on 0 0 m x x

theorem takes_sd {i : Instr} (m : Slot) (h : i.wf (.slot m) = true) : TakesS i m sd := takes_atS h (by clear h; revert m; decide +kernel) (by decide +kernel)

theorem meets_AtomicOpsComplete :
    (LaneTakes onW (.atom on 4 16 2 .add64) on 0 0 fr wp ∧ LaneClean (envW (.atom on 4 16 2 .add64)) [16, 17, 2, 3] [4, 5] ∧
      WarpPass (.atom on 4 16 2 .add64) .atomic 3 false 16 8) ∧
    (TakesS (.red on 20 2 .maxn) 6 sd ∧ SlotPass (.red on 20 2 .maxn) .atomic 2 false 20 4 6) ∧
    (LaneTakes onW (.atcas on 4 16 2 false) on 0 0 fr wp ∧ LaneClean (envW (.atcas on 4 16 2 false)) [16, 17, 2, 4] [4] ∧
      WarpPass (.atcas on 4 16 2 false) .atomic 2 true 16 4) ∧
    TakesS (.atcas on 4 16 2 true) 7 sd ∧ SlotPass (.atcas on 4 16 2 true) .atomic 3 true 16 8 7 :=
  ⟨⟨warp_takes rfl, warp_clean .., accs_pass (by decide +kernel)⟩,
   ⟨takes_sd 6 rfl, _, ⟨0, 0x8000000000000100, 4, .shared 0 1 0x100, 0⟩, rfl, accs_pass (by decide +kernel), by decide +kernel⟩,
   ⟨warp_takes rfl, warp_clean .., accs_pass (by decide +kernel)⟩,
   takes_sd 7 rfl, _, ⟨0, 0x400000, 8, .dev 0, 512⟩, rfl, accs_pass (by decide +kernel), by decide +kernel⟩

theorem meets_FencesAndPrefetchComplete : LaneTakes onW (.fence on .clu) on 0 0 fr wp ∧ TakesS (.tfence on .sys) 6 sd ∧
    (LaneTakes onW (.pft on 16) on 0 0 fr wp ∧ LaneClean (envW (.pft on 16)) [16, 17] []) ∧ TakesS (.pft on 16) 7 sd :=
  ⟨warp_takes rfl, takes_sd 6 rfl, ⟨warp_takes rfl, warp_clean ..⟩, takes_sd 7 rfl⟩

/-! ### Tile ops -/

theorem gate_ok {g : Gate} (h : (match g with | .ok => true | _ => false) = true) : g = .ok := by cases g <;> simp_all

theorem rec_meets {r : RecRes} {p : State → List Byte → Prop} [∀ u bs, Decidable (p u bs)]
    (h : (match r with | .ok u bs => decide (p u bs) | _ => false) = true) : ∃ u bs, r = .ok u bs ∧ p u bs := by
  cases r with
  | ok u bs => exact ⟨u, bs, rfl, of_decide_eq_true h⟩
  | _ => exact Bool.noConfusion h

/-- No tile there stops an op outside a segment. -/
theorem tiles_good {e : StrandEnv} {cur : Strand} {srcs outs : List Nat}
    (h : (∀ t ∈ srcs, (viewTile e t).suspect = false ∧ (viewTile e t).poison = false) ∧ e.st.segOpen = false) : TilesGood e cur srcs outs :=
  ⟨h.1, fun ho => by rw [h.2] at ho; exact Bool.noConfusion ho⟩

theorem meets_TileUnitOpsComplete : ∃ r, tileRow (.tsclr on 6 7 8) = some r ∧ TakesS (.tsclr on 6 7 8) 3 sd ∧
    ∃ vt td rd, vt = ((viewMxcfg sd).extractLsb' 41 4).toNat ∧ vt ≤ (if r.moves then 4 else 2) ∧ td = (viewTwb sd).toNat + r.d.toNat ∧
      rd = r.srcs.map (fun a => (viewTwb sd).toNat + a.toNat) ∧ tileGate (atS 3 sd) (envS (.tsclr on 6 7 8) 3 sd) true (rd ++ [td]) rd none = .ok ∧
      TilesGood (envS (.tsclr on 6 7 8) 3 sd) sd rd [td] :=
  ⟨_, rfl, takes_sd 3 rfl, _, _, _, rfl, by decide +kernel, rfl, rfl, gate_ok (by decide +kernel), tiles_good (by decide +kernel)⟩

/-- The record of a conversion reads 0 there: FP32 to FP32. -/
theorem meets_TcvtCompletes : TakesS (.tcvt on 6 7 16) 3 sd ∧ ∃ u raw,
    readRecord (atS 3 sd) (strandIssue (atS 3 sd) (envS (.tcvt on 6 7 16) 3 sd)) (.tcvt on 6 7 16) (opB (envS (.tcvt on 6 7 16) 3 sd) 16) 6 64
      (fun l => queuedBytes (atS 3 sd) (envS (.tcvt on 6 7 16) 3 sd) l 64) = .ok u raw ∧ ((strandAt (coreAt u 0) 0).isSome ∧
      (match tileGate u (envS (.tcvt on 6 7 16) 3 sd) true [7, 6] [7] none with | .ok => true | _ => false) = true) ∧ formatBad (formatRec raw) = false ∧ rowElems (formatRec raw).src ≤ rowElems (formatRec raw).tgt := by
  exact ⟨takes_sd 3 rfl, rec_meets (by decide +kernel)⟩

/-- A strand whose matrix ops take FP8 operands, and one that takes its op's image from shared memory. -/
def mx : Strand := { sd with mxcfg := 0x11, s := sd.s.set 48 0x8000000000000800 }

theorem meets_MatrixOpsComplete : ∀ i ∈ [Instr.mma on 6 8 16 1, .mmaz on 6 8 16 1, .mmar on 6 48 16 1], TakesS i 2 mx ∧
    ∃ field tile srcs, field = (fun lo len => ((viewMxcfg mx).extractLsb' lo len).toNat) ∧ tile = (fun r : Reg => (viewTwb mx).toNat + r.toNat) ∧
      kGroup (field 0 4) ≠ 0 ∧ kGroup (field 0 4) = kGroup (field 4 4) ∧
      streamTiles (viewTwb mx).toNat (field 8 6) (field 14 5) (blockScale (field 0 4) * (2 * tileBlocks (field 0 4))) = [] ∧
      streamTiles (viewTwb mx).toNat (field 19 6) (field 25 5) (blockScale (field 4 4) * (4 * tileBlocks (field 4 4))) = [] ∧
      srcs = (if i = .mmar on 6 48 16 1 then [] else (List.range 2).map (tile 8 + ·)) ++ (List.range 4).map (tile 16 + ·) ∧
      tileGate (atS 2 mx) (envS i 2 mx) true (tile 6 :: srcs) (srcs ++ if i = .mmaz on 6 8 16 1 then [] else [tile 6])
        (if srcs.contains (tile 6) then none else some (tile 6)) = .ok ∧
      TilesGood (envS i 2 mx) mx (srcs ++ [tile 6]) [tile 6] := by
  intro i hi
  simp only [List.mem_cons, List.not_mem_nil, or_false] at hi
  rcases hi with rfl | rfl | rfl <;> exact ⟨takes_atS rfl (by decide +kernel) (by decide +kernel), _, _, _, rfl, rfl, by decide +kernel,
    by decide +kernel, by decide +kernel, by decide +kernel, rfl, gate_ok (by decide +kernel), tiles_good (by decide +kernel)⟩

theorem except_ok {ε α : Type} {r : Except ε α} (h : (match r with | .ok _ => true | _ => false) = true) : ∃ v, r = .ok v := by
  cases r with
  | ok v => exact ⟨v, rfl⟩
  | error e => exact Bool.noConfusion h

theorem meets_MatrixOpsComplete_image : (∃ im, mxImage (atS 2 mx) (envS (.mmar on 6 48 16 1) 2 mx) (opA (envS (.mmar on 6 48 16 1) 2 mx) 48) 2 = .ok im) ∧
    sharedPoison (atS 2 mx) 0 mx.team ((opA (envS (.mmar on 6 48 16 1) 2 mx) 48).toNat % 281474976710656) 4096 = false :=
  ⟨except_ok (by decide +kernel), by decide +kernel⟩

/-- A tile of 16 rows at 0x400000, one after the other. -/
def tileRows : List Acc := (List.range 16).map fun r => ⟨0, 0x400000 + BitVec.ofNat 64 (128 * r), 128⟩

theorem meets_TileTransfersComplete : ∀ p ∈ [(Instr.tld on 6 16 0 false .cont, MemKind.load, sd), (.tst on 6 16 0 false .cont, .store, sd),
      (.tst on 6 16 0 false .cont, .store, open_)],
    TakesS p.1 6 p.2.2 ∧ tileRows = ((List.range 16).map fun r => (128 * r, opA (envS p.1 6 p.2.2) 16 + BitVec.ofNat 64 (128 * r), 128)).map
        (fun q => ⟨0, q.2.1, q.2.2⟩) ∧ tileGate (atS 6 p.2.2) (envS p.1 6 p.2.2) false [6] (if p.2.1 = .load then [] else [6]) none = .ok ∧
      AccsPass (atS 6 p.2.2) (strandIssue (atS 6 p.2.2) (envS p.1 6 p.2.2)) p.1 p.2.1 7 false tileRows ∧
      (viewTile (envS p.1 6 p.2.2) 6).suspect = false ∧ (viewTile (envS p.1 6 p.2.2) 6).poison = false := by
  intro i hi
  simp only [List.mem_cons, List.not_mem_nil, or_false] at hi
  rcases hi with rfl | rfl | rfl <;> exact ⟨takes_atS rfl (by decide +kernel) (by decide +kernel), by decide +kernel, gate_ok (by decide +kernel),
    accs_pass (by decide +kernel), by decide +kernel, by decide +kernel⟩

theorem meets_TileTransfersComplete_log : logTiles (seen (atS 6 sd) (strandIssue (atS 6 sd) (envS (.tld on 6 16 0 false .cont) 6 sd)) .load tileRows)
    (envS (.tld on 6 16 0 false .cont) 6 sd) [6] = some (seen (atS 6 sd) (strandIssue (atS 6 sd) (envS (.tld on 6 16 0 false .cont) 6 sd)) .load tileRows) := by
  have h : sd.segOpen = false := by decide +kernel
  show (if !sd.segOpen then _ else _) = _
  rw [h]; rfl

theorem meets_CvtnCompletes : OnceMeets (.cvtn on 4 18 16) [16, 17] [] ∧ ∃ u raw,
    readRecord (countedState onW (envW (.cvtn on 4 18 16))) (warpIssue onW (envW (.cvtn on 4 18 16))) (.cvtn on 4 18 16)
      (readReg (envW (.cvtn on 4 18 16)) 0 17 ++ readReg (envW (.cvtn on 4 18 16)) 0 16) 6 64 (fun _ => []) = .ok u raw ∧
    (leadLane (envW (.cvtn on 4 18 16)).parts = 0 ∧ formatBad (formatRec raw) = false ∧ cvtnOk (formatRec raw) 18 = true) :=
  ⟨once_meets _ _ rfl, rec_meets (by decide +kernel)⟩

/-! ### Copy requests, presence and rings -/

theorem except_is {ε α : Type} [DecidableEq α] {r : Except ε α} {v : α} (h : (match r with | .ok w => decide (w = v) | _ => false) = true) :
    r = .ok v := by
  cases r with
  | ok w => exact congrArg _ (of_decide_eq_true h)
  | error e => exact Bool.noConfusion h

theorem issues_W : FragIssues onW 0 0 fr wp := (warp_takes (i := .nop on) rfl).toFragIssues

/-- A once-op there, with its lead address. -/
abbrev leadW (i : Instr) (a : Reg) : W64 := leadAddr (envW i) a

/-- A queue with no place left. -/
def clogged : State :=
  setCore onW 0
    { core with
      copyQ := List.replicate Config.copyQueue
        { id := 0, raw := 0, team := 1, ctx := 0, who := .frag 0 0, place := none, agent := 0, wisn := 0, pc := 0 } }

theorem meets_CopyRequestsQueue : (OnceMeets (.cpk on 20) [20, 21] [] ∧
      kickCheck (countedState onW (envW (.cpk on 20))) (warpIssue onW (envW (.cpk on 20))) (leadW (.cpk on 20) 20) (leadOnly (envW (.cpk on 20))) = none ∧
      (coreAt onW 0).copyQ.length < Config.copyQueue) ∧
    (TakesS (.cpk on 20) 7 sd ∧ kickCheck (atS 7 sd) (strandIssue (atS 7 sd) (envS (.cpk on 20) 7 sd)) (opA (envS (.cpk on 20) 7 sd) 20) 1 = none ∧
      (coreAt (atS 7 sd) 0).copyQ.length < Config.copyQueue) ∧
    (SlotIssues (atS 6 sd) 0 0 6 sd sd ∧
      kickCheck (atS 6 sd) (strandIssue (atS 6 sd) (envS (.kick 0x8000000000000100) 6 sd)) 0x8000000000000100 1 = none) ∧
    (FragIssues onW 0 0 fr wp ∧ kickCheck onW (warpIssue onW { laneEnv onW (.kick 0x8000000000000100) always 0 0 fr wp with w := { wp with wisn := fr.num } })
      0x8000000000000100 (leadOnly { laneEnv onW (.kick 0x8000000000000100) always 0 0 fr wp with w := { wp with wisn := fr.num } }) = none) ∧
    onW.reqs = [] ∧ (coreAt clogged 0).copyQ.length = Config.copyQueue :=
  ⟨⟨once_meets _ _ rfl, by decide +kernel⟩, ⟨takes_sd 7 rfl, by decide +kernel⟩, ⟨(takes_sd (i := .nop on) 6 rfl).toSlotIssues, by decide +kernel⟩,
   ⟨issues_W, by decide +kernel⟩, by decide +kernel⟩

/-- The shared memory that a once-op of the warp, or a slot's op, names. -/
abbrev SharedW (i : Instr) (a : Reg) (log : Nat) (off : Nat) : Prop :=
  sharedTarget (countedState onW (envW i)) (warpIssue (countedState onW (envW i)) (envW i)) (leadW i a) log (leadOnly (envW i)) = .ok (0, off)
abbrev SharedS (i : Instr) (m : Slot) (a : Reg) (log : Nat) (off : Nat) : Prop :=
  sharedTarget (atS m sd) (strandIssue (atS m sd) (envS i m sd)) (opA (envS i m sd) a) log 1 = .ok (0, off)

theorem slot_free {s : State} {e : StrandEnv} (h : slotOrder s e = [] ∧ allSent s (.strand e.k e.n) = true) : slotFree s e := ⟨h.1, fun _ => h.2⟩

theorem meets_PresenceClearsAndAwaits :
    (OnceMeets (.pclr on 20 18) [20, 21, 18] [] ∧ SharedW (.pclr on 20 18) 20 0 0x100 ∧
      0x100 + (readReg (envW (.pclr on 20 18)) (leadLane (envW (.pclr on 20 18)).parts) 18).toNat ≤ teamShared onW wp.team) ∧
    (TakesS (.pclr on 20 2) 6 sd ∧ SharedS (.pclr on 20 2) 6 20 0 0x100 ∧
      0x100 + (opB (envS (.pclr on 20 2) 6 sd) 2).toNat ≤ teamShared (atS 6 sd) sd.team) ∧
    (∀ p ∈ [((20 : Reg), 0x100, 0), (24, 0x140, 5)], OnceMeets (.await on p.1) [p.1, p.1 + 1] [] ∧ SharedW (.await on p.1) p.1 2 p.2.1 ∧
      natLE (sharedBytes (countedState onW (envW (.await on p.1))) 0 1 p.2.1 4) = p.2.2 ∧ wp.kill = false) ∧
    ∀ p ∈ [((20 : Reg), 0x100, 0), (24, 0x140, 5)], TakesS (.await on p.1) 6 sd ∧ SharedS (.await on p.1) 6 p.1 2 p.2.1 ∧
      natLE (sharedBytes (atS 6 sd) 0 1 p.2.1 4) = p.2.2 ∧ slotFree (atS 6 sd) (envS (.await on p.1) 6 sd) := by
  refine ⟨⟨once_meets _ _ rfl, except_is (by decide +kernel), by decide +kernel⟩, ⟨takes_sd 6 rfl, except_is (by decide +kernel), by decide +kernel⟩, ?_, ?_⟩ <;>
    intro p hp <;> simp only [List.mem_cons, List.not_mem_nil, or_false] at hp
  · rcases hp with rfl | rfl <;> exact ⟨once_meets _ _ rfl, except_is (by decide +kernel), by decide +kernel⟩
  · rcases hp with rfl | rfl <;> exact ⟨takes_sd 6 rfl, except_is (by decide +kernel), by decide +kernel, slot_free (by decide +kernel)⟩

/-- The ring at 0x200, with slots to acquire, to peek, to release and to commit, and the full one at 0x240. -/
def ring : Ring := ⟨0, 1, 0x200, 0x8000000000000400, false, 8, 1, 1, 2, 4⟩
def fullRing : Ring := ⟨0, 1, 0x240, 0x8000000000000400, false, 1, 1, 0, 0, 1⟩

/-- RACQ, RPEK and their TRY forms, at the rings' address registers. -/
def takers (a : Reg) : List (Instr × Bool × Option Pred) :=
  [(.racq on 2 a, false, none), (.racqTry on 2 a 3, false, some 3), (.rpek on 2 a, true, none), (.rpekTry on 2 a 3, true, some 3)]

theorem meets_RingOpsTakeAndAdvance_take :
    (∀ p ∈ takers 22, ringTake p.1 = some (p.2.1, on, 2, 22, p.2.2) ∧ OnceMeets p.1 [22, 23] [2, 3] ∧ SharedW p.1 22 6 0x200 ∧
      (ringAt (countedState onW (envW p.1)) 0 wp.team 0x200 = some ring ∧ slotReady (countedState onW (envW p.1)) ring p.2.1 = true) ∧
      TakesS p.1 6 sd ∧ SharedS p.1 6 22 6 0x200 ∧
      (ringAt (atS 6 sd) 0 sd.team 0x200 = some ring ∧ slotReady (atS 6 sd) ring p.2.1 = true) ∧ slotFree (atS 6 sd) (envS p.1 6 sd)) ∧
    (∀ p ∈ takers 28, ringTake p.1 = some (p.2.1, on, 2, 28, p.2.2) ∧ OnceMeets p.1 [28, 29] [2, 3] ∧ SharedW p.1 28 6 0x240 ∧
      (ringAt (countedState onW (envW p.1)) 0 wp.team 0x240 = some fullRing ∧ slotReady (countedState onW (envW p.1)) fullRing p.2.1 = false) ∧
      TakesS p.1 6 sd ∧ SharedS p.1 6 28 6 0x240 ∧
      (ringAt (atS 6 sd) 0 sd.team 0x240 = some fullRing ∧ slotReady (atS 6 sd) fullRing p.2.1 = false) ∧ slotFree (atS 6 sd) (envS p.1 6 sd)) ∧
    wp.kill = false := by
  refine ⟨?_, ?_, by decide +kernel⟩ <;> intro p hp <;> simp only [takers, List.mem_cons, List.not_mem_nil, or_false] at hp <;>
    rcases hp with rfl | rfl | rfl | rfl <;> exact ⟨rfl, once_meets _ _ rfl, except_is (by decide +kernel), by decide +kernel, takes_sd 6 rfl,
      except_is (by decide +kernel), by decide +kernel, slot_free (by decide +kernel)⟩

theorem may_commit {s : State} {j : Nat} (h : slotAcquired s ring j = true) : mayRelease s ring (some j) := h
theorem may_release {s : State} : mayRelease s ring none := show ring.head ≠ ring.peek by decide

theorem meets_RingOpsTakeAndAdvance_release :
    (OnceMeets (.rcmt on 22 30) [22, 23, 30, 31] [] ∧ releases (.rcmt on 22 30) on 22 30 ring (leadW (.rcmt on 22 30) 30) (some 3) ∧
      SharedW (.rcmt on 22 30) 22 6 0x200 ∧ ringAt (countedState onW (envW (.rcmt on 22 30))) 0 wp.team 0x200 = some ring ∧
      mayRelease (countedState onW (envW (.rcmt on 22 30))) ring (some 3)) ∧
    (OnceMeets (.rrel on 22) [22, 23] [] ∧ releases (.rrel on 22) on 22 0 ring (leadW (.rrel on 22) 0) none ∧ SharedW (.rrel on 22) 22 6 0x200 ∧
      ringAt (countedState onW (envW (.rrel on 22))) 0 wp.team 0x200 = some ring ∧ mayRelease (countedState onW (envW (.rrel on 22))) ring none) ∧
    (TakesS (.rcmt on 22 30) 6 sd ∧ releases (.rcmt on 22 30) on 22 30 ring (opB (envS (.rcmt on 22 30) 6 sd) 30) (some 3) ∧
      SharedS (.rcmt on 22 30) 6 22 6 0x200 ∧ mayRelease (atS 6 sd) ring (some 3)) ∧
    (TakesS (.rrel on 22) 7 sd ∧ releases (.rrel on 22) on 22 0 ring (opB (envS (.rrel on 22) 7 sd) 0) none ∧ SharedS (.rrel on 22) 7 22 6 0x200 ∧
      mayRelease (atS 7 sd) ring none) ∧ ∀ m ∈ [(6 : Slot), 7], ringAt (atS m sd) 0 sd.team 0x200 = some ring :=
  ⟨⟨once_meets _ _ rfl, Or.inl ⟨rfl, by decide, by decide +kernel⟩, except_is (by decide +kernel), by decide +kernel, may_commit (by decide +kernel)⟩,
   ⟨once_meets _ _ rfl, Or.inr ⟨rfl, rfl⟩, except_is (by decide +kernel), by decide +kernel, may_release⟩,
   ⟨takes_sd 6 rfl, Or.inl ⟨rfl, by decide, by decide +kernel⟩, except_is (by decide +kernel), may_commit (by decide +kernel)⟩,
   ⟨takes_sd 7 rfl, Or.inr ⟨rfl, rfl⟩, except_is (by decide +kernel), may_release⟩, by decide +kernel⟩

theorem meets_RingPointersAdvance : onW.memOk ∧ (ringAt onW 0 1 0x200 = some ring ∧ (ring.tail - ring.head).toNat < ring.cap ∧ ring.peek ≠ ring.tail ∧
      cmapBit onW ring (ring.peek.toNat % ring.cap) = true ∧ ring.head ≠ ring.peek ∧ slotAcquired onW ring 3 = true ∧ heldTag onW 1 = none) ∧
    ringAt onW 0 1 0x240 = some fullRing ∧ (fullRing.tail - fullRing.head).toNat = fullRing.cap :=
  ⟨⟨by decide +kernel, by decide +kernel, by decide +kernel⟩, by decide +kernel, by decide +kernel⟩

/-! ### Launches and joins -/

/-- A store of the warp, and one of the strand, that are not complete. -/
def busyReq (who : AgentRef) : Req := { id := 1, who := who, issuers := [who], owners := [who], core := 0, team := 1, ctx := 0, wisn := 0, pc := 0, loc := .dev 0, len := 1, op := .store [0] }
def busy (s : State) : State := { s with reqs := [busyReq (.frag 0 0), busyReq (.strand 0 0)] }

theorem enq_done {r : Enqueued} (h : (match r with | .done .. => true | _ => false) = true) : ∃ z v, r = .done z v := by
  cases r with
  | done z v => exact ⟨z, v, rfl⟩
  | _ => exact Bool.noConfusion h

/-- The record at 0x400000 is invalid, and the one at 0x400080 valid. -/
theorem meets_LaunchAndNxtComplete_warp :
    (∀ p ∈ [((16 : Reg), true), (32, false)], OnceMeets (.launch on 4 p.1) [p.1, p.1 + 1] [4] ∧ ∃ c q, c = countedState onW (envW (.launch on 4 p.1)) ∧
      q = warpIssue c (envW (.launch on 4 p.1)) ∧
      checkAccs c q (.launch on 4 p.1) .load 7 true [⟨leadLane (envW (.launch on 4 p.1)).parts, leadW (.launch on 4 p.1) p.1, 128⟩] = none ∧
      launchRefused c q = false ∧ ∃ u bs, readRecord c q (.launch on 4 p.1) (leadW (.launch on 4 p.1) p.1) 7 128 (fun _ => []) = .ok u bs ∧
        launchBad (BitVec.ofNat 1024 (natLE bs)) = p.2 ∧ waitDone u q.who .dev (owned u q.who) = true) ∧
    ∃ c q, c = countedState (busy onW) (laneEnv (busy onW) (.launch on 4 32) on 0 0 fr wp) ∧ q = warpIssue c (envW (.launch on 4 32)) ∧
      LaneTakes (busy onW) (.launch on 4 32) on 0 0 fr wp ∧ launchRefused c q = false ∧
      ∃ u bs, readRecord c q (.launch on 4 32) (leadW (.launch on 4 32) 32) 7 128 (fun _ => []) = .ok u bs ∧
        launchBad (BitVec.ofNat 1024 (natLE bs)) = false ∧ waitDone u q.who .dev (owned u q.who) = false := by
  refine ⟨?_, _, _, rfl, rfl, { warp_takes (i := .launch on 4 32) rfl with }, by decide +kernel, rec_meets (by decide +kernel)⟩
  intro p hp
  simp only [List.mem_cons, List.not_mem_nil, or_false] at hp
  rcases hp with rfl | rfl <;> exact ⟨once_meets _ _ rfl, _, _, rfl, rfl, by decide +kernel, by decide +kernel, rec_meets (by decide +kernel)⟩

/-- A strand of a team on another core than its first, whose launches are refused. -/
def elsewhere (s : State) : State := { s with teams := [{ team with cores := [8] }] }

theorem meets_LaunchAndNxtComplete_strand :
    (TakesS (.launch on 4 32) 1 sd ∧ checkAccs (atS 1 sd) (strandIssue (atS 1 sd) (envS (.launch on 4 32) 1 sd)) (.launch on 4 32) .load 7 true
        [⟨0, opA (envS (.launch on 4 32) 1 sd) 32, 128⟩] = none ∧ launchRefused (atS 1 sd) (strandIssue (atS 1 sd) (envS (.launch on 4 32) 1 sd)) = false ∧
      ∃ u bs, readRecord (atS 1 sd) (strandIssue (atS 1 sd) (envS (.launch on 4 32) 1 sd)) (.launch on 4 32) 0x400080 7 128
          (fun l => queuedBytes (atS 1 sd) (envS (.launch on 4 32) 1 sd) l 128) = .ok u bs ∧
        launchBad (BitVec.ofNat 1024 (natLE bs)) = false) ∧
    (SlotTakes (elsewhere (atS 1 sd)) (.launch on 4 32) on 0 0 1 sd sd ∧
      launchRefused (elsewhere (atS 1 sd)) (strandIssue (elsewhere (atS 1 sd)) (envS (.launch on 4 32) 1 sd)) = true) ∧
    (∃ z v, enqueue (atS 1 sd) (strandIssue (atS 1 sd) (envS (.launch on 4 32) 1 sd)) probeRecord = .done z v) ∧
    (TakesS (.nxt on 0) 1 sd ∧ teamAt (atS 1 sd) sd.team = some team ∧ gridAt (atS 1 sd) team.grid = some grid ∧ grid ∈ (atS 1 sd).grids ∧ grid.tq < tileSets grid) ∧
    TakesS (.nxt on 1) 1 sd :=
  ⟨⟨takes_sd 1 rfl, by decide +kernel, by decide +kernel, rec_meets (by decide +kernel)⟩,
   ⟨{ takes_sd (i := .launch on 4 32) 1 rfl with }, by decide +kernel⟩, enq_done (by decide +kernel),
   ⟨takes_sd 1 rfl, by decide +kernel⟩, takes_sd 1 rfl⟩

/-- A child queue of n records, of a context with some spilled ones, that has stopped its launches or not, and of which the overflow ring's
TAIL is given. -/
def queued (n : Nat) (out : List Spilled) (stop : Bool) (tail : BitVec 16) : State :=
  { onW with dies := onW.dies.set 0 { onW.dies[0] with children := [{ ctx := 0, recs := List.replicate n { raw := probeRecord, parent := 1, depth := 1 } }] },
             ctxs := onW.ctxs.set 0 (some { ctx with spstop := stop, spilled := out, ovtail := tail }) }

theorem meets_LaunchAndNxtComplete_queue : ∀ p ∈ [(63, [{ die := 0, parent := 1, depth := 1, back := true }], true, 0), (64, [], true, 0),
      (63, [{ die := 0, parent := 1, depth := 1 }], true, 1), ((64 : Nat), List.replicate 16 { die := 0, parent := 1, depth := 1 }, false, (16 : BitVec 16))],
    ∃ cq x, childAt (queued p.1 p.2.1 p.2.2.1 p.2.2.2) (coreDie 0) 0 = some cq ∧ ctxAt (queued p.1 p.2.1 p.2.2.1 p.2.2.2) 0 = some x ∧
      cq.recs.length = p.1 ∧ x.spilled = p.2.1 ∧ x.spstop = p.2.2.1 ∧ x.ovtail = p.2.2.2 ∧ x.ovhead = 0 ∧ x.ovlog = 4 := by
  intro p hp
  refine ⟨{ ctx := 0, recs := List.replicate p.1 { raw := probeRecord, parent := 1, depth := 1 } },
    { ctx with spstop := p.2.2.1, spilled := p.2.1, ovtail := p.2.2.2 }, ?_⟩
  simp only [List.mem_cons, List.not_mem_nil, or_false] at hp
  rcases hp with rfl | rfl | rfl | rfl <;> decide +kernel

/-- A join of one member at a cell. -/
def joinOf (cell : Nat) (js : JoinState) (ms : MemberState) : Join :=
  { cell := cell, va := 0x400000 + BitVec.ofNat 64 cell, ctx := 0, desc := 0x3F8000000000000000000001, wt := 0x3F800000, q := 1, state := js,
    members := [{ state := ms, team := some 1, weight := 0x3F800000 }] }

/-- The team is the member of the join at cell 0x200. -/
def joined (js : JoinState) (ms : MemberState) (s : State) : State :=
  { s with teams := [{ team with member := some (0x200, 0) }], joins := [joinOf 0x200 js ms] }

theorem object_ok {r : ObjectRes} {c : Nat} (h : (match r with | .ok a => a == c | _ => false) = true) : r = .ok c := by
  cases r with
  | ok a => exact congrArg _ (eq_of_beq h)
  | _ => exact Bool.noConfusion h

/-- The op that reads no weight leaves the state as the descriptor's read left it. -/
theorem no_weights (u : State) (q : Issue) (i : Instr) (base : W64) : readWeights u q i base 0 = (.ok u [], []) := rfl

/-- Where JNEW's object and descriptor are checked, in a fragment and in a strand: the object at 0x400200, in cell 0x200. -/
abbrev JnewAt (c : State) (q : Issue) (i : Instr) (dsc : W64) : Prop :=
  jnewCheck c q i 0x400200 dsc = none ∧ objectPlace c q 0x400200 128 = .ok 0x200

/-- The descriptor at 0x400000 is invalid, and the one at 0x400100 is of two members of weight one. -/
theorem meets_JnewStoresObject_warp :
    (OnceMeets (.jnew on 4 36 16) [36, 37, 16, 17] [4] ∧ JnewAt (countedState onW (envW (.jnew on 4 36 16))) (warpIssue onW (envW (.jnew on 4 36 16)))
        (.jnew on 4 36 16) 0x400000 ∧ ∃ u bs, readRecord (countedState onW (envW (.jnew on 4 36 16))) (warpIssue onW (envW (.jnew on 4 36 16)))
        (.jnew on 4 36 16) 0x400000 6 64 (fun _ => []) = .ok u bs ∧ descBad (BitVec.ofNat 512 (natLE bs)) = true) ∧
    leadW (.jnew on 4 36 16) 36 = 0x400200 ∧ leadW (.jnew on 4 36 16) 16 = 0x400000 ∧ leadW (.jnew on 4 36 34) 34 = 0x400100 :=
  ⟨⟨once_meets _ _ rfl, ⟨by decide +kernel, object_ok (by decide +kernel)⟩, rec_meets (by decide +kernel)⟩, by decide +kernel⟩

/-- A valid descriptor's branches: a live join is at the place, or too many on its die, or the object is stored. -/
theorem meets_JnewStoresObject : ∀ js ∈ [[], [joinOf 0x200 .opened .running], List.replicate 256 (joinOf 0x1000 .opened .running)],
    ∃ s q, s = { atS 1 sd with joins := js } ∧ q = strandIssue s (envS (.jnew on 4 36 34) 1 sd) ∧ TakesS (.jnew on 4 36 34) 1 sd ∧
      JnewAt s q (.jnew on 4 36 34) 0x400100 ∧ ∃ u bs, readRecord s q (.jnew on 4 36 34) 0x400100 6 64 (fun _ => []) = .ok u bs ∧
        (descBad (BitVec.ofNat 512 (natLE bs)) = false ∧ joinTable (BitVec.ofNat 512 (natLE bs)) = false ∧
          totalBad (totalWeight (BitVec.ofNat 512 (natLE bs)) []) = false ∧ joinN (BitVec.ofNat 512 (natLE bs)) = 2 ∧
          (match objectPlace u q 0x400200 136 with | .ok a => a == 0x200 | _ => false) = true ∧
          ((joinAt u 0x200).isSome = true ∨ (joinAt u 0x200).isSome = false ∧ Config.liveJoins ≤ dieJoins u (dieOf 0x200) ∨
            (joinAt u 0x200).isSome = false ∧ dieJoins u (dieOf 0x200) < Config.liveJoins ∧ owned u q.who = [])) := by
  intro js hj
  simp only [List.mem_cons, List.not_mem_nil, or_false] at hj
  rcases hj with rfl | rfl | rfl <;> exact ⟨_, _, rfl, rfl, takes_sd 1 rfl, ⟨by decide +kernel, object_ok (by decide +kernel)⟩,
    rec_meets (by decide +kernel)⟩

/-- A state that only differs in what no op's issue depends on. -/
theorem joined_takes {i : Instr} (js : JoinState) (ms : MemberState) (h : i.wf .warp = true) :
    LaneTakes (joined js ms onW) i on 0 0 fr wp ∧ OnceClean (laneEnv (joined js ms onW) i on 0 0 fr wp) [] [4] :=
  ⟨{ warp_takes h with }, ⟨fun _ => not_poisoned.1, fun _ h => absurd h List.not_mem_nil⟩⟩

theorem joined_slot {i : Instr} (js : JoinState) (ms : MemberState) (m : Slot) (h : i.wf (.slot m) = true) :
    SlotTakes (joined js ms (atS m sd)) i on 0 0 m sd sd := { takes_sd m h with }

/-- The counted state, and the state of a strand's kill point. -/
abbrev cW (s : State) (i : Instr) : State := countedState s (laneEnv s i on 0 0 fr wp)
abbrev cS (s : State) : State := strandDone s 0 0 { sd with fx := { sd.fx with close := true, killPoint := true } }

theorem meets_ArrivalsAndPledgesCommit :
    (OnceMeets (.jarr on 4) [] [4] ∧ wp.kill = false ∧ sd.kill = false ∧ memberOf (cW onW (.jarr on 4)) wp.team = none ∧
      memberOf (cW onW (.irrev on)) wp.team = none ∧ TakesS (.jarr on 4) 1 sd ∧ memberOf (cS (atS 1 sd)) sd.team = none ∧ TakesS (.irrev on) 1 sd) ∧
    ∀ ms ∈ [MemberState.running, .pledged, .arrived], ∃ j i m,
      (∀ op ∈ [Instr.jarr on 4, .irrev on],
        (LaneTakes (joined .opened ms onW) op on 0 0 fr wp ∧ memberOf (cW (joined .opened ms onW) op) wp.team = some (j, i, m) ∧
          waitDone (cW (joined .opened ms onW) op) (.frag 0 0) .dev (owned (cW (joined .opened ms onW) op) (.frag 0 0)) = true ∧
          commitWaits (cW (joined .opened ms onW) op) j.cell i = false) ∧
        SlotTakes (joined .opened ms (atS 1 sd)) op on 0 0 1 sd sd) ∧
      memberOf (cS (joined .opened ms (atS 1 sd))) sd.team = some (j, i, m) ∧ m.state = ms ∧ j.busy = none ∧
      commitWaits (cS (joined .opened ms (atS 1 sd))) j.cell i = false ∧
      waitDone (cS (joined .opened ms (atS 1 sd))) (.strand 0 0) .dev (owned (cS (joined .opened ms (atS 1 sd))) (.strand 0 0)) = true := by
  refine ⟨⟨once_meets _ _ rfl, by decide +kernel, by decide +kernel, by decide +kernel, by decide +kernel, takes_sd 1 rfl, by decide +kernel,
    takes_sd 1 rfl⟩, ?_⟩
  intro ms hm
  refine ⟨joinOf 0x200 .opened ms, 0, { state := ms, team := some 1, weight := 0x3F800000 }, ?_, ?_⟩
  · intro op ho
    simp only [List.mem_cons, List.not_mem_nil, or_false] at ho hm
    rcases hm with rfl | rfl | rfl <;> rcases ho with rfl | rfl <;>
      exact ⟨⟨(joined_takes _ _ rfl).1, by decide +kernel⟩, joined_slot _ _ 1 rfl⟩
  · simp only [List.mem_cons, List.not_mem_nil, or_false] at hm
    rcases hm with rfl | rfl | rfl <;> decide +kernel

theorem addr_ok {r : JoinAddr} {l : Loc} (h : (match r with | .ok a => decide (a = l) | _ => false) = true) : r = .ok l := by
  cases r with
  | ok a => exact congrArg _ (of_decide_eq_true h)
  | _ => exact Bool.noConfusion h

theorem query_some {r : Option (State × W64)} (h : r.isSome = true) : ∃ u v, r = some (u, v) := by
  cases r with
  | some p => exact ⟨p.1, p.2, rfl⟩
  | none => exact Bool.noConfusion h

/-- JWAIT and JQRY at a join that is live. -/
theorem meets_JoinReadsComplete :
    (∀ js ∈ [JoinState.opened, .released, .failed], ∀ i ∈ [Instr.jwait on 4 36, .jqry on 4 36 5, .jqry on 4 36 4],
      LaneTakes (joined js .pledged onW) i on 0 0 fr wp ∧ OnceClean (laneEnv (joined js .pledged onW) i on 0 0 fr wp) [36, 37] [4, 5] ∧
      joinAddr (cW (joined js .pledged onW) i) (warpIssue (cW (joined js .pledged onW) i) (laneEnv (joined js .pledged onW) i on 0 0 fr wp)) i
        (leadAddr (laneEnv (joined js .pledged onW) i on 0 0 fr wp) 36) = .ok (.dev 0x200) ∧
      (liveJoin (cW (joined js .pledged onW) i) (.dev 0x200) = some (joinOf 0x200 js .pledged) ∧
        (memberOf (cW (joined js .pledged onW) i) 1).isSome = true ∧ memberOf (cW (joined js .pledged onW) i) 2 = none) ∧
      SlotTakes (joined js .pledged (atS 1 sd)) i on 0 0 1 sd sd ∧
      joinAddr (joined js .pledged (atS 1 sd)) (strandIssue (joined js .pledged (atS 1 sd)) (envS i 1 sd)) i 0x400200 = .ok (.dev 0x200) ∧
      liveJoin (joined js .pledged (atS 1 sd)) (.dev 0x200) = some (joinOf 0x200 js .pledged)) ∧
    opA (envS (.jwait on 4 36) 1 sd) 36 = 0x400200#64 ∧ wp.kill = false := by
  refine ⟨?_, by decide +kernel⟩
  intro js hj i hi
  simp only [List.mem_cons, List.not_mem_nil, or_false] at hi hj
  rcases hj with rfl | rfl | rfl <;> rcases hi with rfl | rfl | rfl <;> exact ⟨(joined_takes _ _ rfl).1, once_clean_of not_poisoned,
    addr_ok (by decide +kernel), by decide +kernel, joined_slot _ _ 1 rfl, addr_ok (by decide +kernel), by decide +kernel⟩

/-- An object whose join is no longer live, as it was stored; its STATE is in bits 49:48 of the word at 0x40. -/
def stored (st : Byte) : State := { atS 1 sd with dev := memPut (atS 1 sd).dev 0x246 [st] }

theorem word_some {r : Option (State × W64)} {p : State → W64 → Prop} [∀ u v, Decidable (p u v)]
    (h : (match r with | some (u, v) => decide (p u v) | none => false) = true) : ∃ u v, r = some (u, v) ∧ p u v := by
  cases r with
  | some x => exact ⟨x.1, x.2, rfl, of_decide_eq_true h⟩
  | none => exact Bool.noConfusion h

theorem meets_JoinReadsComplete_stored : ∀ st ∈ [(0 : Byte), 2, 3],
    liveJoin (stored st) (.dev 0x200) = none ∧
    ∃ y w, objectWord (stored st) (strandIssue (stored st) (envS (.jwait on 4 36) 1 sd)) true (locPlus 0x40 (.dev 0x200)) = some (y, w) ∧
      (w.toNat / 2 ^ 48 % 4 = st.toNat ∧ (objectWord y (strandIssue (stored st) (envS (.jwait on 4 36) 1 sd)) true (locPlus 0x50 (.dev 0x200))).isSome = true ∧
        (objectWord (stored st) (strandIssue (stored st) (envS (.jqry on 4 36 4) 1 sd)) false (locPlus 0x60 (.dev 0x200))).isSome = true ∧
        (match objectAddr y (strandIssue (stored st) (envS (.jwait on 4 36) 1 sd)) (.jwait on 4 36) 0x400280 3 8 with
          | .ok l => l == .dev 0x280 | _ => false) = true) := by
  intro st hs
  simp only [List.mem_cons, List.not_mem_nil, or_false] at hs
  rcases hs with rfl | rfl | rfl <;> exact ⟨by decide +kernel, word_some (by decide +kernel)⟩

/-! ### Migration -/

/-- The warp holds no tile. -/
def bare : State := setCore onW 0 { core with seats := [{ seat with tiles := [] }] }

/-- V16 names a page of die 0, where the warp is, and V38 one of die 1. -/
theorem meets_MigrAndMhomeComplete :
    (LaneTakes onW (.mhome on 4 38) on 0 0 fr wp ∧ LaneClean (envW (.mhome on 4 38)) [38, 39] [4] ∧
      ∀ l, laneIn (envW (.mhome on 4 38)).parts l = true → (laneAddr (envW (.mhome on 4 38)) 38 0 l).toNat / 2 ^ 52 = 0 ∧
        leafEntry (cW onW (.mhome on 4 38)) 0 (teamCtx onW wp.team) (laneAddr (envW (.mhome on 4 38)) 38 0 l).toNat = some 0x28F#64) ∧
    (OnceMeets (.migr on 2 16) [16, 17] [] ∧ wp.kill = false ∧ (leadW (.migr on 2 16) 16).toNat / 2 ^ 52 = 0 ∧
      memberRunning (cW onW (.migr on 2 16)) wp.team = false ∧ teamGrid (cW onW (.migr on 2 16)) wp.team = some grid ∧
      migrTarget (cW onW (.migr on 2 16)) 0 0 wp (leadW (.migr on 2 16) 16).toNat = some (coreDie 0)) ∧
    LaneTakes bare (.migr on 2 38) on 0 0 fr wp ∧ OnceClean (laneEnv bare (.migr on 2 38) on 0 0 fr wp) [38, 39] [] ∧
      migrTarget (cW bare (.migr on 2 38)) 0 0 wp (leadW (.migr on 2 38) 38).toNat = some 1 ∧ (1 : DieId) ≠ coreDie 0 ∧ teamProt grid = false ∧
      memberRunning (cW bare (.migr on 2 38)) wp.team = false ∧ teamGrid (cW bare (.migr on 2 38)) wp.team = some grid ∧
      migrBlocked (noteWalk (cW bare (.migr on 2 38)) 0 (teamCtx (cW bare (.migr on 2 38)) wp.team) (leadW (.migr on 2 38) 38).toNat) 0 0 fr.warp wp.team = 0#64 :=
  ⟨⟨warp_takes rfl, warp_clean .., by decide +kernel⟩, ⟨once_meets _ _ rfl, by decide +kernel⟩,
   ⟨⟨rfl, by decide +kernel, by decide +kernel⟩, rfl, by decide +kernel⟩,
   ⟨fun h => absurd h (by decide), by decide +kernel⟩, by decide +kernel⟩

/-! ### The steps of strands and fragments outside their ops -/

theorem code_meets {r : Code} {p : State → List Byte → Prop} [∀ u bs, Decidable (p u bs)]
    (h : (match r with | .ok u bs => decide (p u bs) | _ => false) = true) : ∃ u bs, r = .ok u bs ∧ p u bs := by
  cases r with
  | ok u bs => exact ⟨u, bs, rfl, of_decide_eq_true h⟩
  | _ => exact Bool.noConfusion h

theorem slot_nop (m : Slot) : ∃ i, slotOp (List.replicate 32 0) m = .op i ∧ isNop i = true := by
  have h : ∀ m : Slot, (match slotOp (List.replicate 32 0) m with | .op i => isNop i | _ => false) = true := by decide +kernel
  have hm := h m
  cases hs : slotOp (List.replicate 32 0) m with
  | op i => exact ⟨i, rfl, by rw [hs] at hm; exact hm⟩
  | _ => rw [hs] at hm; exact Bool.noConfusion hm

/-- The strand with a result that is due, and one at a unit, at a rendezvous. -/
def due : Strand := { sd with pend := [{ due := 0, arrive := 0, pc := 0, dst := .sreg 5 7 }] }
def atUnit : Strand := { sd with stall := some (.unit 3) }
def meeting : Strand := { sd with state := .rdv 7 [] }

theorem strand_atS (m : Slot) (x : Strand) : strandAt (coreAt (atS m x) 0) 0 = some x := by
  rw [coreAt_atS]; exact strandAt_setStrand core 0 (some x)

theorem meets_StrandEventsComplete :
    ((∃ u, u = landDue onW 0 0 ∧ strandAt (coreAt u 0) 0 = some sd ∧ strandRuns u 0 0 sd = true ∧ sd.rewinding = false ∧ (sd.fx = {} ∧ sd.back = .ready) ∧ sd.done = 0#8 ∧
        sd.replay = Vector.replicate 8 none ∧ sd.step = false ∧ sd.stepAll = false ∧ sd.kill = false ∧ sd.haltReq = none ∧
        ∃ v bs, fetchCode u 0 sd.team sd.pc 32 32 1 0 = .ok v bs ∧ (bs = List.replicate 32 0 ∧ earlierWaits v 0 0 sd bs = false ∧
          breakBundle v (teamCtx v sd.team) sd.pc = none)) ∧
      ∀ m, ∃ i, slotOp (List.replicate 32 0) m = .op i ∧ isNop i = true) ∧
    (strandAt (coreAt (atS 0 due) 0) 0 = some due ∧ ∃ p, due.pend = [p] ∧ landsNow due (coreAt (atS 0 due) 0).cycle p = true ∧ p.dst = .sreg 5 7) ∧
    (strandAt (coreAt (atS 0 atUnit) 0) 0 = some atUnit ∧ atUnit.stall = some (.unit 3) ∧
      (coreAt (atS 0 atUnit) 0).unitFree[(Fin.ofNat 4 (3 - 2))] ≤ (coreAt (atS 0 atUnit) 0).cycle) ∧
    strandAt (coreAt (atS 0 meeting) 0) 0 = some meeting ∧ meeting.state = .rdv 7 [] :=
  ⟨⟨⟨_, rfl, by decide +kernel, by decide +kernel, by decide +kernel, by decide +kernel, by decide +kernel, by decide +kernel, by decide +kernel,
     by decide +kernel, by decide +kernel, by decide +kernel, code_meets (by decide +kernel)⟩, slot_nop⟩,
   ⟨strand_atS 0 due, _, rfl, by decide +kernel, rfl⟩, ⟨strand_atS 0 atUnit, rfl, by decide +kernel⟩, strand_atS 0 meeting, rfl⟩

/-- A fragment that has waited 4096 cycles for an entry, as the core's clock stands, and one whose op is to come. -/
def splitting : Frag := { fr with state := .fragw 0 2 }
def later : State := setCore onW 0 { setFrag core 0 (some splitting) with cycle := 4096 }
def unfetched : Frag := { fr with fetched := false }

theorem meets_FragmentEventsComplete :
    (FragIssues onW 0 0 fr wp ∧ fr.flag = false ∧ wp.tbase ≠ 0#64) ∧ SlotIssues (atS 3 sd) 0 0 3 sd sd ∧
    (fragAt (coreAt later 0) 0 = some splitting ∧ warpAt (coreAt later 0) splitting.warp = some wp ∧ splitting.state = .fragw 0 2 ∧
      0 + 4096 ≤ (coreAt later 0).cycle ∧ splitting.flag = false) ∧
    fragAt (coreAt (atF unfetched) 0) 0 = some unfetched ∧ unfetched.fetched = false :=
  ⟨⟨issues_W, by decide +kernel⟩, (takes_sd (i := .nop on) 3 rfl).toSlotIssues, by decide +kernel, by decide +kernel, rfl⟩

/-- A release store that waits, and a fence. -/
def releasing : Frag := { fr with state := .wait (.st on 8 16 .dev .sync .b32) (.release .dev) }
def fencing : Frag := { fr with state := .wait (.tfence on .sys) (.fence .sys true) }
/-- A strand's release and its fence, not yet sent, and its JNEW whose object is stored. -/
def relReq : Req := { busyReq (.strand 0 0) with held := true, rel := some .dev, isRel := true }
def fenceReq : Req := { busyReq (.strand 0 0) with held := true, rel := some .dev, len := 0, loc := .shared 0 1 0, op := .fence .dev true }
def jnewHold : Hold := { i := .jnew on 4 36 34, slot := 1, cond := .jnew 0x200 0x400200 0 0x3F800000 [] 0, pc := 0, clock := 0 }
def holding : Strand := { sd with holds := [jnewHold] }

/-- The warp has issued no TSEL. -/
theorem same_sel : SameSel wp 0 := by unfold SameSel; decide +kernel

theorem meets_WaitsOfAccessesEnd : SameSel wp 0 ∧
    (∃ e as, fragAt (coreAt (atF releasing) 0) 0 = some releasing ∧ warpAt (coreAt (atF releasing) 0) releasing.warp = some wp ∧
      e = waitEnv (atF releasing) (.st on 8 16 .dev .sync .b32) on 0 0 releasing wp ∧ as = accesses e 16 0 4 ∧ LaneClean e [16, 17, 8] [] ∧
      AccsPass (atF releasing) (warpIssue (atF releasing) e) (.st on 8 16 .dev .sync .b32) .store 2 false as ∧ (∀ a, a ∈ as → a.va ≠ kickAddr) ∧
      waitDone (atF releasing) (.frag 0 0) .dev (owned (atF releasing) (.frag 0 0)) = true) ∧
    (∃ s : State, s = { atS 6 sd with reqs := [relReq] } ∧ strandAt (coreAt s 0) 0 = some sd ∧ sd.holds = [] ∧
      firstWait s (.strand 0 0) (fun r => match r.op with | .fence .. => false | _ => true) = some (relReq, []) ∧
      waitDone s (.strand 0 0) .dev [] = true) ∧
    (strandAt (coreAt (atS 1 holding) 0) 0 = some holding ∧
      holding.holds = [jnewHold] ∧ marksQuiet (atS 1 holding) jnewHold.mark = true ∧ 0 < (atS 1 holding).tick ∧
      joinAt (atS 1 holding) 0x200 = none ∧ dieJoins (atS 1 holding) (dieOf 0x200) < Config.liveJoins) ∧
    (fragAt (coreAt (atF fencing) 0) 0 = some fencing ∧ warpAt (coreAt (atF fencing) 0) fencing.warp = some wp ∧
      waitDone (atF fencing) (.frag 0 0) .sys (owned (atF fencing) (.frag 0 0)) = true) ∧
    ∃ s : State, s = { atS 6 sd with reqs := [fenceReq] } ∧
      firstWait s (.strand 0 0) (fun r => match r.op with | .fence .. => true | _ => false) = some (fenceReq, []) ∧ waitDone s (.strand 0 0) .dev [] = true :=
  ⟨same_sel, ⟨_, _, by decide +kernel, by decide +kernel, rfl, rfl, clean_of (by decide +kernel), accs_pass (by decide +kernel), by decide +kernel, by decide +kernel⟩,
   ⟨_, rfl, by decide +kernel⟩, by decide +kernel, by decide +kernel, _, rfl, by decide +kernel⟩

/-! ### Homes, replies, caches and copies -/

theorem onW_ok : onW.memOk := ⟨by decide +kernel, by decide +kernel, by decide +kernel⟩

/-- A request of the warp on its way. -/
def reqOf (l : Loc) (n : Nat) (op : ReqOp) : Req :=
  { id := 1, who := .frag 0 0, place := some (0, 0), issuers := [.frag 0 0], owners := [.frag 0 0], core := 0, team := 1, ctx := 0, wisn := 0, pc := 0, loc := l, len := n, op := op }
def withReq (q : Req) : State := { onW with reqs := [q] }

theorem performs {q : Req} (h : reqAt (withReq q) 1 = some q ∧ canPerform (withReq q) q = true ∧ refused (withReq q) q = false ∧
    heldTag (withReq q) q.team = none) : Performs (withReq q) 1 q := ⟨h.1, h.2.1, h.2.2.1, h.2.2.2⟩

theorem withReq_ok (q : Req) : (withReq q).memOk := ⟨onW_ok.dev, onW_ok.host, onW_ok.shared⟩

/-- A request of host memory goes by whichever port is cabled. -/
theorem host_performs {q : Req} {a : Nat} (hl : q.loc = .host a) (h : reqAt (withReq q) 1 = some q ∧ canPerform (withReq q) q = true ∧ q.core = 0 ∧
    heldTag (withReq q) q.team = none) : Performs (withReq q) 1 q := by
  refine ⟨h.1, h.2.1, ?_, h.2.2.2⟩
  have hr : ∀ d, routeOk onW 0 d = true := by decide +kernel
  have hw : routeOk (withReq q) (coreDie q.core) (destDie q.core q.loc) = true := by rw [h.2.2.1]; exact hr _
  rw [refused, hw, hl]; simp

/-- Requests of every kind that a home performs. -/
theorem meets_HomesPerformRequests : (∀ q ∈ [reqOf (.dev 0) 4 (.load true false .none), reqOf (.dev 0) 4 (.store [1, 2, 3, 4]),
      reqOf (.dev 0) 4 (.atomic .add 1 [] []), reqOf (.dev 0) 4 (.atomic .exch 1 [] [(.lane 0 8 .b32 false, none, [])]),
      reqOf (.dev 0) 4 (.cas false 0 1 .none), reqOf (.dev 0) 4 (.cas false 1 1 .none), reqOf (.dev 0) 4 (.atomic .hfadd2 1 [1] []),
      { reqOf (.dev 0) 4 (.atomic .hfadd2 1 [1] []) with half := some 0 }],
    Performs (withReq q) 1 q ∧ (withReq q).memOk) ∧
    (∀ q ∈ [reqOf (.host 0) 4 (.load false false .none), reqOf (.host 0) 1 (.store [1])], Performs (withReq q) 1 q ∧ (withReq q).memOk) ∧
    (reqOf (.dev 0) 4 (.store [1, 2, 3, 4])).bad = false ∧ (reqOf (.host 0) 1 (.store [1])).bad = false := by
  refine ⟨?_, ?_, rfl, rfl⟩ <;> intro q hq <;> refine ⟨?_, withReq_ok q⟩ <;> simp only [List.mem_cons, List.not_mem_nil, or_false] at hq
  · rcases hq with rfl | rfl | rfl | rfl | rfl | rfl | rfl | rfl <;> exact performs (by decide +kernel)
  · rcases hq with rfl | rfl <;> exact host_performs rfl (by decide +kernel)

/-- Loads whose values have come back, for a lane and for an S register. -/
def laneReply : Req := { reqOf (.dev 0) 4 (.load true false (.lane 3 8 .b32 false)) with reply := some ([1, 2, 3, 4], false) }
def sregReply : Req := { reqOf (.dev 0) 8 (.load false false (.sreg 5 .b16 true)) with who := .strand 0 0, place := none, reply := some ([1, 0x80], false) }

theorem meets_RepliesLand : (∀ q ∈ [laneReply, sregReply], reqAt (withReq q) 1 = some q ∧ q.held = false ∧ q.group = 0 ∧ q.ovr = [] ∧ q.seen = [] ∧
      ∀ x ∈ (withReq q).reqs, 1 ∉ x.after ∧ landsBefore x q = false) ∧ laneReply.place = some (0, 0) ∧ warpAt (coreAt (withReq laneReply) 0) 0 = some wp ∧
    sregReply.who = .strand 0 0 ∧ strandAt (coreAt (withReq sregReply) 0) 0 = some sd ∧ sd.pend = [] := by decide +kernel

/-- Two lines at a home, of which one is poisoned; a page of 1 GiB in the context's tables; and a full bucket of four tokens. -/
def lined : State := { onW with lines := [{ line := 5, e := 700 }, { line := 6, poison := true }] }
def tabled : State := { onW with dev := memPut (memPut onW.dev 0 (bytesLE 8 0x1001)) (pkgCell 0x1000) [0xF] }
def farReq : Req := { reqOf (.dev (2 * Config.stackBytes)) 4 (.load true false .none) with held := true, cost := 1 }
def metered : Ctx := { ctx with buckets := ctx.buckets.set 0 0x4000001, levels := Vector.replicate 4 (Vector.replicate 3 1024) }
def bucketed : State := { withReq farReq with ctxs := onW.ctxs.set 0 (some metered) }
def peerReq : Req := reqOf (.peer 2 0) 4 (.load false false .none)

theorem meets_CachesAndTokensProceed :
    ((∃ x, homeLine lined 5 = some x ∧ x.pend = [] ∧ x.poison = false) ∧ ∃ x, homeLine lined 6 = some x ∧ x.poison = true) ∧
    (ctxAt onW 0 = some ctx ∧ (∃ en, tlbLookup onW 0 0 0x400000 = some en) ∧ tlbLookup tabled 0 0 0x800000 = none ∧
      ctxAt tabled 0 = some ctx ∧ walk tabled ctx 0x800000 = .leaf 0xF 1073741824 ∧ tlbLookup onW 0 0 0x800000 = none ∧ walk onW ctx 0x800000 = .bad) ∧
    (reqAt bucketed 1 = some farReq ∧ farReq.held = true ∧ farReq.rel = none ∧ farReq.after = [] ∧ farReq.op ≠ .kick ∧ farReq.cost ≠ 0 ∧
      (bucketed.reqs.takeWhile fun y => y.id != 1) = [] ∧ ctxAt bucketed 0 = some metered ∧ isRemote farReq.core farReq.loc = true ∧
      bucketSize bucketed 0 (tokenClass farReq.op) ≠ 0 ∧ 256 * farReq.cost ≤ metered.levels[coreDie 0][tokenClass farReq.op]) ∧
    (reqAt (withReq peerReq) 1 = some peerReq ∧ peerReq.held = false ∧ peerReq.reply = none ∧ (1 : DieId).val = (2 : Fin 8).val / 2 ∧
      returnsValue peerReq = true) ∧
    0 < 8 * Config.stackBytes ∧ granted onW 0 0 = true ∧ granted onW 1 0 = false ∧ linePending onW (lineOf 0) = false ∧ onW.reqs = [] :=
  ⟨⟨⟨{ line := 5, e := 700 }, by decide +kernel⟩, { line := 6, poison := true }, by decide +kernel⟩,
   ⟨by decide +kernel, ⟨probeEntry, by decide +kernel⟩, by decide +kernel⟩, by decide +kernel⟩

/-- A copy of 128 bytes in shared memory, with an arrival word and slot 3 of the ring; and a request with a kind that does not exist. -/
def copyReq (kind : Nat) : CopyReq :=
  { raw := BitVec.ofNat 512 (natLE (bytesLE 8 0x8000000000000100 ++ bytesLE 8 0x8000000000000800 ++ bytesLE 8 128 ++ bytesLE 8 0 ++ bytesLE 8 0 ++
      bytesLE 4 0x140 ++ bytesLE 4 0x200 ++ bytesLE 8 (0x300 + kind))),
    id := 50, team := 1, ctx := 0, who := .frag 0 0, place := none, agent := 0, wisn := 0, pc := 0 }
/-- A gather of two elements of 64 bytes, whose indices are at 0x400000. -/
def gather : CopyReq :=
  { copyReq 2 with raw := BitVec.ofNat 512 (natLE (bytesLE 8 0x8000000000000100 ++ bytesLE 8 0x8000000000000800 ++ bytesLE 4 64 ++ bytesLE 4 2 ++ bytesLE 8 0 ++
      bytesLE 8 0x400000 ++ bytesLE 4 0x140 ++ bytesLE 4 0x200 ++ bytesLE 8 0x302)) }
def kicked (q : CopyReq) : State := setCore tabled 0 { core with copyQ := [q] }
def copying (c : Copy) : State := setCore onW 0 { core with copies := [c] }
def begun : Copy := { id := 7, req := copyReq 0, written := 64, lines := [(0, 16, 64)] }
def moved : Copy := { begun with moved := true, written := 128, counted := 128, lines := [(0, 16, 0)] }

theorem reach_meets {α : Type} {r : Reach α} {p : α → Prop} [∀ a, Decidable (p a)]
    (h : (match r with | .ok a => decide (p a) | _ => false) = true) : ∃ a, r = .ok a ∧ p a := by
  cases r with
  | ok a => exact ⟨a, rfl, of_decide_eq_true h⟩
  | _ => exact Bool.noConfusion h

theorem meets_CopiesProceed_accepts :
    (∀ q ∈ [copyReq 0, copyReq 9, gather], (coreAt (kicked q) 0).copyQ = [q] ∧ (kicked q).reqs = [] ∧ engineStarved (kicked q) 0 none = false ∧
      ∀ f : FragId, (match fragAt (coreAt (kicked q) 0) f with | some { state := .wait _ .copyQueue, .. } => false | _ => true) = true) ∧
    (copyBad (kicked (copyReq 9)) (copyReq 9) = true ∧ copyBad (kicked (copyReq 0)) (copyReq 0) = false ∧ copyBad (kicked gather) gather = false ∧
      copyIndices (copyReq 0) ≤ (copyReq 0).idx.length ∧ gather.idx.length < copyIndices gather) ∧
    (∃ ls, allLines (kicked (copyReq 0)) 0 (copyReq 0) = .ok ls ∧ ls.length ≠ 0) ∧
    ∃ u, readIndices (kicked gather) 0 gather = .ok u ∧ u.2.idx.length = 2 :=
  ⟨by decide +kernel, by decide +kernel, reach_meets (by decide +kernel), reach_meets (by decide +kernel)⟩

theorem meets_CopiesProceed_completes :
    (copyAt (copying begun) 0 7 = some begun ∧ reqField begun.req 0x28 0 32 ≠ 0xFFFFFFFF ∧ begun.written ≠ begun.counted ∧ begun.moved = false ∧
      copyReady (copying begun) begun = true ∧ (seatAt (coreAt (copying begun) 0) begun.req.team).isSome = true) ∧
    (copyAt (copying moved) 0 7 = some moved ∧ copyReady (copying moved) moved = true ∧ (moved.lines.filter fun l => l.2.2 = 0) ≠ []) ∧
    (copyWritten (copying moved) 0 moved = true ∧ moved.committed = false ∧ reqField moved.req 0x28 32 32 ≠ 0xFFFFFFFF) ∧
    ringAt (copying moved) 0 1 (reqField moved.req 0x28 32 32) = some ring ∧ slotAcquired (copying moved) ring (reqField moved.req 0x30 8 8) = true := by
  decide +kernel

/-! ### Waiters -/

/-- The fragment, or the strand's bundle, waits. -/
def waitF (i : Instr) (c : WaitFor) : Frag := { fr with state := .wait i c }
def stallS (r : Stall) : Strand := { sd with stall := some r }

theorem atF_has (y : Frag) (h : y.warp = 0) : fragAt (coreAt (atF y) 0) 0 = some y ∧ warpAt (coreAt (atF y) 0) y.warp = some wp := by
  rw [show coreAt (atF y) 0 = setFrag core 0 (some y) from coreAt_setCore onW 0 _, h]
  exact ⟨fragAt_setFrag core 0 _, by rw [warpAt_setFrag]; decide +kernel⟩

theorem waits_there (i : Instr) (c : WaitFor) : fragAt (coreAt (atF (waitF i c)) 0) 0 = some (waitF i c) ∧
    warpAt (coreAt (atF (waitF i c)) 0) (waitF i c).warp = some wp := atF_has _ (by show fr.warp = 0; decide +kernel)

/-- The environment of the waiting op. -/
abbrev waitE (i : Instr) (c : WaitFor) : WarpEnv := waitEnv (atF (waitF i c)) i on 0 0 (waitF i c) wp

/-- A wait of the fragment on shared memory at an offset that a once-op names. -/
abbrev SharedWait (i : Instr) (c : WaitFor) (srcs dsts : List Reg) (a : Reg) (log off : Nat) : Prop :=
  fragAt (coreAt (atF (waitF i c)) 0) 0 = some (waitF i c) ∧ warpAt (coreAt (atF (waitF i c)) 0) (waitF i c).warp = some wp ∧
  OnceClean (waitE i c) srcs dsts ∧
  sharedTarget (atF (waitF i c)) (warpIssue (atF (waitF i c)) (waitE i c)) (leadAddr (waitE i c) a) log (leadOnly (waitE i c)) = .ok (0, off)

/-- The tile's holder and its giver's offer stand; a fragment, and a strand, waits for it. -/
theorem meets_WaitersWake_once : SameSel wp 0 ∧
    (SharedWait (.await on 20) (.await (.shared 0 1 0x100)) [20, 21] [] 20 2 0x100 ∧
      natLE (sharedBytes (atF (waitF (.await on 20) (.await (.shared 0 1 0x100)))) 0 wp.team 0x100 4) = 0) ∧
    (strandAt (coreAt (atS 6 (stallS (.await (.shared 0 1 0x100)))) 0) 0 = some (stallS (.await (.shared 0 1 0x100))) ∧
      natLE (sharedBytes (atS 6 (stallS (.await (.shared 0 1 0x100)))) 0 1 0x100 4) = 0) ∧
    (SharedWait (.racq on 2 22) (.ring (.shared 0 1 0x200) false) [22, 23] [2, 3] 22 6 0x200 ∧
      ringAt (atF (waitF (.racq on 2 22) (.ring (.shared 0 1 0x200) false))) 0 wp.team 0x200 = some ring ∧
      slotReady (atF (waitF (.racq on 2 22) (.ring (.shared 0 1 0x200) false))) ring false = true) ∧
    (strandAt (coreAt (atS 6 (stallS (.ring (.shared 0 1 0x200) true))) 0) 0 = some (stallS (.ring (.shared 0 1 0x200) true)) ∧
      ringAt (atS 6 (stallS (.ring (.shared 0 1 0x200) true))) 0 1 0x200 = some ring ∧
      slotReady (atS 6 (stallS (.ring (.shared 0 1 0x200) true))) ring true = true) :=
  ⟨same_sel, ⟨⟨(waits_there _ _).1, (waits_there _ _).2, once_clean_of (by decide +kernel), except_is (by decide +kernel)⟩, by decide +kernel⟩,
   ⟨strand_atS 6 _, by decide +kernel⟩,
   ⟨⟨(waits_there _ _).1, (waits_there _ _).2, once_clean_of (by decide +kernel), except_is (by decide +kernel)⟩, by decide +kernel⟩,
   strand_atS 6 _, by decide +kernel⟩

theorem meets_WaitersWake_tiles :
    (fragAt (coreAt (atF (waitF (.take on 18) (.take 2))) 0) 0 = some (waitF (.take on 18) (.take 2)) ∧
      tileAt (coreAt (atF (waitF (.take on 18) (.take 2))) 0) wp.team 2 = some { owner := ownOffered (holderWarp 0) } ∧
      takeRes (atF (waitF (.take on 18) (.take 2))) 0 wp.team 2 (holderWarp (waitF (.take on 18) (.take 2)).warp) { owner := ownOffered (holderWarp 0) } = .done) ∧
    (strandAt (coreAt (atS 4 (stallS (.take 31))) 0) 0 = some (stallS (.take 31)) ∧
      tileAt (coreAt (atS 4 (stallS (.take 31))) 0) sd.team 31 = some { owner := ownFree } ∧
      takeRes (atS 4 (stallS (.take 31))) 0 sd.team 31 (holderStrand 0) { owner := ownFree } = .done) ∧
    (∃ x, fragAt (coreAt (atF x) 0) 0 = some x ∧ x.state = .parked (.presence [.shared 0 1 0x100]) ∧ present (atF x) 0 1 0x100 1 = true) ∧
    strandAt (coreAt (atS 6 (stallS (.presence [.shared 0 1 0x100]))) 0) 0 = some (stallS (.presence [.shared 0 1 0x100])) ∧
      present (atS 6 (stallS (.presence [.shared 0 1 0x100]))) 0 1 0x100 1 = true :=
  ⟨⟨(waits_there _ _).1, by decide +kernel⟩, ⟨strand_atS 4 _, by decide +kernel⟩,
   ⟨{ fr with state := .parked (.presence [.shared 0 1 0x100]) }, (atF_has _ (by show fr.warp = 0; decide +kernel)).1, rfl, by decide +kernel⟩,
   strand_atS 6 _, by decide +kernel⟩

/-- A JWAIT at a join that has been released. -/
def jwaiting : Frag := waitF (.jwait on 4 36) (.jwait 0x200 0x400200)

theorem meets_WaitersWake_joins : SameSel wp 0 ∧ ∀ js ∈ [JoinState.released, .failed],
    (∃ s e, s = joined js .pledged (atF jwaiting) ∧ e = waitEnv s (.jwait on 4 36) on 0 0 jwaiting wp ∧ fragAt (coreAt s 0) 0 = some jwaiting ∧
      warpAt (coreAt s 0) jwaiting.warp = some wp ∧ OnceClean e [36, 37] [4, 5] ∧
      joinAddr s (warpIssue s e) (.jwait on 4 36) (leadAddr e 36) = .ok (.dev 0x200) ∧ liveJoin s (.dev 0x200) = some (joinOf 0x200 js .pledged)) ∧
    ∃ s, s = joined js .pledged (atS 1 (stallS (.jwait 0x400200))) ∧ strandAt (coreAt s 0) 0 = some (stallS (.jwait 0x400200)) ∧
      joinAddr s (waitIssue s 0 0 (stallS (.jwait 0x400200))) (.jwait always 0 0) 0x400200 = .ok (.dev 0x200) ∧
      liveJoin s (.dev 0x200) = some (joinOf 0x200 js .pledged) := by
  refine ⟨same_sel, ?_⟩
  intro js hj
  simp only [List.mem_cons, List.not_mem_nil, or_false] at hj
  rcases hj with rfl | rfl <;> exact ⟨⟨_, _, rfl, rfl, (waits_there _ _).1, (waits_there _ _).2, once_clean_of (by decide +kernel),
    addr_ok (by decide +kernel), by decide +kernel⟩, _, rfl, strand_atS 1 _, addr_ok (by decide +kernel), by decide +kernel⟩

/-! ### Grids and teams -/

/-- A grid whose next team fits, with the turn of its queue; and a record at the head of a child queue. -/
def nextGrid : Grid := { grid with next := 0 }
def placing : State :=
  { onW with grids := [nextGrid], queues := onW.queues.set 0 (some { block := 0, ring := 0, ctx := 0, log2n := 4, quantum := 1, cls := 0, head := 0, tail := 0, deficit := 1 }),
             dies := onW.dies.set 0 { onW.dies[0] with turn := Vector.replicate 4 129 } }
def polling : State :=
  { onW with dies := onW.dies.set 0 { onW.dies[0] with children := [{ ctx := 0, recs := [{ raw := probeRecord, parent := 1, depth := 1 }] }] } }

theorem head_meets {r : HeadRes} {p : State → Head → Prop} [∀ u h, Decidable (p u h)]
    (h : (match r with | .ok u h => decide (p u h) | _ => false) = true) : ∃ u h, r = .ok u h ∧ p u h := by
  cases r with
  | ok u x => exact ⟨u, x, rfl, of_decide_eq_true h⟩
  | _ => exact Bool.noConfusion h

/-- The team that has ended, and its grid, without and with an event to signal. -/
def signalled : Grid := { grid with ended := true, raw := grid.raw ||| (0x800000#1024 <<< 0x380) }
def ended (g : Grid) : State := { tabled with teams := [{ team with status := .record }], grids := [{ g with ended := true }] }

/-- The child queue and the overflow ring are full, and 2000 ticks have passed. -/
def spilling (s : State) : State :=
  { s with tick := 2000, dies := (queued 64 [] false 16).dies,
           ctxs := onW.ctxs.set 0 (some { ctx with ovtail := 16, spilled := List.replicate 16 { die := 0, parent := 1, depth := 1 } }) }
def spillF : Frag := waitF (.launch on 4 32) (.spill probeRecord 0)
def spillHold : Hold := { i := .launch on 4 32, slot := 1, cond := .spill probeRecord 0, pc := 0, clock := 0 }
def spillS : Strand := { sd with holds := [spillHold] }

theorem enq_full {r : Enqueued} (h : (match r with | .full => true | _ => false) = true) : r = .full := by
  cases r with
  | full => rfl
  | _ => exact Bool.noConfusion h

theorem meets_GridsAndTeamsProceed_starts :
    (dieReady placing 0 = true ∧ launchHeld placing 0 = false ∧ queueGrid placing 0 64 = some nextGrid ∧ nextGrid.cls = (0 : Fin 4).val ∧
      ctxRuns placing 0 = true ∧ (findPlace placing nextGrid.raw 0 0).isSome = true ∧ nextGrid.again = [] ∧ recBits nextGrid.raw 0x40 0 64 = 0 ∧
      (dieAt placing 0).turn[(0 : Fin 4)] = 2 * 64 + 1 ∧ queueInfo placing 0 64 = some (0, 1, 1)) ∧
    dieReady polling 0 = true ∧ launchHeld polling 0 = false ∧ queueInfo polling 0 0 = some (0, 0, 1) ∧ ctxRuns polling 0 = true ∧
      queueGrid polling 0 0 = none ∧ pollDue polling 0 0 = true ∧ (∀ c, unspills polling c = false) ∧
      ∃ u h, readHead polling 0 0 = .ok u h ∧ (match readEvents u 0 (.queue 0 0) h.raw with | .satisfied _ => true | _ => false) = true :=
  ⟨by decide +kernel, by decide +kernel, by decide +kernel, by decide +kernel, by decide +kernel, by decide +kernel, by decide +kernel, by decide +kernel,
   head_meets (by decide +kernel)⟩

theorem meets_GridsAndTeamsProceed_ends :
    (teamAt (ended grid) 1 = some { team with status := .record } ∧ { team with status := .record } ∈ (ended grid).teams ∧ childrenLeft (ended grid) 1 = false ∧ memberOf (ended grid) 1 = none) ∧
    (∀ g ∈ [grid, signalled], gridAt (ended g) 2 = some { g with ended := true } ∧ { g with ended := true } ∈ (ended g).grids ∧ launchHeld (ended g) g.die = false ∧ (ended g).reqs = [] ∧
      (∀ tm ∈ (ended g).teams, tm.hz = 0 ∨ tm.hz < (ended g).tick) ∧ g.hz = 0) ∧ recBits grid.raw 0x70 0 64 = 0 ∧ recBits signalled.raw 0x70 0 64 = 0x800000 ∧
    (∃ cell lease pte, translateUnit (ended signalled) 0 (.grid 2) .write 0x800000 = .ok (.dev cell) lease pte ∧ linePending (ended signalled) (lineOf cell) = false) ∧
    (ended signalled).memOk :=
  ⟨by decide +kernel, by decide +kernel, by decide +kernel, by decide +kernel, ⟨pkgCell 0x800000, 512, 0xF, by decide +kernel⟩,
   by decide +kernel, onW_ok.host, onW_ok.shared⟩

theorem meets_GridsAndTeamsProceed_spills :
    (∃ s e, s = spilling (atF spillF) ∧ e = waitEnv s (.launch on 4 32) on 0 0 spillF wp ∧ fragAt (coreAt s 0) 0 = some spillF ∧
      warpAt (coreAt s 0) spillF.warp = some wp ∧ 0 + 2000 ≤ s.tick ∧ enqueue s (warpIssue s e) probeRecord = .full) ∧
    ∃ s, s = spilling (atS 1 spillS) ∧ strandAt (coreAt s 0) 0 = some spillS ∧ spillS.holds = [spillHold] ∧ 0 + 2000 ≤ s.tick ∧
      enqueue s (holdIssue s 0 0 spillS spillHold) probeRecord = .full :=
  ⟨⟨_, _, rfl, rfl, (waits_there _ _).1, (waits_there _ _).2, by decide +kernel, enq_full (by decide +kernel)⟩,
   _, rfl, strand_atS 1 _, rfl, by decide +kernel, enq_full (by decide +kernel)⟩

/-! ### Joins, warps and pages -/

/-- A join at quorum. -/
def atQuorum (ms : MemberState) (filled : Option (Nat × Bool)) : Join := { joinOf 0x200 .quorum ms with filled := filled }
def ending (j : Join) : State := { onW with joins := [j], tick := 2000 }

theorem meets_JoinsAndWarpsMove_joins :
    (∃ j, joinAt (ending (atQuorum .killing none)) 0x200 = some j ∧ j.state ≠ .opened ∧ j.qtick.toNat + joinDeadline j.desc ≤ 2000 ∧
      ((List.range j.members.length).filter fun i => (j.members[i]?).any fun m => m.state == .killing) ≠ []) ∧
    ∀ fl ∈ [none, some (5, true), some (5, false)], ∃ j, joinAt (ending (atQuorum .arrived fl)) 0x200 = some j ∧ j.state = .quorum ∧ j.busy = none ∧
      membersAll j (fun _ => true) = true ∧ membersAll j (·.retired) = false ∧ j.filled = fl ∧ joinFill j.desc = 0 ∧ 5 < (ending j).tick := by
  refine ⟨⟨atQuorum .killing none, by decide +kernel⟩, ?_⟩
  intro fl hf
  refine ⟨atQuorum .arrived fl, ?_⟩
  simp only [List.mem_cons, List.not_mem_nil, or_false] at hf
  rcases hf with rfl | rfl | rfl <;> decide +kernel

/-- A warp waits for a landing slot of die 1; and it does so where no core of that die has one. -/
def landing : Frag := waitF (.migr on 2 38) (.landing 1 0)
def crowded : State :=
  { atF landing with tick := 10000, cores := Vector.ofFn fun k => if k.val = 0 then coreAt (atF landing) 0 else
      { Core.reset with seats := [{ team := 9, tiles := List.replicate 512 { owner := 0 } }] } }

theorem meets_JoinsAndWarpsMove_warps :
    (fragAt (coreAt (atF landing) 0) 0 = some landing ∧ (migrDest (atF landing) 0 landing.warp wp 1).isSome = true) ∧
    warpAt (coreAt onW 0) 0 = some wp ∧ ((0, 0) : CoreId × WarpIx) ≠ (64, 64) ∧
    fragAt (coreAt crowded 0) 0 = some landing ∧ warpAt (coreAt crowded 0) landing.warp = some wp ∧ 0 + 10000 ≤ crowded.tick ∧ migrHome wp 1 = false ∧
      migrDest crowded 0 landing.warp wp 1 = none :=
  ⟨⟨(waits_there _ _).1, by decide +kernel⟩, by decide +kernel⟩

/-- Bytes at PKG-view addresses. -/
def puts (m : Memory) : List (Nat × List Byte) → Memory
  | [] => m
  | p :: ps => puts (memPut m (pkgCell p.1) p.2) ps

/-- The page at 0x800000 is the pager's: tables, its block, a pool of one frame, and the page's descriptor, in the 2 MiB at 0xA00000. -/
def paged (tail : Nat) : State :=
  { onW with
    dev := puts [] [(0, bytesLE 8 0x1001), (0x1000, bytesLE 8 0x2001), (0x2020, bytesLE 8 0x3001), (0x2028, bytesLE 8 0xF), (0x3000, bytesLE 8 0x800),
      (0x4000, bytesLE 8 0xA04800), (0x4008, bytesLE 8 (0x400000000 + 0x10000 * tail)), (0x4050, bytesLE 8 0xA05000), (0x4058, bytesLE 8 1),
      (0x4800, bytesLE 8 0x100000), (0x5008, bytesLE 8 0x800000), (0x5010, bytesLE 8 0x1000)],
    ctxs := onW.ctxs.set 0 (some { ctx with pager := 0xA04000 }) }

/-- A fill whose frame has been written, and one that waits for a frame. -/
def fillWork : FillWork := { old := 0x800, cell := pkgCell 0x3000, frame := 0x100, head := 0, w := 0 }
def filling : Fill := { ctx := 0, page := 0x800, pool := 0, start := some fillWork }
def starved : Fill := { ctx := 0, page := 0x800, pool := 0, empty := some 0 }

theorem fill_meets {r : FillRes} {p : FillPlan → Prop} [∀ x, Decidable (p x)]
    (h : (match r with | .ready x => decide (p x) | _ => false) = true) : ∃ x, r = .ready x ∧ p x := by
  cases r with
  | ready x => exact ⟨x, rfl, of_decide_eq_true h⟩
  | _ => exact Bool.noConfusion h

theorem fill_empty {r : FillRes} {v n : Nat} (h : (match r with | .empty a b => a == v && b == n | _ => false) = true) : r = .empty v n := by
  cases r with
  | empty a b => rw [Bool.and_eq_true] at h; rw [eq_of_beq h.1, eq_of_beq h.2]
  | _ => exact Bool.noConfusion h

theorem unit_some {r : Option (State × Nat)} (h : r.isSome = true) : ∃ v w, r = some (v, w) := by
  cases r with
  | some p => exact ⟨p.1, p.2, rfl⟩
  | none => exact Bool.noConfusion h

theorem meets_JoinsAndWarpsMove_pages :
    (fillOf (paged 1) 0 0x800000 = none ∧ onlyFailed (paged 1) 0 0x800000 = false ∧ (paged 1).fills = [] ∧
      ∃ p, fillPlan (paged 1) 0 0x800000 = .ready p ∧ (p.pool = 0 ∧ p.data.isSome = true ∧ frameOk (paged 1) p.new 4096 = true)) ∧
    (∃ s x, s = { paged 1 with fills := [filling] } ∧ fillOf s 0 0x800000 = some filling ∧ filling.start = some fillWork ∧
      linePending s (lineOf fillWork.cell) = false ∧ BitVec.ofNat 64 (devNat s fillWork.cell 8) = fillWork.old ∧ ctxAt s 0 = some x ∧
      ∃ v w, unitWrite (homeStore (dropFill s 0 0x800000) fillWork.cell (bytesLE 8 (filledPte fillWork.old (4096 * fillWork.frame)).toNat)).1 0
        (x.pager + BitVec.ofNat 64 (16 * filling.pool + 8)) (bytesLE 2 (fillWork.head + 1)) = some (v, w)) ∧
    (∃ y, y = { fillWork with old := 1 } ∧ BitVec.ofNat 64 (devNat { paged 1 with fills := [{ filling with start := some y }] } y.cell 8) ≠ y.old) ∧
    ∃ s, s = { paged 0 with fills := [starved], tick := 1000000 } ∧ fillOf s 0 0x800000 = some starved ∧ starved.start = none ∧
      fillPlan s 0 0x800000 = .empty 0 1000000 ∧ 0 + 1000000 ≤ s.tick :=
  ⟨⟨by decide +kernel, by decide +kernel, by decide +kernel, fill_meets (by decide +kernel)⟩,
   ⟨_, { ctx with pager := 0xA04000 }, rfl, by decide +kernel, by decide +kernel, by decide +kernel, by decide +kernel, by decide +kernel,
    unit_some (by decide +kernel)⟩,
   ⟨_, rfl, by decide +kernel⟩, _, rfl, by decide +kernel, rfl, fill_empty (by decide +kernel), by decide +kernel⟩

/-! ### Pre-emption, observers and the host -/

/-- The team and its grid as given. -/
def withTeam (tm : Team) (g : Grid) : State := { onW with teams := [tm], grids := [g], tick := 20000 }
def idem : Grid := { grid with raw := grid.raw ||| (1#1024 <<< 344) }
def patched : Grid := { grid with runNum := 1 }
def wide : Team := { team with sets := List.replicate 65 0 }
def saving : Team := { team with status := .saving }
def saved : Team := { team with status := .saved }
def draining : Team := { team with drain := some 0 }

theorem not_must {s : State} {tm : Team} (h : memberOf s tm.id = none ∧ tm.sets.length ≤ 64 ∧ teamHasStopped s tm = false) : ¬MustSave s tm := by
  rintro (⟨j, i, m, hm, -⟩ | hl | hs)
  · rw [h.1] at hm; cases hm
  · omega
  · rw [h.2.2] at hs; cases hs


/-- Every other core is as at reset. -/
theorem far_core {k : CoreId} (h : k ≠ 0) : coreAt onW k = Core.reset := by
  have : (0 : Nat) ≠ k.val := fun e => h (Fin.ext e.symm)
  unfold onW base
  simp [coreAt, State.reset, this]

/-- The team's one warp is warp 0 of core 0. -/
theorem one_warp {s : State} (hc : s.cores = onW.cores) {tm : Team} (h2 : tm.id = 1) {p : CoreId × WarpIx} (hp : p ∈ teamWarpsAt s tm) : p = (0, 0) := by
  have e : ∀ k, coreAt s k = coreAt onW k := fun k => by simp [coreAt, hc]
  have hw : allWarps.filter (warpOf Core.reset 1) = [] := by decide +kernel
  have w0 : allWarps.filter (warpOf core 1) = [0] := by decide +kernel
  unfold teamWarpsAt at hp
  obtain ⟨k, -, hk⟩ := List.mem_flatMap.mp hp
  obtain ⟨w, hw', rfl⟩ := List.mem_map.mp hk
  by_cases k0 : k = 0
  · subst k0
    rw [e, coreAt_onW, h2, w0, List.mem_singleton] at hw'
    rw [hw']
  · rw [e, far_core k0, h2, hw] at hw'
    cases hw'

theorem one_frag {s : State} (hc : s.cores = onW.cores) : placeFrags s 0 0 = [(0, fr)] := by
  have e : coreAt s 0 = core := by rw [← coreAt_onW]; simp [coreAt, hc]
  rw [placeFrags, e]
  decide +kernel

theorem one_strand {s : State} {tm : Team} (h1 : tm.cores = [0]) {p : CoreId × StrandId}
    (hp : p ∈ teamStrandsAt s tm) : p.1 = 0 := by
  rw [teamStrandsAt, h1, List.flatMap_cons, List.flatMap_nil, List.append_nil] at hp
  obtain ⟨n, -, rfl⟩ := List.mem_map.mp hp
  rfl

/-- None of the team's agents is STOPPED. -/
theorem none_stopped {s : State} (hc : s.cores = onW.cores) (tm : Team) (h1 : tm.cores = [0]) (h2 : tm.id = 1) : teamHasStopped s tm = false := by
  have e : coreAt s 0 = core := by rw [← coreAt_onW]; simp [coreAt, hc]
  refine Bool.or_eq_false_iff.mpr ⟨List.any_eq_false.mpr fun p hp => ?_, List.any_eq_false.mpr fun p hp => ?_⟩
  · rw [one_strand h1 hp, e]
    generalize p.2 = n
    revert n; decide +kernel
  · rw [one_warp hc h2 hp, one_frag hc]
    decide +kernel

theorem save_ready {s : State} (hc : s.cores = onW.cores) (tm : Team) (h1 : tm.cores = [0]) (h2 : tm.id = 1) (hr : s.reqs = []) : saveReady s tm = true := by
  have e : coreAt s 0 = core := by rw [← coreAt_onW]; simp [coreAt, hc]
  refine Bool.and_eq_true_iff.mpr ⟨Bool.and_eq_true_iff.mpr ⟨Bool.and_eq_true_iff.mpr ⟨by rw [hr]; rfl, ?_⟩, List.all_eq_true.mpr fun p hp => ?_⟩,
    List.all_eq_true.mpr fun p hp => ?_⟩
  · have : core.copies = [] := by decide +kernel
    rw [copiesOpen, h1, List.any_cons, List.any_nil, Bool.or_false, e, this]
    rfl
  · rw [one_warp hc h2 hp, one_frag hc]
    decide +kernel
  · rw [one_strand h1 hp, e]
    generalize p.2 = n
    revert n; decide +kernel

theorem meets_TeamsLeaveCores_placed :
    (∀ g ∈ [grid, idem, patched], teamAt (withTeam team g) 1 = some team ∧ team ∈ (withTeam team g).teams ∧ gridAt (withTeam team g) team.grid = some g ∧ g ∈ (withTeam team g).grids ∧ memberOf (withTeam team g) team.id = none) ∧
    (∀ tm ∈ [wide, draining], teamAt (withTeam tm grid) 1 = some tm ∧ tm ∈ (withTeam tm grid).teams ∧ gridAt (withTeam tm grid) tm.grid = some grid) ∧
    team.status = .placed ∧ wide.status = .placed ∧ draining.status = .placed ∧ 64 < wide.sets.length := by decide +kernel

theorem meets_TeamsLeaveCores_choices :
    (∀ g ∈ [grid, idem, patched], ¬MustSave (withTeam team g) team) ∧ DrainsSoon (withTeam team patched) team patched ∧
    (∀ g ∈ [grid, idem], ¬DrainsSoon (withTeam team g) team g) ∧ teamIdem grid = false ∧ teamIdem idem = true ∧ copiesOpen (withTeam team idem) team = false ∧ (withTeam team idem).reqs = [] ∧
    (team.drain = none ∧ wide.drain = none ∧ draining.drain = some 0 ∧ 0 + 20000 ≤ (withTeam draining grid).tick) := by
  refine ⟨fun g _ => not_must ⟨rfl, by decide, none_stopped rfl _ rfl rfl⟩, by unfold DrainsSoon; decide +kernel, by unfold DrainsSoon; decide +kernel,
    by decide +kernel⟩

theorem meets_TeamsLeaveCores_moves :
    (teamAt (withTeam saving grid) 1 = some saving ∧ saving ∈ (withTeam saving grid).teams ∧ saving.status = .saving ∧ saveReady (withTeam saving grid) saving = true ∧
      teamAlive (withTeam saving grid) saving = true ∧ ∀ b ∈ saving.blocks, blockWaits (withTeam saving grid) saving.ctx b false = false) ∧
    teamAt (withTeam saved grid) 1 = some saved ∧ saved ∈ (withTeam saved grid).teams ∧ gridAt (withTeam saved grid) saved.grid = some grid ∧ saved.status = .saved ∧
      ctxRuns (withTeam saved grid) saved.ctx = true ∧ needsHost saved = false ∧ launchHeld (withTeam saved grid) grid.die = false ∧
      (fitPlace (withTeam saved grid) grid.raw grid.die).isSome = true ∧ (∀ b ∈ saved.blocks, blockWaits (withTeam saved grid) saved.ctx b true = false) ∧
      ∀ p ∈ saved.image.zip ([0] : List CoreId), poolFits (withTeam saved grid) p.1 p.2 = true :=
  ⟨⟨by decide +kernel, by decide +kernel, by decide +kernel, save_ready rfl _ rfl rfl (by decide +kernel), by decide +kernel⟩, by decide +kernel⟩

/-- The sampler of core 0 takes a sample in this cycle, of context c. -/
def sampling (c : CtxId) : State :=
  setCore tabled 0 { core with sampler := { en := true, period := 5, ctx := c, base := 0x800000, count := 1 } }

theorem setCore_ok {s : State} {c : Core} (h : s.memOk) (hc : ∀ x ∈ c.seats ++ c.ended, Memory.wf x.shared = true) : (setCore s 0 c).memOk where
  dev := h.dev
  host := h.host
  shared := by
    intro k x hx
    by_cases hk : k = 0
    · rw [hk, coreAt_setCore] at hx; exact hc x hx
    · rw [coreAt_setCore_ne s c hk] at hx; exact h.shared k x hx

/-- Halted agents under a debugger. -/
def haltedF : Frag := { fr with state := .halted 2 .ready }
def haltedS : Strand := { sd with state := .halted 2 .ready }

theorem meets_ObserversWork :
    (∀ c ∈ [(0 : CtxId), 1], ∃ x, x = (coreAt (sampling c) 0).sampler ∧ x.en = true ∧ x.since < (coreAt (sampling c) 0).cycle ∧
      ((coreAt (sampling c) 0).cycle - x.since) % x.period.toNat = 0) ∧ sampleSlot (sampling 1) 0 = none ∧ sampleSlot (sampling 0) 0 = some 0 ∧
    (∃ u, u = modSampler (sampling 0) 0 (fun z => { z with ptr := 1 }) ∧ (sampleFrag u 0 0).isSome = true ∧
      ∃ cell lease b, translateWalk u 0 .write 0x800000 = .ok (.dev cell) lease b) ∧ (sampling 0).memOk ∧
    dbgRight onW 0 = false ∧ dbgRight (armed onW) 0 = true ∧ dbgTarget (armed onW) 0 (.frag 1 0) = .absent ∧ dbgTarget (armed onW) 0 (.frag 0 0) = .running ∧
    (fragAt (coreAt (armed onW) 0) 0 = some fr ∧ warpAt (coreAt (armed onW) 0) fr.warp = some wp ∧ teamCtx (armed onW) wp.team = 0 ∧ fr.state = .ready) ∧
    (fragAt (coreAt (armed (atF haltedF)) 0) 0 = some haltedF ∧ warpAt (coreAt (armed (atF haltedF)) 0) haltedF.warp = some wp) ∧
    strandAt (coreAt (armed (atS 0 haltedS)) 0) 0 = some haltedS ∧ teamCtx (armed (atS 0 haltedS)) haltedS.team = 0 := by
  refine ⟨?_, by decide +kernel, by decide +kernel, ⟨_, rfl, by decide +kernel, pkgCell 0x800000, 512, 0xF, by decide +kernel⟩, ?_, by decide +kernel⟩
  · intro c hc
    refine ⟨_, rfl, ?_⟩
    simp only [List.mem_cons, List.not_mem_nil, or_false] at hc
    rcases hc with rfl | rfl <;> decide +kernel
  · exact setCore_ok ⟨by decide +kernel, onW_ok.host, onW_ok.shared⟩ (by decide +kernel)

/-- A stop-all finds the team's fragment and strand, with no kill pending. -/
theorem meets_ObserversWork_stops : dbgRight (armed onW) 0 = true ∧ (∀ k ix w, warpAt (coreAt (armed onW) k) ix = some w → w.kill = false) ∧
    (∀ k n x, strandAt (coreAt (armed onW) k) n = some x → x.kill = false) ∧ team ∈ (armed onW).teams ∧ team.ctx = 0 ∧
    (fragAt (coreAt (armed onW) 0) 0 = some fr ∧ ((0, fr.warp) : CoreId × WarpIx) ∈ teamWarpsAt (armed onW) team ∧ haltsNow fr.state = false ∧
      haltsNow (waitF (.await on 20) (.await (.shared 0 1 0x100))).state = true) ∧
    strandAt (coreAt (armed onW) 0) 0 = some sd ∧ ((0, 0) : CoreId × StrandId) ∈ teamStrandsAt (armed onW) team := by
  have e : ∀ k, coreAt (armed onW) k = coreAt onW k := fun _ => rfl
  have hw : ∀ ix, (warpAt core ix).all (!·.kill) = true ∧ warpAt Core.reset ix = none := by decide +kernel
  have hs : ∀ n, (strandAt core n).all (!·.kill) = true ∧ strandAt Core.reset n = none := by decide +kernel
  have hm : ((0, fr.warp) : CoreId × WarpIx) ∈ teamWarpsAt (armed onW) team := by
    refine List.mem_flatMap.mpr ⟨0, List.mem_finRange 0, ?_⟩
    decide +kernel
  refine ⟨by decide +kernel, fun k ix w h => ?_, fun k n x h => ?_, by decide +kernel, by decide +kernel,
    ⟨by decide +kernel, hm, by decide +kernel, by decide +kernel⟩, by decide +kernel, by decide +kernel⟩ <;> rw [e] at h <;> by_cases k0 : k = 0
  · rw [k0, coreAt_onW] at h
    simpa [h] using (hw ix).1
  · rw [far_core k0, (hw ix).2] at h
    cases h
  · rw [k0, coreAt_onW] at h
    simpa [h] using (hs n).1
  · rw [far_core k0, (hs n).2] at h
    cases h

/-- A write of the window that waits, a queue, and a port with a command. -/
def write0 : Posted := { id := 1, addr := 0x100, data := [1, 2], reg := false, ro := false }
def posted : State := { onW with ports := onW.ports.set 0 { Port.reset with posted := [write0] } }
def queue : Queue := { block := 0, ring := 0, ctx := 0, log2n := 4, quantum := 1, cls := 0, head := 0, tail := 0 }
def cmd (s : State) (n : Byte) (a : Vector W64 4) : State := { s with ports := s.ports.set 0 { Port.reset with hcmd := n, hstat := 1, args := a } }
def withQueue : State := { onW with queues := onW.queues.set 0 (some queue), grids := [] }

theorem meets_HostAccessesComplete :
    (dieReady State.reset 0 = false ∧ dieReady onW 0 = true ∧ (portAt onW 0).posted = [] ∧ (portAt onW 0).hstat ≠ 1 ∧ queueAt withQueue 0 = some queue ∧
      queue.closing = false ∧ routeOk withQueue 0 (Fin.ofNat 4 0) = true ∧ ((16#32).extractLsb' 0 16 - queue.head).toNat ≤ 2 ^ queue.log2n) ∧
    (windowUp State.reset 0 = false ∧ windowUp onW 0 = true ∧ windowParts ((portAt onW 0).winbase.toNat + 0x100) [1, 2] ≠ [] ∧ routeOk onW 0 (coreDie 0) = true) ∧
    (posted.memOk ∧ windowUp posted 0 = true ∧ ((portAt posted 0).posted.filter fun x => x.done.isNone)[0]? = some write0 ∧
      ((portAt posted 0).posted.takeWhile fun x => x.id != write0.id) = []) ∧
    pkgPending onW ((portAt onW 0).winbase.toNat + 0x100) 8 = false :=
  ⟨by decide +kernel, by decide +kernel, ⟨⟨onW_ok.dev, onW_ok.host, onW_ok.shared⟩, by decide +kernel, by decide +kernel, by decide +kernel⟩, by decide +kernel⟩

theorem host_reads {r : HostRead} {p : List Byte → Prop} [∀ x, Decidable (p x)]
    (h : (match r with | .ok x => decide (p x) | _ => false) = true) : ∃ x, r = .ok x ∧ p x := by
  cases r with
  | ok x => exact ⟨x, rfl, of_decide_eq_true h⟩
  | _ => exact Bool.noConfusion h

/-- Every command is ready at a READY die with no restrike. -/
theorem command_ready (n : Byte) (a : Vector W64 4) : commandReady (cmd onW n a) 0 n = true := by
  have hd : dieReady (cmd onW n a) 0 = dieReady onW 0 := rfl
  have hh : commandsHeld (cmd onW n a) 0 = commandsHeld onW 0 := rfl
  have hp : portAt (cmd onW n a) 0 = { Port.reset with hcmd := n, hstat := 1, args := a } := by simp [cmd, portAt]
  have h1 : dieReady onW 0 = true := by decide +kernel
  have h2 : commandsHeld onW 0 = false := by decide +kernel
  simp only [commandReady, hd, hh, hp, h1, h2, beq_self_eq_true, Bool.not_false, Bool.and_self]

theorem meets_HostCommandsComplete_contexts :
    (∀ n c, commandReady (cmd onW n #v[c, 0x10000, 0, 0]) 0 n = true) ∧
    argCtx 0 = some 0 ∧ argCtx 1 = some 1 ∧ ctxAt onW 0 = some ctx ∧ ctxAt onW 1 = none ∧
    (∃ bs, hostRead (cmd onW 1 #v[1, 0x10000, 0, 0]) 0 0x10000 256 = .ok bs ∧ recordBad bs = true) ∧
    (∀ n c, fabricHeld (cmd onW n #v[c, 0x10000, 0, 0]) = false) ∧
    (∃ s : State, s = cmd (paged 1) 10 #v[0, 0, 0, 0] ∧ commandReady s 0 10 = true ∧ ∃ x, ctxAt s 0 = some x ∧
      (errqBlock { s with ctxs := s.ctxs.set 0 (some { x with errq := 0xA06000 }) } 0 { x with errq := 0xA06000 }).isSome = true ∧
      errqWaits { s with ctxs := s.ctxs.set 0 (some { x with errq := 0xA06000 }) } 0 { x with errq := 0xA06000 } = false) ∧
    (portAt (cmd onW 15 #v[0, 0x10000, 0, 0]) 0).posted = [] :=
  ⟨fun _ _ => command_ready .., by decide +kernel, by decide +kernel, by decide +kernel, by decide +kernel, host_reads (by decide +kernel),
   fun n c => (show fabricHeld (cmd onW n #v[c, 0x10000, 0, 0]) = fabricHeld onW from rfl).trans (by decide +kernel),
   ⟨_, rfl, by decide +kernel, { ctx with pager := 0xA04000 }, by decide +kernel⟩, by decide +kernel⟩

/-- A queue block of context 0, and one of context 1, at 0x10000 and 0x10040. -/
def blocks (s : State) : State := { s with dev := puts s.dev [(0x10008, bytesLE 8 4), (0x10048, bytesLE 8 0x10004)] }

theorem meets_HostCommandsComplete_queues :
    (commandReady (cmd withQueue 5 #v[0, 0x10000, 0, 0]) 0 5 = true ∧ argQueue 0 = some 0 ∧ queueBusy (cmd withQueue 5 #v[0, 0x10000, 0, 0]) 0 = false ∧
      queueAt (cmd withQueue 5 #v[0, 0x10000, 0, 0]) 0 = some queue ∧ queue.closing = false) ∧
    (∀ p ∈ [((0x10000 : W64), (0 : CtxId)), (0x10040, 1)], commandReady (cmd (blocks onW) 5 #v[1, p.1, 0, 0]) 0 5 = true ∧ argQueue 1 = some 1 ∧
      queueBusy (cmd (blocks onW) 5 #v[1, p.1, 0, 0]) 1 = false ∧ queueAt (cmd (blocks onW) 5 #v[1, p.1, 0, 0]) 1 = none ∧
      routeOk (cmd (blocks onW) 5 #v[1, p.1, 0, 0]) 0 (Fin.ofNat 4 (1 / 64)) = true ∧ (ctxAt (cmd (blocks onW) 5 #v[1, p.1, 0, 0]) 0).isSome = true ∧
      ∃ bs, hostRead (cmd (blocks onW) 5 #v[1, p.1, 0, 0]) 0 p.1.toNat 64 = .ok bs ∧ ((newQueue bs p.1.toNat).ctx = p.2 ∧
        (newQueue bs p.1.toNat).ring.toNat % 4096 = 0 ∧ 1 ≤ (newQueue bs p.1.toNat).log2n ∧ (newQueue bs p.1.toNat).log2n ≤ 12)) ∧
    commandReady (cmd withQueue 6 #v[0, 0, 0, 0]) 0 6 = true ∧ ∀ code ∈ [(0 : Byte), 16, 255], commandReady (cmd onW code #v[0, 0, 0, 0]) 0 code = true := by
  refine ⟨by decide +kernel, ?_, by decide +kernel⟩
  intro p hp
  simp only [List.mem_cons, List.not_mem_nil, or_false] at hp
  rcases hp with rfl | rfl <;> exact ⟨by decide +kernel, by decide +kernel, by decide +kernel, by decide +kernel, by decide +kernel, by decide +kernel,
    host_reads (by decide +kernel)⟩

/-- A die with a staged image. -/
def staged : State := { onW with dies := onW.dies.set 0 { onW.dies[0] with staged := some (1, {}, false, 1) } }

/-- Whether an image passes its checks is no matter of the state: signatures and digests are the configuration's. -/
theorem meets_HostCommandsComplete_images :
    (commandReady (cmd onW 11 #v[0x1000, 0, 0, 0]) 0 11 = true ∧ commandReady (cmd onW 11 #v[0x1001, 0, 0, 0]) 0 11 = true ∧
      (0x1000 : W64).toNat % 64 = 0 ∧ (0x1001 : W64).toNat % 64 ≠ 0) ∧
    (commandReady (cmd onW 12 #v[0x1000, 0x10000, 0, 0]) 0 12 = true ∧ (∀ d, routeOk (cmd onW 12 #v[0x1000, 0x10000, 0, 0]) 0 d = true) ∧ ∃ bs, hostRead (cmd onW 12 #v[0x1000, 0x10000, 0, 0]) 0 0x10000 32 = .ok bs ∧ bs.length = 32) ∧
    (commandReady (cmd onW 13 #v[1, 0x10000, 0, 0]) 0 13 = true ∧ argController 1 = some (1, 0) ∧ routeOk (cmd onW 13 #v[1, 0x10000, 0, 0]) 0 0 = true ∧
      (dieAt (cmd onW 13 #v[1, 0x10000, 0, 0]) 0).striking = none ∧ ∃ bs, hostRead (cmd onW 13 #v[1, 0x10000, 0, 0]) 0 0x10000 256 = .ok bs ∧ bs.length = 256) ∧
    commandReady (cmd staged 14 #v[1, 0, 0, 0]) 0 14 = true ∧ routeOk (cmd staged 14 #v[1, 0, 0, 0]) 0 0 = true ∧
      (∀ e, (dieAt (cmd staged 14 #v[1, 0, 0, 0]) e).striking = none) ∧ (dieAt (cmd staged 14 #v[1, 0, 0, 0]) 0).staged = some (1, {}, false, 1) :=
  ⟨by decide +kernel, ⟨by decide +kernel, by decide +kernel, host_reads (by decide +kernel)⟩,
   ⟨by decide +kernel, by decide +kernel, by decide +kernel, by decide +kernel, host_reads (by decide +kernel)⟩, by decide +kernel⟩

/-- Dies in bring-up, and in a restrike. -/
def inState (st : DieState) : State := { State.reset with dies := Vector.replicate 4 { Die.reset with state := st } }
def striking (x : Striking) (n : Nat) : State := { staged with dies := staged.dies.set 0 { staged.dies[0] with striking := some x }, tick := n }

/-- A hand-over record whose format is past what the image takes. -/
def badHand : HandOver := { format := 9, kind := 1, die := 0, len := 0, tick := 0, digest := 0, body := [] }

theorem meets_BringUpAndRestrikeProceed :
    (∀ st ∈ [DieState.selftest, .fwload, .link], (dieAt (inState st) 0).state = st ∧ fabricHeld (inState st) = false) ∧
    (∀ p ∈ [(({ ctl := 1 } : Striking), 40000), ({ ctl := 1, placeReady := true }, 1000000), ({ ctl := 0 }, 1000001), ({ ctl := 1 }, 40001),
        ({ ctl := 1, back := true }, 1000001), ({ ctl := 1, back := true }, 50000)], (dieAt (striking p.1 p.2) 0).striking = some p.1 ∧
      (striking p.1 p.2).tick = p.2 ∧ watchdog (dieAt (striking p.1 p.2) 0) = 1000000 ∧ (dieAt (striking p.1 p.2) 0).staged = some (1, {}, false, 1) ∧
      handOverFails (dieAt (striking p.1 p.2) 0) p.1 = false) ∧
    handOverFails { dieAt (striking { ctl := 1 } 0) 0 with hand := some badHand } { ctl := 1 } = true ∧
    dieReady onW 0 = true ∧ (dieAt onW 0).freq[(0 : Fin 8)] ≠ 3 := by decide +kernel

/-! ### Steps and frames -/

/-- The fragment with its next op fetched, and code bytes at the code's first address. -/
def readyF : Frag := { fr with fetched := true }
def coded (bs : List Byte) (c : Choice) : State := { atF readyF with dev := memPut [] (dieCell 0 0) bs, agenda := [c] }
def rest (bs : List Byte) (c : Choice) : State := { coded bs c with agenda := [] }

/-- POR P2, P1, P3; BRX's long form; and a bundle whose slot 0 is ADDI S3, S3, 1. -/
def porBytes : List Byte := bytesLE 4 0x58020431
def addiBundle : List Byte := bytesLE 4 0x28030C01 ++ List.replicate 28 0

theorem is_none {α : Type} {x : Option α} (h : x.isNone = true) : x = none := by cases x <;> simp_all

theorem code_at {s : State} {a : W64} {n : Nat} {bs : List Byte} {z p l : Nat} (h : a.toNat % n = 0 ∧ inRegion s 1 a = true ∧
    translate s 0 (teamCtx s 1) .fetch a.toNat = .ok (.dev z) p l ∧ devBytes s z n = bs) : CodeAt s 0 1 a n bs :=
  ⟨h.1, h.2.1, z, p, l, h.2.2⟩
/-- An op of 64 bits. -/
def ldo8 : Instr := .ldo on 4 16 .core .weak .b32 false 8
def ldoBytes : List Byte := bytesLE 4 ldo8.encode.toNat ++ bytesLE 4 8

theorem frag_turn : ∀ bs ∈ [porBytes, ldoBytes], FragTurn (rest bs (.frag 0 0)) 0 0 readyF wp := by
  have hf := atF_has readyF (by show fr.warp = 0; decide +kernel)
  have h : ∀ bs ∈ [porBytes, ldoBytes], fragRuns (rest bs (.frag 0 0)) 0 readyF = true ∧ (breakFrag (rest bs (.frag 0 0)) 0 0).isNone = true := by decide +kernel
  exact fun bs hb => { frag := hf.1, warp := hf.2, runs := (h bs hb).1, watch := by decide +kernel, steps := by decide +kernel,
                       break_ := is_none (h bs hb).2 }

/-- A fragment's turn at POR P2, P1, P3. -/
theorem meets_StepRunsDecodedOp_frag : ∃ s u, s = rest porBytes (.frag 0 0) ∧ (coded porBytes (.frag 0 0)).agenda = [.frag 0 0] ∧
    FragTurn s 0 0 readyF wp ∧ CodeAt s 0 1 readyF.pc 4 porBytes ∧ u = noteWalk s 0 (teamCtx s 1) readyF.pc.toNat ∧
    decode .warp (wordAt porBytes) 0 = .ok (.por on 2 1 3) ∧ fragCan u 0 0 readyF (.por on 2 1 3) = true ∧
    haltsBefore u 0 0 readyF (.por on 2 1 3) = none ∧ pairDiffers u 0 wp.team = false :=
  ⟨_, _, rfl, rfl, frag_turn _ (by decide), code_at (z := 0) (p := 512) (l := 0x8F) (by decide +kernel), rfl, by rfl, by decide +kernel, by decide +kernel,
   by decide +kernel⟩

/-- A fragment's turn at an LDO. -/
theorem meets_StepRunsDecodedOp_long : ∃ s u u' j bs bs', s = rest ldoBytes (.frag 0 0) ∧ bs = ldoBytes.take 4 ∧ bs' = ldoBytes.drop 4 ∧
    FragTurn s 0 0 readyF wp ∧ CodeAt s 0 1 readyF.pc 4 bs ∧ u = noteWalk s 0 (teamCtx s 1) readyF.pc.toNat ∧
    decode .warp (wordAt bs) 0 = .ok j ∧ j.isLong = true ∧ CodeAt u 0 1 (readyF.pc + 4) 4 bs' ∧
    u' = noteWalk u 0 (teamCtx u 1) (readyF.pc + 4).toNat ∧ decode .warp (wordAt bs) (wordAt bs') = .ok ldo8 ∧
    fragCan u' 0 0 readyF ldo8 = true ∧ haltsBefore u' 0 0 readyF ldo8 = none ∧ pairDiffers u' 0 wp.team = false :=
  ⟨_, _, _, .ldo on 4 16 .core .weak .b32 false 0, _, _, rfl, rfl, rfl, frag_turn _ (by decide), code_at (z := 0) (p := 512) (l := 0x8F) (by decide +kernel), rfl,
   by rfl, rfl, code_at (z := 4) (p := 512) (l := 0x8F) (by decide +kernel), rfl, by rfl, by decide +kernel, by decide +kernel, by decide +kernel⟩

theorem strand_turn : StrandTurn (rest addiBundle (.strand 0 0))
    (noteWalk (landDue (rest addiBundle (.strand 0 0)) 0 0) 0 (teamCtx (landDue (rest addiBundle (.strand 0 0)) 0 0) sd.team) sd.pc.toNat) 0 0 sd addiBundle where
  before := ⟨sd, by decide +kernel⟩
  noSkip := is_none (by decide +kernel)
  strand := by decide +kernel
  runs := by decide +kernel
  fresh := by decide +kernel
  code := by
    have h : sd.team = 1 := by decide +kernel
    rw [h]
    exact code_at (z := 0) (p := 512) (l := 0x8F) (by decide +kernel)
  fetched := rfl
  legal := is_none (by decide +kernel)
  ready := by decide +kernel
  earlier := by decide +kernel
  steps := by decide +kernel
  break_ := is_none (by decide +kernel)

/-- The bundle's one active slot, and what it leaves. -/
theorem meets_StepRunsDecodedOp_strand : ∃ s u, s = landDue (rest addiBundle (.strand 0 0)) 0 0 ∧ u = noteWalk s 0 (teamCtx s 1) sd.pc.toNat ∧
    slotsLeft sd addiBundle = [0] ∧ slotOp addiBundle 0 = .op (.addi on 3 3 1) ∧ (pairDiffers u 0 sd.team = false ∧ sd.segOpen = false) ∧
    (match exec (.addi on 3 3 1) { u with issuer := .strand 0 0 0, start := some (coreAt u 0) } with
      | .next t => (match strandAt (coreAt t 0) 0, strandAt (coreAt (extendGiven (carryGiven (noIssue t) 0 0) 0 0) 0) 0 with
          | some y, some z => y.fx.stall.isNone && !y.fx.rewind && y.fx.faults.isEmpty && !y.fx.close && z.fx.faults.isEmpty && z.fx.later.isEmpty && z.state == .ready
          | _, _ => false)
      | _ => false) = true := ⟨_, _, rfl, rfl, by decide +kernel, by rfl, by decide +kernel, by decide +kernel⟩

/-- The outcome of a step. -/
def moves (o : Out) : Bool := match o with | .next _ => true | _ => false
def passes (o : Out) : Bool := match o with | .refused .notEnabled => true | _ => false

theorem moves_on {o : Out} (h : moves o = true) : ∃ t, o = .next t := by
  cases o with
  | next t => exact ⟨t, rfl⟩
  | _ => exact Bool.noConfusion h

/-- The tokens refill whenever they are to; a team that is not to be saved is not. -/
theorem meets_StepRunsDecodedOp_events : onW.agenda = [] ∧ moves (exec .tokenRefill { onW with issuer := .none, start := none }) = true ∧
    passes (exec (.teamSave 1) { onW with issuer := .none, start := none }) = true := by decide +kernel

/-- A turn at POR P2, P1, P3 steps, from a state whose memories have their form. -/
theorem meets_StepKeepsMemoryForm : (coded porBytes (.frag 0 0)).memOk ∧ ∃ t, step (coded porBytes (.frag 0 0)) = .next t :=
  ⟨{ setCore_ok (s := { onW with dev := memPut [] (dieCell 0 0) porBytes, agenda := [.frag 0 0] }) (c := setFrag core 0 (some readyF))
        ⟨by decide +kernel, onW_ok.host, onW_ok.shared⟩ (by decide +kernel) with }, moves_on (by decide +kernel)⟩

theorem meets_EncodedOpsDecode : (Instr.limm on 3 0xFFFF 1).wf (.slot 0) = true ∧ ldo8.wf .warp = true ∧ ldo8.isLong = true ∧
    (Instr.por on 2 1 3).wf .warp = true ∧ (Instr.por on 2 1 3).isLong = false := by decide

theorem meets_DecodedWordsAreEncodings : decode .warp (wordAt (ldoBytes.take 4)) 8 = .ok ldo8 ∧ decode .warp 0x58020431 5 = .ok (.por on 2 1 3) := ⟨by rfl, by rfl⟩

theorem meets_LaneOpsFrame : ∃ r, laneRow (.add on 3 1 2) = some r ∧ LaneTakes onW (.add on 3 1 2) r.g 0 0 fr wp ∧
    LaneClean (laneEnv onW (.add on 3 1 2) r.g 0 0 fr wp) r.srcs r.dsts := ⟨_, rfl, warp_takes rfl, warp_clean ..⟩

theorem meets_StrandOpsFrame : ∃ r, slotRow (.add on 3 1 2) = some r ∧ SlotTakes (onS 0) (.add on 3 1 2) r.g 0 0 0 sd sd := ⟨_, rfl, slot_takes 0 rfl⟩

/-- A store to a shared memory, of no token. -/
def shStore : NewReq := { loc := .shared 0 1 0x300, len := 2, op := .store [7, 8] }

theorem meets_MemoryOpsFrame : LoadMeets (.ld on 8 16 .dev .sync .b16 true) ∧ (onW.memOk ∧ reqAt onW onW.nextId = none ∧ shStore.rel = none ∧
    shStore.after = [] ∧ shStore.hit = none ∧ (seatAt (coreAt onW 0) 1).isSome = true ∧ onW.reqs = [] ∧ shStore.cost = 0) :=
  ⟨⟨_, rfl, warp_takes rfl, warp_clean .., accs_pass (by decide +kernel)⟩, onW_ok, is_none (by decide +kernel), rfl, rfl, rfl, by decide +kernel, by decide +kernel, rfl⟩

/-- Predicate 1 is false everywhere. -/
theorem meets_GuardedOffOpsDoNothing : (FragIssues onW 0 0 fr wp ∧ (Instr.add ⟨false, 1⟩ 3 1 2).wf .warp = true ∧ guardless (.add ⟨false, 1⟩ 3 1 2) = false ∧
      partsOf wp fr.mask (guardOf (.add ⟨false, 1⟩ 3 1 2)) = 0#32) ∧
    SlotIssues (onS 0) 0 0 0 sd sd ∧ (Instr.add ⟨false, 1⟩ 3 1 2).wf (.slot 0) = true ∧
    opGuard (slotEnv (onS 0) (.add ⟨false, 1⟩ 3 1 2) 0 0 0 sd) (guardOf (.add ⟨false, 1⟩ 3 1 2)) = false :=
  ⟨⟨issues_W, by decide +kernel⟩, slot_issues 0, by decide +kernel⟩

/-! ## Words of the spec's encodings -/

/-- A word, and its extension, in a place is this op. -/
def reads (st : Stream) (w ext : W32) (i : Instr) : Bool := match decode st w ext with | .ok j => decide (j = i) | _ => false
/-- A word that is no op there. -/
def illegal (st : Stream) (w : W32) : Bool := match decode st w 0 with | .ok _ => false | _ => true

/-- The words of the spec's two worked listings (after R80): of a strip, and of a bundle. -/
theorem test_decode_strip : (reads .warp 0x44010040 0 (.movi on 1 0x40) && reads .warp 0x88021010 0x40 (.ldo on 2 4 .core .weak .b32 false 0x40) &&
    reads .warp 0x5412080A 0 (.cmpi on 2 .lt 2 10) && reads .warp 0x04BFFFFC 0 (.bra ⟨false, 2⟩ 0x3FFFFC) && reads .warp 3 0 (.exit on) &&
    illegal .warp 0x40) = true := by decide

theorem test_decode_bundle : (reads (.slot 0) 0x20050420 0 (.add on 5 1 2) && reads (.slot 1) 0x44060003 0 (.movi on 6 3) &&
    reads (.slot 2) 0xC0004183 0 (.mma on 0 16 24 3) && reads (.slot 3) 0xD0208620 0 (.tadd on 32 33 34) &&
    reads (.slot 6) 0x88071018 0x100 (.ldo on 7 4 .core .weak .b64 false 0x100)) = true := by decide

/-! Words of the families, by hand from R58 to R63: OP, GN and GP, then the fields of the format. -/
theorem test_decode_control : (reads (.slot 1) 0b000000_0_000_000000_000000_000000_0010 0 (.endOp on) &&
    illegal (.slot 0) 0b000011_0_000_000010_000010_0000000010 && reads (.slot 0) 0b000011_1_101_000010_000000_1000000000 0 (.loop ⟨true, 5⟩ 2 512) &&
    reads .warp 0b000100_0_000_000000_010100_000000_0001 0 (.callx on 20) && reads .warp 0b000101_0_001_000000_0000000000010010 0 (.trap ⟨false, 1⟩ 18) &&
    reads (.slot 1) 0b000111_0_000_000000_0000000000000000 0 (.nxt on 0)) = true := by decide

theorem test_decode_integer : (reads .warp 0b001000_1_111_000001_000010_110011_1101 0 (.shl ⟨true, 7⟩ 1 2 51) &&
    reads (.slot 0) 0b001001_0_000_000111_000110_001000_0110 0 (.bfe on 7 6 8) && reads .warp 0b001001_0_000_000110_000100_000010_1110 0 (.lea on 6 4 2 2) &&
    reads .warp 0b001010_0_000_000011_000011_1111111111 0 (.addi on 3 3 0x3FF) && reads (.slot 0) 0b010011_0_000_000101_0000000000000001 7 (.limm on 5 1 7)) = true := by
  decide

theorem test_decode_predicates : (reads (.slot 0) 0b010100_0_000_011_101_000101_000110_0001 0 (.cmp64 on 3 .ge 5 6) &&
    illegal .warp 0b010100_0_000_011_101_000101_000110_0001 && reads .warp 0b010110_0_000_000010_000001_000011_0001 0 (.por on 2 1 3) &&
    illegal .warp 0b010110_0_000_000010_001000_000011_0001) = true := by decide

theorem test_decode_float : (reads .warp 0b010111_0_000_000100_000001_000010_0010 0 (.fmul on 4 1 2) && reads .warp 0b011000_0_000_000100_000001_000010_0101 0 (.ffma on 4 1 2 .rz) &&
    reads .warp 0b011010_0_000_000110_000010_000011_1011 0 (.pfma2 on 6 2 3 true) && reads .warp 0b011011_0_000_000110_000010_000000_0000 0 (.xexp2 on 6 2) &&
    reads .warp 0b011100_0_000_000100_010010_010000_0010 0 (.cvtn on 4 18 16)) = true := by decide

theorem test_decode_lanes : (reads .warp 0b011101_0_000_001100_001000_001010_0110 0 (.shflXor on 12 8 10) && reads .warp 0b011101_0_000_000011_000010_000000_0010 0 (.voteBal on 3 2) &&
    reads (.slot 0) 0b011110_0_000_001001_0000_000000001001 0 (.srd on 9 9) && reads (.slot 1) 0b011110_0_000_000010_1000_000000010000 0 (.swr on 2 16) &&
    reads (.slot 4) 0b011111_0_000_000000_000010_000101_0000 0 (.give on 2 5) && reads .warp 0b011111_0_000_000000_000010_000000_0011 0 (.tsel on 2) &&
    illegal (.slot 4) 0b011111_0_000_000000_000010_000000_0011) = true := by decide

theorem test_decode_memory : (reads .warp 0b100000_0_000_001000_000100_01_01_011_000 0 (.ld on 8 4 .clu .sync .b64 false) &&
    reads (.slot 7) 0b100001_0_000_001001_000101_00_10_010_000 0 (.st on 9 5 .core .strong .b32) && illegal .warp 0b100000_0_000_001000_000101_00_00_011_000 &&
    illegal .warp 0b100000_0_000_001000_000100_00_11_011_000 && illegal .warp 0b100000_0_000_001000_000100_01_00_010_000 &&
    reads .warp 0b100100_0_000_000001_000010_000011_0011 0 (.atom on 1 2 3 .hfadd2) && reads .warp 0b100101_0_000_000010_000100_000110_0001 0 (.atcas on 2 4 6 true) &&
    reads (.slot 6) 0b100111_0_000_000000_0000000000000_1_10 0 (.tfence on .dev) && reads .warp 0b101000_0_000_000000_000100_000000_0000 0 (.pft on 4)) = true := by decide

theorem test_decode_engines : (reads .warp 0b101001_0_000_000000_010100_000000_0000 0 (.cpk on 20) && reads .warp 0b101010_0_000_000010_000100_001011_0000 0 (.racqTry on 2 4 3) &&
    reads (.slot 6) 0b101010_0_000_000000_000100_000110_0001 0 (.rcmt on 4 6) && reads .warp 0b101011_0_000_000001_000100_000000_0101 0 (.migr on 1 4) &&
    reads (.slot 1) 0b101011_0_000_000001_000100_000110_0001 0 (.jnew on 1 4 6) && reads .warp 0b101100_0_000_000000_0000_11111111_0011 0 (.bar on 255 3) &&
    illegal .warp 0b101101_0_000_000000_0000000000000000 && illegal (.slot 0) 0b111111_0_000_000000_0000000000000000) = true := by decide

theorem test_decode_tiles : (reads (.slot 2) 0b110001_0_000_000001_000010_000011_1111 0 (.mmaz on 1 2 3 15) && reads (.slot 3) 0b110100_0_000_000001_000010_000011_1011 0 (.tcvt on 1 2 3) &&
    reads (.slot 4) 0b110101_0_000_000001_000010_000000_0100 0 (.ttrn on 1 2) && reads (.slot 5) 0b110110_0_000_000001_000010_000000_0100 0 (.stanh on 1 2) &&
    reads (.slot 6) 0b110111_0_000_000001_000010_000000_0000 0 (.tld on 1 2 0 false .rows) && illegal (.slot 3) 0b110000_0_000_000001_000010_000011_0011) = true := by decide

/-! ## Ill-formed terms, one for each check, that are refused -/
theorem test_wf_places : ((Instr.loop on 2 2).wf (.slot 1) || (Instr.cmp64 on 0 .gen 1 2).wf .warp || (Instr.shflUp on 3 48 2).wf (.slot 0) ||
    (Instr.tsel on 2).wf (.slot 4) || (Instr.ldo on 7 4 .core .weak .b64 false 0).wf (.slot 7) || (Instr.mma on 0 16 24 3).wf (.slot 3) ||
    (Instr.tokenRefill).wf .warp || (Instr.rdv on 7).wf .warp) = false := by decide

theorem test_wf_fields : ((Instr.loop on 2 0).wf (.slot 0) || (Instr.limm on 5 1 0).wf .warp || (Instr.brx on 3).wf .warp || (Instr.mulw on 3 1 2).wf .warp ||
    (Instr.lea on 6 3 2 0).wf .warp || (Instr.cvti on 1 2 .f32S32 true).wf .warp || (Instr.cvtn on 4 18 17).wf .warp || (Instr.unpk2 on 3 1 .z).wf .warp) = false := by decide

theorem test_wf_memory : ((Instr.ld on 8 5 .core .weak .b32 false).wf .warp || (Instr.ld on 8 4 .clu .weak .b32 false).wf .warp || (Instr.ld on 9 4 .core .weak .b64 false).wf .warp ||
    (Instr.st on 6 4 .core .weak .b128).wf .warp || (Instr.ld on 8 4 .core .weak .b64 true).wf .warp || (Instr.ld on 8 4 .core .weak .b32 true).wf .warp ||
    (Instr.red on 4 3 .exch).wf .warp || (Instr.atom on 3 4 2 .add64).wf .warp || (Instr.atcas on 2 4 7 true).wf .warp || (Instr.pft on 3).wf .warp) = false ∧
    (Instr.ld on 8 5 .core .weak .b32 true).wf (.slot 6) = true := by decide

theorem test_wf_engines : ((Instr.racq on 3 4).wf .warp || (Instr.racqTry on 2 4 0).wf .warp || (Instr.rcmt on 4 7).wf .warp || (Instr.jqry on 2 4 6).wf .warp ||
    (Instr.tld on 1 2 3 false .cont).wf (.slot 6)) = false := by decide


end Sys2Proof.Tests
end

section
/-! SUPPORT. The host's accesses (O48): the marks that a window write leaves at the homes of its lines, the bytes that its data leaves in
device memory, and what a register write and a read come to (R379 to R383). -/

namespace Sys2Proof.Machine

/-! ## The marks of a line (R202, R243) -/

/-- The home holds the line, and every entry it has of it carries a mark. -/
structure LineMarked (s : State) (line : Nat) : Prop where
  held : ∃ x ∈ s.lines, x.line = line
  marked : ∀ x ∈ s.lines, x.line = line → x.pend ≠ []

theorem homeLine_eq_none {s : State} {line : Nat} : homeLine s line = none ↔ ∀ x ∈ s.lines, x.line ≠ line := by
  simp [homeLine]

theorem LineMarked.linePending {s : State} {line : Nat} (h : LineMarked s line) : linePending s line = true := by
  unfold Machine.linePending
  cases hx : homeLine s line with
  | none =>
    obtain ⟨x, hm, he⟩ := h.held
    exact absurd he (homeLine_eq_none.1 hx x hm)
  | some x =>
    have he : x.line = line := by simpa using List.find?_some hx
    simpa using h.marked x (List.mem_of_find?_eq_some hx) he

/-- What fitting a slice can do: nothing, or a line without marks leaves it. -/
theorem sliceFit_cases (s : State) (line : Nat) :
    sliceFit s line = s ∨ ∃ x ∈ s.lines, x.pend = [] ∧ sliceFit s line = leaveSlice s x := by
  unfold sliceFit
  dsimp only
  split
  · exact .inl rfl
  · split
    · exact .inl rfl
    · split
      · next x hx =>
        have hm := List.mem_of_getLast? hx
        simp only [List.mem_filter, Bool.and_eq_true, List.isEmpty_iff] at hm
        obtain ⟨⟨hm, -⟩, ⟨hp, -⟩, -⟩ := hm
        exact .inr ⟨x, hm, hp, rfl⟩
      · exact .inl rfl

theorem LineMarked.leaveSlice {s : State} {line : Nat} {x : HomeLine} (h : LineMarked s line) (hx : x.line ≠ line) :
    LineMarked (leaveSlice s x) line := by
  obtain ⟨⟨y, hy, he⟩, hm⟩ := h
  refine ⟨⟨y, List.mem_filter.2 ⟨hy, ?_⟩, he⟩, fun z hz => hm z (List.mem_filter.1 hz).1⟩
  simpa [he] using hx.symm

/-- A marked line stays in its slice. -/
theorem LineMarked.sliceFit {s : State} {line : Nat} (h : LineMarked s line) (l : Nat) : LineMarked (sliceFit s l) line := by
  obtain he | ⟨x, hx, hp, he⟩ := sliceFit_cases s l <;> rw [he]
  · exact h
  · exact h.leaveSlice fun e => h.marked x hx e hp

@[simp] theorem markLine_fst (s : State) (line owner : Nat) :
    (markLine s line owner).1 = modLine s line fun x => { x with pend := x.pend ++ [owner] } := rfl

/-- A line is marked after a mark on it, and a marked line stays marked after any other. -/
theorem lineMarked_markLine {s : State} {l line : Nat} (h : l = line ∨ LineMarked s line) (owner : Nat) :
    LineMarked (markLine s l owner).1 line := by
  rw [markLine_fst]
  unfold modLine
  split
  · next x hx =>
    have hheld : ∃ y ∈ s.lines, y.line = line :=
      h.elim (fun e => ⟨x, List.mem_of_find?_eq_some hx, by simpa [e] using List.find?_some hx⟩) (·.held)
    obtain ⟨y, hy, he⟩ := hheld
    refine ⟨⟨_, List.mem_map_of_mem hy, by split <;> exact he⟩, fun z hz hz' => ?_⟩
    obtain ⟨u, hu, rfl⟩ := List.mem_map.1 hz
    by_cases hl : (u.line == l) = true
    · simp [hl]
    · rw [if_neg hl] at hz' ⊢
      exact (h.resolve_left fun e => hl (by simp [hz', e])).marked u hu hz'
  · next hx =>
    refine LineMarked.sliceFit ⟨?_, fun z hz hz' => ?_⟩ l
    · rcases h with rfl | h
      · exact ⟨_, List.mem_cons_self, rfl⟩
      · exact h.held.imp fun _ hy => hy.imp_left (List.mem_cons_of_mem _)
    · rcases List.mem_cons.1 hz with rfl | hz
      · simp
      · exact h.elim (fun e => absurd (hz'.trans e.symm) (homeLine_eq_none.1 hx z hz)) fun h => h.marked z hz hz'

/-- The marks of the parts of a window write, sent one after the other, with their largest completion tick. -/
def markParts (r : State × Nat) (owner : Nat) (ps : List (Nat × List Byte)) : State × Nat :=
  ps.foldl (fun r x => ((markLine r.1 (lineOf (pkgCell x.1)) owner).1, max r.2 (markLine r.1 (lineOf (pkgCell x.1)) owner).2)) r

/-- What every mark keeps, the marks of a write keep. -/
theorem markParts_keeps {P : State → Prop} (hstep : ∀ s l o, P s → P (markLine s l o).1) {r : State × Nat} (h : P r.1) (owner : Nat)
    (ps : List (Nat × List Byte)) : P (markParts r owner ps).1 :=
  List.foldlRecOn (motive := fun r : State × Nat => P r.1) ps _ h fun r hr _ _ => hstep r.1 _ _ hr

theorem markParts_dev (r : State × Nat) (owner : Nat) (ps : List (Nat × List Byte)) : (markParts r owner ps).1.dev = r.1.dev :=
  markParts_keeps (P := fun t => t.dev = r.1.dev) (by simp) rfl owner ps

theorem portAt_markParts (r : State × Nat) (owner : Nat) (ps : List (Nat × List Byte)) (p : PortId) :
    portAt (markParts r owner ps).1 p = portAt r.1 p :=
  markParts_keeps (P := fun t => portAt t p = portAt r.1 p) (by simp) rfl owner ps

@[simp] theorem linePending_modPort (s : State) (p : PortId) (g : Port → Port) (line : Nat) :
    linePending (modPort s p g) line = linePending s line := rfl

/-- After the marks of a write, the line of each of its parts is marked. -/
theorem lineMarked_markParts (owner : Nat) (ps : List (Nat × List Byte)) (r : State × Nat) {x : Nat × List Byte} (hx : x ∈ ps) :
    LineMarked (markParts r owner ps).1 (lineOf (pkgCell x.1)) := by
  induction ps generalizing r with
  | nil => cases hx
  | cons y ys ih =>
    rcases List.mem_cons.1 hx with rfl | hx
    · exact markParts_keeps (P := fun t => LineMarked t (lineOf (pkgCell x.1))) (fun _ _ o h => lineMarked_markLine (.inr h) o)
        (r := (_, max r.2 (markLine r.1 (lineOf (pkgCell x.1)) owner).2)) (lineMarked_markLine (.inl rfl) owner) owner ys
    · exact ih _ hx

/-! ## Bytes written at home (R194, R196) -/

@[simp] theorem homeStore_dev (s : State) (cell : Nat) (bs : List Byte) : (homeStore s cell bs).1.dev = memPut s.dev cell bs := by
  unfold homeStore
  dsimp only
  split <;> simp

@[simp] theorem queueAt_homeStore (s : State) (cell : Nat) (bs : List Byte) (q : QueueId) :
    queueAt (homeStore s cell bs).1 q = queueAt s q := by
  unfold homeStore
  dsimp only
  split
  · exact queueAt_modLine ..
  · rfl

/-- Runs of bytes written into a memory, one after the other. -/
def memPuts (m : Memory) (cells : List (Nat × List Byte)) : Memory := cells.foldl (fun m c => memPut m c.1 c.2) m

theorem homeStores_dev (s : State) (cells : List (Nat × List Byte)) : (homeStores s cells).1.dev = memPuts s.dev cells := by
  have : ∀ (r : State × Nat), (cells.foldl (fun (p : State × Nat) c => let (s', w) := homeStore p.1 c.1 c.2; (s', max p.2 w)) r).1.dev =
      memPuts r.1.dev cells := by
    induction cells with
    | nil => exact fun _ => rfl
    | cons c cells ih => exact fun r => (ih _).trans (congrArg (memPuts · cells) (homeStore_dev ..))
  exact this (s, 0)

/-- A cell lies in a run of bytes. -/
def Covers (x : Nat × List Byte) (c : Nat) : Prop := x.1 ≤ c ∧ c < x.1 + x.2.length

/-- A byte reads as `b` after runs that all have `b` there, if one of them covers it or it read as `b` before. -/
theorem memRead_memPuts {m : Memory} (hm : Memory.wf m = true) {c : Nat} {b : Byte} {cells : List (Nat × List Byte)}
    (hb : ∀ x ∈ cells, Covers x c → x.2.getD (c - x.1) 0 = b) (h : memRead m c = b ∨ ∃ x ∈ cells, Covers x c) :
    memRead (memPuts m cells) c = b := by
  induction cells generalizing m with
  | nil => simpa [memPuts] using h
  | cons y ys ih =>
    refine ih (memPut_wf hm _ _) (fun x hx => hb x (List.mem_cons_of_mem _ hx)) ?_
    have hy := memRead_memPut hm y.1 c y.2
    by_cases hc : Covers y c
    · exact .inl (hy.trans ((if_pos hc).trans (hb y List.mem_cons_self hc)))
    · refine h.imp (fun h => (hy.trans (if_neg hc)).trans h) fun ⟨x, hx, hxc⟩ => ⟨x, ?_, hxc⟩
      exact (List.mem_cons.1 hx).resolve_left fun e => hc (e ▸ hxc)

/-! ## The cells of the PKG view (R194) -/

theorem pkgStack_injective : ∀ r < 8, ∀ r' < 8, pkgStack r = pkgStack r' → r = r' := by decide

theorem pkgStack_mod (u : Nat) : pkgStack u = pkgStack (u % 8) := by simp [pkgStack]

/-- Two addresses of the PKG view have two cells. -/
theorem pkgCell_injective {a b : Nat} (ha : a < Config.pkgBytes) (hb : b < Config.pkgBytes) (h : pkgCell a = pkgCell b) : a = b := by
  simp only [pkgCell, Config.pkgBytes, Config.stackBytes, pkgStack_mod (a / 2048), pkgStack_mod (b / 2048)] at ha hb h
  have hr := pkgStack_injective (a / 2048 % 8) (by omega) (b / 2048 % 8) (by omega)
  generalize pkgStack (a / 2048 % 8) = sa, pkgStack (b / 2048 % 8) = sb at h hr
  have := hr (by omega)
  omega

/-- Within a line, cells follow each other as addresses do. -/
theorem pkgCell_add {a j l : Nat} (hl : 128 * l ≤ a) (hj : a + j < 128 * (l + 1)) : pkgCell (a + j) = pkgCell a + j := by
  have hu : (a + j) / 2048 = a / 2048 := by omega
  have ho : (a + j) % 2048 = a % 2048 + j := by omega
  simp only [pkgCell, hu, ho]
  omega

/-! ## The parts of a window access (R379) -/

theorem mem_linesOf {a n l : Nat} : l ∈ linesOf a n ↔ a < 128 * (l + 1) ∧ 128 * l < a + n ∧ n ≠ 0 := by
  unfold linesOf
  split
  · simp_all
  · simp only [List.mem_map, List.mem_range]
    constructor
    · rintro ⟨i, hi, rfl⟩
      omega
    · intro h
      exact ⟨l - a / 128, by omega, by omega⟩

/-- A part of a write of `bs` at `a`: bytes of one line, inside the view, that the write has there. -/
structure PartOf (a : Nat) (bs : List Byte) (x : Nat × List Byte) : Prop where
  line : ∃ l, 128 * l ≤ x.1 ∧ x.1 + x.2.length ≤ 128 * (l + 1)
  start : a ≤ x.1
  stop : x.1 + x.2.length ≤ a + bs.length
  view : x.2.length ≠ 0 → x.1 + x.2.length ≤ Config.pkgBytes
  bytes : ∀ j < x.2.length, x.2.getD j 0 = bs.getD (x.1 + j - a) 0

theorem partOf_windowParts {a : Nat} {bs : List Byte} {x : Nat × List Byte} (hx : x ∈ windowParts a bs) : PartOf a bs x := by
  obtain ⟨l, hl, rfl⟩ := List.mem_map.1 hx
  obtain ⟨h1, h2, h3⟩ := mem_linesOf.1 hl
  rw [List.length_take] at h2 h3
  refine ⟨⟨l, ?_, ?_⟩, ?_, ?_, ?_, fun j hj => ?_⟩
  case refine_6 =>
    simp only [List.length_take, List.length_drop] at hj
    have hi : max a (128 * l) + j - a = max a (128 * l) - a + j := by omega
    simp only [List.getD_eq_getElem?_getD, List.getElem?_take, List.getElem?_drop, hi]
    rw [if_pos (by omega), if_pos (by omega)]
  all_goals
    simp only [List.length_take, List.length_drop]
    omega

/-- Each byte of a write that lies inside the view lies in a part. -/
theorem exists_windowPart {a i : Nat} {bs : List Byte} (hi : i < bs.length) (hv : a + i < Config.pkgBytes) :
    ∃ x ∈ windowParts a bs, Covers x (a + i) := by
  refine ⟨_, List.mem_map_of_mem (a := (a + i) / 128) (mem_linesOf.2 ?_), ?_⟩ <;>
    simp only [Covers, List.length_take, List.length_drop] <;> omega

/-- A cell that a part covers at its home is that of one of the part's addresses. -/
theorem PartOf.exists_address {a c : Nat} {bs : List Byte} {x : Nat × List Byte} (h : PartOf a bs x) (hc : Covers (pkgCell x.1, x.2) c) :
    ∃ i < bs.length, a + i < Config.pkgBytes ∧ c = pkgCell (a + i) ∧ x.2.getD (c - pkgCell x.1) 0 = bs.getD i 0 := by
  obtain ⟨⟨l, hl, hl'⟩, hs, ht, hv, hb⟩ := h
  obtain ⟨h1, h2⟩ := hc
  obtain ⟨j, rfl⟩ := Nat.exists_eq_add_of_le h1
  have hj : j < x.2.length := by simpa using h2
  have hi : a + (x.1 + j - a) = x.1 + j := by omega
  have hv := hv (by omega)
  refine ⟨x.1 + j - a, by omega, by omega, ?_, ?_⟩
  · rw [hi, pkgCell_add hl (by omega)]
  · rw [Nat.add_sub_cancel_left, hb j hj]

/-- An address that a part covers has its cell in the part's run at home. -/
theorem PartOf.covers_cell {a c : Nat} {bs : List Byte} {x : Nat × List Byte} (h : PartOf a bs x) (hc : Covers x c) :
    Covers (pkgCell x.1, x.2) (pkgCell c) := by
  obtain ⟨l, hl, hl'⟩ := h.line
  obtain ⟨h1, h2⟩ := hc
  obtain ⟨j, rfl⟩ := Nat.exists_eq_add_of_le h1
  rw [pkgCell_add hl (by omega)]
  exact ⟨by simp, by simpa using h2⟩

/-- The runs of a window write at their homes. -/
def windowCells (a : Nat) (bs : List Byte) : List (Nat × List Byte) := (windowParts a bs).map fun x => (pkgCell x.1, x.2)

theorem memRead_windowCells {m : Memory} (hm : Memory.wf m = true) {a i : Nat} {bs : List Byte} (hi : i < bs.length)
    (hv : a + i < Config.pkgBytes) : memRead (memPuts m (windowCells a bs)) (pkgCell (a + i)) = bs.getD i 0 := by
  refine memRead_memPuts hm ?_ (.inr ?_)
  · intro y hy hc
    obtain ⟨x, hx, rfl⟩ := List.mem_map.1 hy
    obtain ⟨i', -, hv', hcell, hb⟩ := (partOf_windowParts hx).exists_address hc
    have := pkgCell_injective hv hv' hcell
    obtain rfl : i = i' := by omega
    exact hb
  · obtain ⟨x, hx, hc⟩ := exists_windowPart hi hv
    exact ⟨_, List.mem_map_of_mem hx, (partOf_windowParts hx).covers_cell hc⟩

theorem memRead_windowCells_of_ne {m : Memory} (hm : Memory.wf m = true) {a c : Nat} {bs : List Byte}
    (h : ∀ i, i < bs.length → a + i < Config.pkgBytes → c ≠ pkgCell (a + i)) : memRead (memPuts m (windowCells a bs)) c = memRead m c := by
  refine memRead_memPuts hm ?_ (.inl rfl)
  intro y hy hc
  obtain ⟨x, hx, rfl⟩ := List.mem_map.1 hy
  obtain ⟨i, hi, hv, hcell, -⟩ := (partOf_windowParts hx).exists_address hc
  exact absurd hcell (h i hi hv)

/-- The data of a window write is put at the homes of its parts; taking the marks off changes no byte. -/
theorem windowPerform_dev {s : State} {p : PortId} (hu : windowUp s p = true) (w : Posted) :
    (windowPerform s p w).1.dev = memPuts s.dev (windowCells w.addr w.data) := by
  simp only [windowPerform, hu, if_true]
  exact List.foldlRecOn (motive := fun t : State => t.dev = _) _ _ (homeStores_dev s (windowCells w.addr w.data)) fun _ ht _ _ => ht

/-! ## The steps of the host -/

theorem exec_registerWrite (p : PortId) (off : Nat) (v : W64) (s : State) :
    exec (.registerWrite p off v) s = .next (postRegister s p off v) := rfl
theorem exec_doorbell (p : PortId) (q : QueueId) (v : W32) (s : State) :
    exec (.doorbell p q v) s = .next (postRegister s p (0x100000 + 8 * q.val) (0#32 ++ v)) := rfl
theorem exec_windowWrite (p : PortId) (dbg : Option (CoreId × Nat)) (off : Nat) (data : List Byte) (ro : Bool) (s : State) :
    exec (.windowWrite p dbg off data ro) s = execWindowWrite p dbg off data ro s := rfl
theorem exec_inboundDataSend (p : PortId) (n : Nat) (s : State) : exec (.inboundDataSend p n) s = execInboundDataSend p n s := rfl
theorem exec_windowRead (p : PortId) (sp : HostSpace) (off len : Nat) (s : State) :
    exec (.windowRead p sp off len) s = execWindowRead p sp off len s := rfl

/-- A register write takes effect at once when it is to WINBASE, or no write of the port waits. -/
theorem postRegister_at_once {s : State} {p : PortId} {off : Nat} (hd : dieReady s p = true)
    (h : off = 0x2000 ∨ (portAt s p).posted = []) (v : W64) : postRegister s p off v = barEffect s p off v := by
  rcases h with h | h <;> simp [postRegister, hd, h, postedOrdered]

theorem barEffect_arg {s : State} {p : PortId} (hd : dieReady s p = true) (i : Fin 4) (v : W64) :
    barEffect s p (0x1008 + 8 * i.val) v = modPort s p fun q => { q with args := q.args.set i v } := by
  have hi : Fin.ofNat 4 ((0x1008 + 8 * i.val - 0x1008) / 8) = i := Fin.ext (by simp)
  have h0 : 0x1008 + 8 * i.val ≠ 0x1000 := by omega
  have h1 : 0x1008 ≤ 0x1008 + 8 * i.val ∧ 0x1008 + 8 * i.val ≤ 0x1020 := by omega
  simp only [barEffect, hd, hi, h0, h1]
  rfl

theorem barEffect_command {s : State} {p : PortId} (hd : dieReady s p = true) (hb : (portAt s p).hstat ≠ 1) (v : W64) :
    barEffect s p 0x1000 v = modPort (freshId s).1 p fun q => { q with hcmd := v.extractLsb' 0 8, hstat := 1, since := (freshId s).2 } := by
  have hb : (portAt s p).hstat ≠ 1#8 := hb
  simp [barEffect, hd, hb]

theorem barEffect_doorbell {s : State} {p : PortId} (hd : dieReady s p = true) (q : QueueId) (v : W32) :
    barEffect s p (0x100000 + 8 * q.val) (0#32 ++ v) = doorbellEffect s p q v := by
  have hq : Fin.ofNat 256 ((0x100000 + 8 * q.val - 0x100000) / 8) = q := Fin.ext (by simp)
  have hv : (0#32 ++ v).extractLsb' 0 32 = v := BitVec.extractLsb'_append_eq_right
  have h0 : 0x100000 + 8 * q.val ≠ 0x1000 ∧ ¬0x100000 + 8 * q.val ≤ 0x1020 ∧ 0x100000 + 8 * q.val ≠ 0x2000 := by omega
  have h1 : 0x100000 ≤ 0x100000 + 8 * q.val ∧ 0x100000 + 8 * q.val < 0x100800 ∧ (0x100000 + 8 * q.val) % 8 = 0 := by omega
  simp only [barEffect, hd, hq, hv, h0, h1]
  simp

/-- A doorbell whose TAIL the ring can hold. -/
theorem queueAt_doorbellEffect {s : State} {p : PortId} {q : QueueId} {v : W32} {x : Queue} (hx : queueAt s q = some x)
    (hc : x.closing = false) (hr : routeOk s p (Fin.ofNat 4 (q.val / 64)) = true)
    (ht : (v.extractLsb' 0 16 - x.head).toNat ≤ 2 ^ x.log2n) :
    queueAt (doorbellEffect s p q v) q = some { x with tail := v.extractLsb' 0 16, look := true } := by
  simp only [doorbellEffect, hx, hr, hc, ht, Bool.not_true, Bool.or_self, if_true, Bool.false_eq_true, if_false]
  simp only [pkgPut, queueAt_homeStore, queueAt_setQueue]

/-- A window write as it waits at its port. -/
def windowEntry (id a : Nat) (data : List Byte) (ro : Bool) (hz : Nat) : Posted :=
  { id := id, addr := a, data := data, reg := false, ro := ro, hz := hz }

/-- The marks of a window write sent, with their largest completion tick. -/
def windowMarks (s : State) (p : PortId) (off : Nat) (data : List Byte) : State × Nat :=
  markParts ((freshId s).1, 0) (freshId s).2 (windowParts ((portAt s p).winbase.toNat + off) data)

/-- A window write waits at the port once its marks are sent. -/
theorem execWindowWrite_waits {s : State} {p : PortId} {off : Nat} {data : List Byte} (ro : Bool) (hl : off + data.length ≤ 2 ^ 36)
    (hu : windowUp s p = true) (hne : windowParts ((portAt s p).winbase.toNat + off) data ≠ []) :
    execWindowWrite p none off data ro s = .next (modPort (windowMarks s p off data).1 p fun q => { q with posted := q.posted ++
      [windowEntry (freshId s).2 ((portAt s p).winbase.toNat + off) data ro (windowMarks s p off data).2] }) := by
  obtain ⟨x, ps, hp⟩ := List.exists_cons_of_ne_nil hne
  simp only [execWindowWrite, if_neg (Nat.not_lt.2 hl), hu, Bool.not_true, Bool.false_eq_true, if_false, windowMarks, hp]
  rfl

/-- The data of the nth waiting write is performed when nothing that it must follow waits; its end takes no byte back. -/
theorem execInboundDataSend_performs {s : State} {p : PortId} {n : Nat} {w : Posted}
    (hw : ((portAt s p).posted.filter fun x => x.done.isNone)[n]? = some w) (hr : w.reg = false)
    (ho : w.ro = true ∨ postedOrdered s ((portAt s p).posted.takeWhile fun x => x.id != w.id) = true) :
    ∃ t, execInboundDataSend p n s = .next t ∧ t.dev = (windowPerform s p w).1.dev := by
  unfold execInboundDataSend
  dsimp only
  rw [hw]
  rcases ho with ho | ho <;> simp [hr, ho, prunePosted]

/-- With no earlier write waiting, a read's bytes are added to the port's completions: of BAR 0. -/
theorem execWindowRead_bar0 {s : State} {p : PortId} (h : ((portAt s p).posted.any fun w => w.done.isNone) = false) (off len : Nat) :
    execWindowRead p .bar0 off len s = .next (modPort s p fun q => { q with reads := q.reads ++ [barBytes s p off len] }) := by
  simp [execWindowRead, h]

/-- Of the window, when no line that it reads is pending. -/
theorem execWindowRead_window {s : State} {p : PortId} (h : ((portAt s p).posted.any fun w => w.done.isNone) = false) {off len : Nat}
    (hl : off + len ≤ 2 ^ 36) (hu : windowUp s p = true) (hd : dieReady s p = true)
    (hp : pkgPending s ((portAt s p).winbase.toNat + off) len = false) :
    execWindowRead p .window off len s =
      .next (modPort s p fun q => { q with reads := q.reads ++ [pkgRead s ((portAt s p).winbase.toNat + off) len] }) := by
  simp only [execWindowRead, h, hu, hd, hp, if_neg (Nat.not_lt.2 hl)]
  simp

/-- Of a core's debug access window, when the port reaches the core. -/
theorem execWindowRead_debug {s : State} {p : PortId} (h : ((portAt s p).posted.any fun w => w.done.isNone) = false) {k : CoreId}
    (hd : dieReady s p = true) (hr : routeOk s p (coreDie k) = true) (n off len : Nat) :
    execWindowRead p (.debug k n) off len s = .next (modPort (windowDebugRead s k n off len).1 p fun q =>
      { q with reads := q.reads ++ [(windowDebugRead s k n off len).2] }) := by
  simp [execWindowRead, h, hd, hr]

end Sys2Proof.Machine

namespace Sys2Proof.Claims

open Sys2Proof.Machine

/-! ## The statements -/

theorem hostRegistersAreWritten : HostRegistersAreWritten := by
  refine ⟨fun s p off v hd => ?_, fun s p v hd => ?_, fun s p hd hp => ⟨fun i v => ?_, fun v hb => ?_, fun q v x hx hc hr ht => ?_⟩⟩
  · simp [exec_registerWrite, postRegister, hd]
  · rw [exec_registerWrite, postRegister_at_once hd (.inl rfl)]
    simp [barEffect, hd]
  · rw [exec_registerWrite, postRegister_at_once hd (.inr hp), barEffect_arg hd]
  · rw [exec_registerWrite, postRegister_at_once hd (.inr hp), barEffect_command hd hb]
    refine ⟨_, rfl, ?_⟩
    rw [portAt_modPort]
    exact ⟨rfl, rfl, rfl⟩
  · rw [exec_doorbell, postRegister_at_once hd (.inr hp), barEffect_doorbell hd]
    exact ⟨_, rfl, queueAt_doorbellEffect hx hc hr ht⟩

theorem windowWritesArePerformed : WindowWritesArePerformed := by
  refine ⟨fun s p off data ro hl => ⟨fun hu => ?_, fun hu hne => ?_⟩, fun s p k n off data ro hd hr => ?_,
    fun s p n w hm hu hw hr ho => ?_⟩
  · simp only [exec_windowWrite, execWindowWrite, hu, if_neg (Nat.not_lt.2 hl)]
    simp
  · refine ⟨_, windowEntry (freshId s).2 _ data ro (windowMarks s p off data).2,
      (exec_windowWrite ..).trans (execWindowWrite_waits ro hl hu hne), markParts_dev .., ?_, rfl, rfl, rfl, rfl, rfl,
      fun x hx => (lineMarked_markParts _ _ _ hx).linePending⟩
    rw [portAt_modPort, windowMarks, portAt_markParts]
    rfl
  · simp [exec_windowWrite, execWindowWrite, hd, hr]
  · obtain ⟨t, ht, hdev⟩ := execInboundDataSend_performs hw hr ho
    rw [windowPerform_dev hu] at hdev
    refine ⟨t, ht, fun i hi hv => ?_, fun c hc => ?_⟩ <;> rw [hdev]
    · exact memRead_windowCells hm.dev hi hv
    · exact memRead_windowCells_of_ne hm.dev hc

theorem windowReadsAnswer : WindowReadsAnswer := by
  intro s p off len h
  have h : ((portAt s p).posted.any fun w => w.done.isNone) = false := by simpa using h
  exact ⟨execWindowRead_bar0 h off len, fun hl hu hd hp => execWindowRead_window h hl hu hd hp,
    fun k n hd hr => execWindowRead_debug h hd hr n off len⟩

/-- Settles O48: register writes come down to `barEffect`, window writes to marks that stay and to the cells of their parts, and reads to
the bytes that they add to the port's completions. -/
theorem hostAccessesComplete : Obligations.HostAccessesComplete :=
  ⟨hostRegistersAreWritten, windowWritesArePerformed, windowReadsAnswer⟩

end Sys2Proof.Claims
end

section
/-! SUPPORT. Ops that are guarded off (O60): every op with a guard is issued under the guard of its word (R24, R25, R58). -/
namespace Sys2Proof.Machine

/-- A well-formed op is one that an op word names (R62). -/
theorem accepted_of_wf {i : Instr} {st : Stream} (h : i.wf st = true) : i.accepted ≠ .step := by
  intro ha
  simp [Instr.wf, Instr.accepts, ha, Accepted.holds] at h

/-- An op's guard is that of its word (R58). -/
theorem asOp_guardOf {i : Instr} {op : BitVec 6} {g : Guard} {b : BitVec 22} {s : State} (hi : i.encode = encWord op g b)
    (h : ∃ wb sb, exec i s = asOp i g s wb sb) : ∃ wb sb, exec i s = asOp i (guardOf i) s wb sb := by
  rwa [guardOf, hi, fGuard_encWord]

/-- Every op but SEL is issued under the guard of its word (R24, R25). -/
theorem exec_eq_asOp {i : Instr} (h : i.accepted ≠ .step) (hg : guardless i = false) (s : State) :
    ∃ wb sb, exec i s = asOp i (guardOf i) s wb sb := by
  cases i
  case sel => exact Bool.noConfusion hg
  all_goals first
    | exact absurd rfl h
    | exact asOp_guardOf rfl ⟨_, _, rfl⟩

end Sys2Proof.Machine

namespace Sys2Proof.Claims

open Sys2Proof.Machine

/-- Settles O60: every op with a guard is an `asOp` of its word's guard, and `asOp` passes what is guarded off. -/
theorem guardedOffOpsDoNothing : Obligations.GuardedOffOpsDoNothing := by
  refine ⟨fun s i k f x w hi hw hg hp e he => ?_, fun s i k n slot st cur hi hw hg hp => ?_⟩
  · obtain ⟨wb, sb, h⟩ := exec_eq_asOp (accepted_of_wf hw) hg s
    rw [h, he, asOp_off hi hw hp]
  · obtain ⟨wb, sb, h⟩ := exec_eq_asOp (accepted_of_wf hw) hg s
    rw [h, asOp_slot_off hi hw hg hp]

end Sys2Proof.Claims
end

section
/-! SUPPORT. Control of a strand (O11): a bundle's marks, transfers with the loop entries that they leave, and the three outcomes of
LOOP (R26, R28, R94 to R99). -/

namespace Sys2Proof.Machine

open Sys2Proof.Claims

/-- A transfer of a strand takes effect after its bundle (R26, R97, R99). -/
theorem strandJump_done {s : State} {e : StrandEnv} {cur : Strand} (h : strandAt (coreAt s e.k) e.n = some cur) (target : W64)
    (pops kp : Bool) :
    strandJump s e target pops kp = strandDone s e.k e.n (goTo e target kp (if pops then keepLoops target cur else cur)) := by
  unfold strandJump
  cases pops with
  | false => exact markFx_done h _
  | true =>
    simp only [if_true, onStrand_done h]
    rw [markFx_done (strandAt_strandDone ..), strandDone_strandDone]
    rfl

/-- A call's link, and its transfer (R95). -/
theorem strandJump_link_done {s : State} {e : StrandEnv} {cur : Strand} (h : strandAt (coreAt s e.k) e.n = some cur) (target : W64) :
    strandJump (strandLink s e) e target false false = strandDone s e.k e.n (goTo e target false (linked e cur)) := by
  rw [strandLink, pendAdd_done h, strandJump_done (strandAt_strandDone ..), strandDone_strandDone]
  rfl

/-- A slot's trap is noted under its own unit (R33, R297). -/
theorem strandFault_done {s : State} {e : StrandEnv} {cur : Strand} (h : strandAt (coreAt s e.k) e.n = some cur) (t : TrapInfo) :
    strandFault s e t = .next (strandDone s e.k e.n { cur with fx := { cur.fx with faults := cur.fx.faults ++
      [(e.slot, { t with unit := if t.unit = 8 then e.slot.val else t.unit })] } }) := by
  rw [strandFault, slotFault, onStrand_done h]

/-- LOOP stands in slot 0 (R62). -/
theorem slot_of_loop {g : Guard} {d : Reg} {len : BitVec 10} {slot : Slot} (h : (Instr.loop g d len).wf (.slot slot) = true) : slot = 0 := by
  obtain ⟨ha, -⟩ := Bool.and_eq_true_iff.1 h
  have slots : [0].contains slot.val = true := ha
  exact Fin.ext (by simpa using slots)

/-- LOOP's body does not fit when the stack is full, or the enclosing body ends before it (R98). -/
theorem loop_misfits {loops : List LoopEntry} {stop : W64} :
    (decide (loops.length ≥ 4) || (match loops with | t :: _ => t.stop.ult stop | [] => false)) = true ↔
      4 ≤ loops.length ∨ ∃ t, loops.head? = some t ∧ t.stop.toNat < stop.toNat := by
  cases loops with
  | nil => simp
  | cons t ts => simp [BitVec.ult]

end Sys2Proof.Machine

namespace Sys2Proof.Claims

open Sys2Proof.Machine

theorem strandControlCompletes : StrandControlCompletes := by
  refine ⟨fun i r hr s k n slot st cur h => ?_, fun g s k n slot st cur h => asOp_slot h ..⟩
  unfold controlSlot at hr
  split at hr
  case h_10 => cases hr
  all_goals
    obtain rfl := Option.some.inj hr
    refine (asOp_slot h ..).trans (congrArg _ ?_)
  · exact markFx_done h.here _
  · exact markFx_done h.here _
  · exact markFx_done h.here _
  · exact markFx_done h.here _
  · exact strandJump_done h.here _ true true
  · exact strandJump_done h.here _ true true
  · exact strandJump_link_done h.here _
  · exact strandJump_link_done h.here _
  · exact strandJump_done h.here _ false true

theorem loopPushesOrSkips : LoopPushesOrSkips := by
  intro g d len s k n slot st cur stop h hstop
  subst hstop
  obtain rfl : slot = 0 := slot_of_loop h.accepted
  refine (asOp_slot h ..).trans ?_
  by_cases hm : 4 ≤ st.loops.length ∨ ∃ t, st.loops.head? = some t ∧ t.stop.toNat < (st.pc + (len.zeroExtend 64 <<< 5)).toNat
  · rw [if_pos hm]
    exact (if_pos (loop_misfits.2 hm)).trans (strandFault_done h.here _)
  · rw [if_neg hm]
    refine (if_neg (mt loop_misfits.1 hm)).trans ?_
    by_cases hz : opD (slotEnv s (.loop g d len) k n 0 st) d = 0#64
    · rw [if_pos hz, if_pos hz]
      exact congrArg _ (markFx_done (e := slotEnv s (.loop g d len) k n 0 st) h.here _)
    · rw [if_neg hz, if_neg hz]
      exact congrArg _ (onStrand_done h.here _)

/-- Settles O11: each op is its mark, its transfer or its loop entry. -/
theorem strandTransfersComplete : Obligations.StrandTransfersComplete := ⟨strandControlCompletes, loopPushesOrSkips⟩

end Sys2Proof.Claims
end

section
/-! SUPPORT. The ops of the TV, TR and SF units (O23): their values element by element, and the issue of a unit whose checks pass (R18, R19,
R21, R116, R117, R119, R120, R122 to R124). -/

namespace Sys2Proof.Machine

open Sys2Proof.Claims

/-! ## Elements (R43, R116) -/

/-- A tile has 16 rows of elements. -/
theorem elems_count (vt : Nat) : 16384 / vtWidth vt = 16 * vtCols vt := by
  unfold vtCols vtWidth
  split
  · rfl
  · split <;> rfl

/-- The elements of a tile in order, by row and column. -/
theorem tileElems_eq (vt : Nat) (x : TileData) : tileElems (vtWidth vt) x =
    (List.range (16 * vtCols vt)).map fun i => element vt x (i / vtCols vt) (i % vtCols vt) := by
  rw [tileElems, elems_count]
  refine List.map_congr_left fun i _ => ?_
  rw [element, Nat.mul_comm (i / vtCols vt), Nat.div_add_mod]

/-- A tile of a function of one tile's elements. -/
theorem tileOfElems_map (vt : Nat) (x : TileData) (f : Nat → Nat) :
    tileOfElems (vtWidth vt) ((tileElems (vtWidth vt) x).map f) = tileOf vt fun r c => f (element vt x r c) := by
  rw [tileElems_eq, List.map_map]
  rfl

/-- A tile of a function of three tiles' elements. -/
theorem tileOfElems_zip (vt : Nat) (x y z : TileData) (f : Nat → Nat → Nat → Nat) :
    tileOfElems (vtWidth vt) (((tileElems (vtWidth vt) x).zip ((tileElems (vtWidth vt) y).zip (tileElems (vtWidth vt) z))).map
      fun p => f p.1 p.2.1 p.2.2) = tileOf vt fun r c => f (element vt x r c) (element vt y r c) (element vt z r c) := by
  rw [tileElems_eq, tileElems_eq, tileElems_eq, List.zip_map', List.zip_map', List.map_map]
  rfl

theorem element_row_zero (vt : Nat) (x : TileData) (c : Nat) : element vt x 0 c = tileBits x (vtWidth vt * c) (vtWidth vt) := by
  rw [element, Nat.zero_mul, Nat.zero_add]

/-! ## The ops as tile ops -/

/-- An element-wise op of the TV unit, whose third operand is D or none (R117, R119). -/
theorem tvElem_eq (i : Instr) (g : Guard) (d a b : Reg) (useD : Bool) (s : State) (f : Fmt → Nat → Nat → Nat → Nat) :
    tvElem i g d a b useD s f = tileOp i g d ([a, b] ++ if useD then [d] else []) false 2 4 s fun _ vt src =>
      tileOf vt fun r c => f (codeFmt vt) (element vt (src 0) r c) (element vt (src 1) r c) (element vt (if useD then src 2 else src 0) r c) := by
  have h : ∀ vt (src : Nat → TileData), (if useD then tileElems (vtWidth vt) (src 2) else tileElems (vtWidth vt) (src 0)) =
      tileElems (vtWidth vt) (if useD then src 2 else src 0) := fun vt src => (apply_ite ..).symm
  unfold tvElem tvOp
  simp only [h, tileOfElems_zip]

/-- An op of the TV unit with a value of its own (R119, R120). -/
theorem tvOp_eq {res res' : StrandEnv → Nat → (Nat → TileData) → TileData} (h : ∀ e vt src, res e vt src = res' e vt src) (i : Instr)
    (g : Guard) (d : Reg) (srcs : List Reg) (moves : Bool) (s : State) :
    tvOp i g d srcs moves s res = tileOp i g d srcs moves 2 4 s res' := by
  rw [tvOp, funext fun e => funext fun vt => funext (h e vt)]

/-- An op of the TR unit (R122, R123). -/
theorem trOp_eq (i : Instr) (g : Guard) (d a : Reg) (moves : Bool) (s : State) (res : Nat → TileData → TileData) :
    trOp i g d a moves s res = tileOp i g d [a] moves 4 6 s fun _ vt src => res vt (src 0) := rfl

/-- An op of the SF unit (R124). -/
theorem sfOp_eq (i : Instr) (g : Guard) (d a : Reg) (f : Fun) (s : State) :
    sfOp i g d a f s = tileOp i g d [a] false 8 12 s (sfRow g d a f).val := by
  unfold sfOp
  simp only [tileOfElems_map]
  rfl

/-- Each op of the table is a tile op with the table's value. -/
theorem exec_tileRow {i : Instr} {r : TileRow} (h : tileRow i = some r) (s : State) :
    exec i s = tileOp i r.g r.d r.srcs r.moves r.busy r.lat s r.val := by
  unfold tileRow at h
  split at h
  case h_24 => cases h
  all_goals obtain rfl := Option.some.inj h
  case h_1 g d a b => exact (tvElem_eq .. : execTadd g d a b s = _)
  case h_2 g d a b => exact (tvElem_eq .. : execTsub g d a b s = _)
  case h_3 g d a b => exact (tvElem_eq .. : execTmul g d a b s = _)
  case h_4 g d a b => exact (tvElem_eq .. : execTfma g d a b s = _)
  case h_5 g d a b => exact (tvElem_eq .. : execTmax g d a b s = _)
  case h_6 g d a b => exact (tvElem_eq .. : execTmin g d a b s = _)
  case h_7 g d a b => exact (tvOp_eq (fun _ _ _ => rfl) .. : execTsclr g d a b s = _)
  case h_8 g d a b =>
    refine (tvOp_eq (fun _ _ _ => ?_) .. : execTsclc g d a b s = _)
    simp only [element_row_zero]
    rfl
  case h_9 g d a => exact (tvOp_eq (fun _ _ _ => rfl) .. : execTcpy g d a s = _)
  case h_10 g d a => exact (tvOp_eq (fun _ _ _ => rfl) .. : execTfill g d a s = _)
  case h_11 g d a b => exact (tvOp_eq (fun _ _ _ => rfl) .. : execTmsk g d a b s = _)
  case h_12 g d a => exact (trOp_eq .. : execTrmax g d a s = _)
  case h_13 g d a => exact (trOp_eq .. : execTrsum g d a s = _)
  case h_14 g d a => exact (trOp_eq .. : execTcmax g d a s = _)
  case h_15 g d a => exact (trOp_eq .. : execTcsum g d a s = _)
  case h_16 g d a => exact (trOp_eq .. : execTtrn g d a s = _)
  case h_17 g d a => exact (trOp_eq .. : execTbcr g d a s = _)
  case h_18 g d a => exact (trOp_eq .. : execTbcc g d a s = _)
  case h_19 g d a => exact (sfOp_eq .. : execSexp2 g d a s = _)
  case h_20 g d a => exact (sfOp_eq .. : execSlog2 g d a s = _)
  case h_21 g d a => exact (sfOp_eq .. : execSrcp g d a s = _)
  case h_22 g d a => exact (sfOp_eq .. : execSrsq g d a s = _)
  case h_23 g d a => exact (sfOp_eq .. : execStanh g d a s = _)

/-! ## The issue of a unit's op -/

/-- A tile op whose checks pass, and whose operands are good, has its result due after its latency (R18, R19, R21). -/
theorem gated_unitIssue_done {s : State} {e : StrandEnv} {cur : Strand} {td : Nat} {rd : List Nat}
    (hs : strandAt (coreAt s e.k) e.n = some cur) (hg : tileGate s e true (rd ++ [td]) rd none = .ok) (ht : TilesGood e cur rd [td])
    (busy lat : Nat) (dst : PendDst) :
    ∃ t, gated s e (tileGate s e true (rd ++ [td]) rd none) (consume s e rd (unitIssue s e busy lat [(td, dst)] [td])) = .next t ∧
      UnitDone s t e cur busy lat [dst] := by
  rw [hg, gated, consume_good ht.good]
  exact unitIssue_done busy lat [(td, dst)] [td] hs ht.room

end Sys2Proof.Machine

namespace Sys2Proof.Claims

open Sys2Proof.Machine

/-- Settles O23: each op is a tile op with its row's value, and a tile op whose checks pass issues its unit. -/
theorem tileUnitOpsComplete : Obligations.TileUnitOpsComplete := by
  intro i r hrow s k n slot st cur e vt td rd h he hv hle hd hr hg ht
  rw [exec_tileRow hrow, tileOp, strandOp, asOp_slot h, ← he]
  have hv' : cfgVt (viewMxcfg e.st) = vt := by rw [hv, he]; rfl
  have hd' : tileNum e r.d = td := by rw [hd, he]; rfl
  have hr' : r.srcs.map (tileNum e) = rd := by rw [hr, he]; rfl
  dsimp only
  rw [hv', hd', hr', if_neg (Nat.not_lt.2 hle)]
  exact gated_unitIssue_done (he ▸ h.here) hg ht ..

end Sys2Proof.Claims
end

section
/-! SUPPORT. PCLR and AWAIT (O29): the range cleared, the word that ends a wait, and the slots that come before slot 7 (R16, R199, R227,
R247). -/

namespace Sys2Proof.Machine

open Sys2Proof.Claims

/-! ## The wait of a fragment -/

theorem warpAt_countedState {s : State} {e : WarpEnv} {w : Warp} (hw : warpAt (coreAt s e.k) e.x.warp = some w) :
    warpAt (coreAt (countedState s e) e.k) e.x.warp = some (countedWarp w) := by
  simp [countedState_eq hw, fragDone, fragCore, ← setWarp_setFrag]

/-- Counting an op touches no shared memory. -/
theorem sharedBytes_countedState (s : State) (e : WarpEnv) (k : CoreId) (t off n : Nat) :
    sharedBytes (countedState s e) k t off n = sharedBytes s k t off n := by
  unfold sharedBytes sharedMem
  by_cases hk : k = e.k
  · subst hk
    simp [coreAt_countedState]
  · rw [countedState, coreAt_setCore_ne _ _ hk]

/-- A counted op whose warp has no kill request pending waits. -/
theorem waitFrag_counted {s : State} {e : WarpEnv} {w : Warp} (hw : warpAt (coreAt s e.k) e.x.warp = some w) (hk : w.kill = false)
    (c : WaitFor) (park : Bool) : waitFrag (countedState s e) e c park =
      .next (fragDone s e { e.x with num := e.w.wisn, state := .wait e.i c } (countedWarp w)) := by
  have hk' : warpKill (countedState s e) e = false := by
    rw [warpKill, warpAt_countedState hw]
    exact hk
  rw [waitFrag, hk', Bool.and_false, countedState_eq hw, onFrag_fragCore]
  rfl

/-! ## The range and the word -/

theorem presenceClear_ok {s : State} {q : Issue} {a : W64} {n off : Nat} {lanes : LaneMask} {k : CoreId}
    (h : sharedTarget s q a 0 lanes = .ok (k, off)) (hn : off + n ≤ teamShared s q.team) :
    presenceClear s q a n lanes = .ok (setPresence s k q.team (linesOf off n) false) := by
  rw [presenceClear, h]
  exact if_neg (Nat.not_lt.2 hn)

/-- A word has come to zero or below: it is zero, or its sign is set. -/
theorem sle_zero_iff (v : W32) : v.sle 0 = true ↔ v = 0#32 ∨ v.msb = true := by
  rw [BitVec.sle_eq_decide, decide_eq_true_iff, BitVec.msb_eq_toInt, decide_eq_true_iff, BitVec.ofNat_eq_ofNat, BitVec.toInt_zero,
    ← BitVec.toInt_inj, BitVec.toInt_zero]
  omega

theorem awaitDone_eq {s : State} {k : CoreId} {team off : Nat} {v : W32} (hv : v = BitVec.ofNat 32 (natLE (sharedBytes s k team off 4))) :
    awaitDone s k team off = v.sle 0 := by
  rw [awaitDone, hv]

/-! ## Slots that come first -/

/-- Something that slot 6 has begun comes before a slot that is not free. -/
theorem slotBusy_iff {s : State} {e : StrandEnv} : slotBusy s e = true ↔ ¬ slotFree s e := by
  unfold slotBusy slotFree
  by_cases ho : slotOrder s e = []
  · cases h : allSent s (.strand e.k e.n) <;> simp [ho]
  · simp [ho]

theorem slotBusy_eq_false {s : State} {e : StrandEnv} : slotBusy s e = false ↔ slotFree s e := by
  rw [← Bool.not_eq_true, slotBusy_iff, Classical.not_not]

/-- PCLR takes effect once everything earlier of its strand has been sent, and what slot 6 has begun is over. -/
theorem allSent_and_not_busy_iff {s : State} {e : StrandEnv} : (allSent s (.strand e.k e.n) && !slotBusy s e) = true ↔
    allSent s (.strand e.k e.n) = true ∧ slotOrder s e = [] := by
  rw [Bool.and_eq_true, Bool.not_eq_true', slotBusy_eq_false, slotFree]
  constructor
  · exact fun ⟨ha, ho, _⟩ => ⟨ha, ho⟩
  · exact fun ⟨ha, ho⟩ => ⟨ha, ho, fun _ => ha⟩

end Sys2Proof.Machine

namespace Sys2Proof.Claims

open Sys2Proof.Machine

/-- PCLR of a warp. -/
theorem exec_pclr_warp {g : Guard} {a b : Reg} {s c : State} {k k' : CoreId} {f : FragId} {x : Frag} {w : Warp} {e : WarpEnv} {off n : Nat}
    (h : LaneTakes s (.pclr g a b) g k f x w) (he : e = laneEnv s (.pclr g a b) g k f x w) (hc : OnceClean e [a, a + 1, b] [])
    (hs : c = countedState s e) (ht : sharedTarget c (warpIssue c e) (leadAddr e a) 0 (leadOnly e) = .ok (k', off))
    (hn : n = (readReg e (leadLane e.parts) b).toNat) (hr : off + n ≤ teamShared c w.team) :
    exec (.pclr g a b) s = .next (warpEnd (setPresence c k' w.team (linesOf off n) false) e) := by
  have hteam : (warpIssue c e).team = w.team := by rw [he]; exact atCycle_team w
  refine (asOp_takes h ..).trans ?_
  rw [← he, ← hs]
  refine (once_clean hc ..).trans ?_
  have hp : presenceClear c (warpIssue c e) (readPair e (leadLane e.parts) a) n (laneBit (leadLane e.parts)) =
      .ok (setPresence c k' w.team (linesOf off n) false) := by
    refine (presenceClear_ok ht (hteam ▸ hr)).trans ?_
    rw [hteam]
  rw [← hn, hp]

/-- PCLR of a strand. -/
theorem exec_pclr_slot {g : Guard} {a b : Reg} {s : State} {k k' : CoreId} {n : StrandId} {slot : Slot} {st cur : Strand} {e : StrandEnv}
    {off len : Nat} (h : SlotTakes s (.pclr g a b) g k n slot st cur) (he : e = slotEnv s (.pclr g a b) k n slot st)
    (ht : sharedTarget s (strandIssue s e) (opA e a) 0 1 = .ok (k', off)) (hl : len = (opB e b).toNat)
    (hr : off + len ≤ teamShared s st.team) :
    exec (.pclr g a b) s = .next (
      if allSent s (.strand k n) = true ∧ slotOrder s e = [] then
        markFx (setPresence s k' st.team (linesOf off len) false) e fun y => { y with close := true }
      else markFx s e fun y => { y with later := y.later ++ [slot] }) := by
  subst he hl
  have hp := presenceClear_ok ht hr
  refine (asOp_slot h ..).trans ?_
  rw [hp]
  by_cases hf : allSent s (.strand k n) = true ∧ slotOrder s (slotEnv s (.pclr g a b) k n slot st) = []
  · rw [if_pos hf]
    exact if_pos (allSent_and_not_busy_iff.2 hf)
  · rw [if_neg hf]
    exact if_neg (mt allSent_and_not_busy_iff.1 hf)

/-- AWAIT of a warp, at its checked address: it passes as an acquire, or the fragment waits. -/
theorem exec_await_warp {g : Guard} {a : Reg} {s c : State} {k k' : CoreId} {f : FragId} {x : Frag} {w : Warp} {e : WarpEnv} {off : Nat} {v : W32}
    (h : LaneTakes s (.await g a) g k f x w) (he : e = laneEnv s (.await g a) g k f x w) (hc : OnceClean e [a, a + 1] [])
    (hs : c = countedState s e) (ht : sharedTarget c (warpIssue c e) (leadAddr e a) 2 (leadOnly e) = .ok (k', off))
    (hv : v = BitVec.ofNat 32 (natLE (sharedBytes c k' w.team off 4))) :
    exec (.await g a) s = if v.sle 0 then .next (warpEnd (acquireAt c (.frag e.k e.f) (.shared k' w.team off) 4) e)
      else waitFrag c e (.await (.shared k' w.team off)) true := by
  have hteam : (warpIssue c e).team = w.team := by rw [he]; exact atCycle_team w
  refine (asOp_takes h ..).trans ?_
  rw [← he, ← hs]
  refine (once_clean hc ..).trans ?_
  have ht : sharedTarget c (warpIssue c e) (readPair e (leadLane e.parts) a) 2 (laneBit (leadLane e.parts)) = .ok (k', off) := ht
  dsimp only
  rw [ht]
  dsimp only
  rw [hteam, awaitDone_eq hv]
  rfl

/-- AWAIT of a strand, at its checked address: it is left for a later turn, or passes as an acquire, or its bundle waits. -/
theorem exec_await_slot {g : Guard} {a : Reg} {s : State} {k k' : CoreId} {n : StrandId} {slot : Slot} {st cur : Strand} {e : StrandEnv}
    {off : Nat} {v : W32} (h : SlotTakes s (.await g a) g k n slot st cur) (he : e = slotEnv s (.await g a) k n slot st)
    (ht : sharedTarget s (strandIssue s e) (opA e a) 2 1 = .ok (k', off))
    (hv : v = BitVec.ofNat 32 (natLE (sharedBytes s k' st.team off 4))) :
    exec (.await g a) s = if slotBusy s e then .next (markFx s e fun y => { y with later := y.later ++ [slot] })
      else if v.sle 0 then .next (acquireAt s (.strand k n) (.shared k' st.team off) 4)
      else .next (slotStall s k n (.await (.shared k' st.team off))) := by
  subst he
  refine (asOp_slot h ..).trans ?_
  dsimp only
  rw [ht]
  dsimp only
  rw [awaitDone_eq (team := (strandIssue s (slotEnv s (.await g a) k n slot st)).team) hv]
  rfl

/-- Settles O29: each op on its checked address, under the order of slots 6 and 7. -/
theorem presenceClearsAndAwaits : Obligations.PresenceClearsAndAwaits := by
  refine ⟨?_, ?_, ?_, ?_⟩
  · intro g a b s c k k' f x w e off n h he hc hs ht hn hr
    exact exec_pclr_warp h he hc hs ht hn hr
  · intro g a b s k k' n slot st cur e off len h he ht hl hr
    exact exec_pclr_slot h he ht hl hr
  · intro g a s c k k' f x w e off v h he hc hs ht hv
    have hx := exec_await_warp h he hc hs ht (hv.trans (by rw [hs, sharedBytes_countedState]))
    refine ⟨fun hz => ?_, fun hz hm hk => ?_⟩
    · rw [hx, if_pos ((sle_zero_iff v).2 hz), he]
      rfl
    · rw [hx, if_neg (mt (sle_zero_iff v).1 (by simp [hz, hm])), hs]
      subst he
      rw [waitFrag_counted h.warp hk]
      simp [laneEnv]
  · intro g a s k k' n slot st cur e off v h he ht hv
    have hx := exec_await_slot h he ht hv
    refine ⟨fun hf => ?_, fun hf hz => ?_, fun hf hz hm => ?_⟩
    · rw [hx, if_pos (slotBusy_iff.2 hf)]
    · rw [hx, slotBusy_eq_false.2 hf, if_neg Bool.false_ne_true, if_pos ((sle_zero_iff v).2 hz)]
    · rw [hx, slotBusy_eq_false.2 hf, if_neg Bool.false_ne_true, if_neg (mt (sle_zero_iff v).1 (by simp [hz, hm]))]

end Sys2Proof.Claims
end

section
/-! SUPPORT. The replies of loads (O40): the end of a request that no other waits for, the words of a returned value, and where they land
(R22, R162, R220, R225). -/

namespace Sys2Proof.Machine

open Sys2Proof.Claims

/-! ## The end of a request -/

theorem id_of_reqAt {s : State} {r : Nat} {q : Req} (h : reqAt s r = some q) : q.id = r := by
  simpa using List.find?_some h

theorem mem_of_reqAt {s : State} {r : Nat} {q : Req} (h : reqAt s r = some q) : q ∈ s.reqs := List.mem_of_find?_eq_some h

/-- Nothing waits for a request: its end releases nothing. -/
theorem releaseAfter_none {s : State} {r : Nat} (h : ∀ x ∈ s.reqs, r ∉ x.after) : releaseAfter s r = s := by
  have hf : (s.reqs.filter fun x => x.after.contains r) = [] := by
    rw [List.filter_eq_nil_iff]
    intro x hx
    simpa using h x hx
  have hm : (s.reqs.map fun x => { x with after := x.after.erase r }) = s.reqs := by
    refine (List.map_congr_left fun x hx => ?_).trans (List.map_id s.reqs)
    rw [List.erase_of_not_mem (h x hx)]
    rfl
  rw [releaseAfter, hf, hm]
  rfl

theorem endReq_none {s : State} {r : Nat} (h : ∀ x ∈ s.reqs, r ∉ x.after) : endReq s r = dropReq s r :=
  releaseAfter_none fun x hx => h x (List.mem_filter.1 hx).1

/-! ## A load's reply -/

theorem noteSeen_nil (s : State) (who : AgentRef) : noteSeen s who [] = s := rfl

theorem foldl_noteSeen_nil (s : State) (as : List AgentRef) : as.foldl (fun s a => noteSeen s a []) s = s := by
  induction as with
  | nil => rfl
  | cons a as ih => exact ih

/-- A reply with no marks and no poison: a load that is no acquire has its value land. -/
theorem landReq_load {s : State} {q : Req} {bs : List Byte} {keep : Bool} {d : Dest} (hop : q.op = .load keep false d)
    (hr : q.reply = some (bs, false)) (ho : q.ovr = []) (hs : q.seen = []) : landReq s q = endReq (landDest s q d bs none) q.id := by
  rw [landReq, hr, hop, ho, hs]
  simp only [foldl_noteSeen_nil]
  rfl

/-- LOAD_REPLY of such a load, of no group, that overwrites no tile's marks. -/
theorem exec_loadReply {s : State} {r : Nat} {q : Req} {bs : List Byte} {keep : Bool} {d : Dest} (hq : reqAt s r = some q)
    (hh : q.held = false) (hg : q.group = 0) (ho : q.ovr = []) (hs : q.seen = []) (hr : q.reply = some (bs, false))
    (hb : ∀ x ∈ s.reqs, landsBefore x q = false) (hop : q.op = .load keep false d) (hc : clearMarks s q = s) :
    exec (.loadReply r) s = .next (endReq (landDest s q d bs none) r) := by
  have hany : (s.reqs.any fun x => landsBefore x q) = false := by
    rw [List.any_eq_false]
    intro x hx
    simp [hb x hx]
  change execLoadReply r s = _
  rw [execLoadReply, hq]
  simp [hg, hh, hr, hany, hc, landReq_load hop hr ho hs, id_of_reqAt hq]

/-! ## The words of a value (R220) -/

/-- A value extended from its bits to a register. -/
theorem ofNat_extended {bits n : Nat} (hb : 0 < bits) (hn : bits ≤ n) (sx : Bool) (v : Nat) :
    BitVec.ofNat n (if sx && bits < n && v / 2 ^ (bits - 1) % 2 = 1 then v % 2 ^ bits + (2 ^ n - 2 ^ bits) else v % 2 ^ bits) =
      if sx then (BitVec.ofNat bits v).signExtend n else (BitVec.ofNat bits v).setWidth n := by
  have hmsb : (BitVec.ofNat bits v).msb = decide (v / 2 ^ (bits - 1) % 2 = 1) := by
    have : bits - 1 < bits := by omega
    rw [BitVec.msb_eq_getLsbD_last, BitVec.getLsbD_ofNat, Nat.testBit_eq_decide_div_mod_eq]
    simp [this]
  apply BitVec.eq_of_toNat_eq
  have hlt : v % 2 ^ bits < 2 ^ bits := Nat.mod_lt _ (Nat.two_pow_pos _)
  have hle : 2 ^ bits ≤ 2 ^ n := Nat.pow_le_pow_right (by omega) hn
  cases sx with
  | false => simp [Nat.mod_eq_of_lt (Nat.lt_of_lt_of_le hlt hle)]
  | true =>
    rw [if_pos rfl, BitVec.toNat_signExtend, hmsb, BitVec.toNat_setWidth, BitVec.toNat_ofNat, BitVec.toNat_ofNat,
      Nat.mod_eq_of_lt (Nat.lt_of_lt_of_le hlt hle)]
    by_cases hv : v / 2 ^ (bits - 1) % 2 = 1
    · rcases Nat.lt_or_eq_of_le hn with hn | rfl
      · simp only [hv, hn, decide_true, Bool.and_self, if_true]
        exact Nat.mod_eq_of_lt (by omega)
      · simp
    · simp [hv, Nat.mod_eq_of_lt (Nat.lt_of_lt_of_le hlt hle)]

/-- The low bits of an extended value. -/
theorem extract_signExtend {bits n m : Nat} (hn : n ≤ m) (x : BitVec bits) : (x.signExtend m).extractLsb' 0 n = x.signExtend n := by
  apply BitVec.eq_of_getLsbD_eq
  intro i hi
  have hm : i < m := Nat.lt_of_lt_of_le hi hn
  simp only [BitVec.getLsbD_extractLsb', BitVec.getLsbD_signExtend, Nat.zero_add, hi, hm, decide_true, Bool.true_and]

theorem extract_setWidth {bits n m : Nat} (hn : n ≤ m) (x : BitVec bits) : (x.setWidth m).extractLsb' 0 n = x.setWidth n := by
  apply BitVec.eq_of_getLsbD_eq
  intro i hi
  simp [hi, Nat.lt_of_lt_of_le hi hn]

/-- A value in one register that holds it. -/
theorem loadedValue_low {bits n : Nat} (hb : 0 < bits) (hn : bits ≤ n) (hm : n ≤ 128) (sx : Bool) (v : Nat) :
    BitVec.ofNat n (if sx && bits < n && v / 2 ^ (bits - 1) % 2 = 1 then v % 2 ^ bits + (2 ^ n - 2 ^ bits) else v % 2 ^ bits) =
      (if sx then (BitVec.ofNat bits v).signExtend 128 else (BitVec.ofNat bits v).setWidth 128).extractLsb' 0 n := by
  rw [ofNat_extended hb hn]
  cases sx
  · exact (extract_setWidth hm _).symm
  · exact (extract_signExtend hm _).symm

/-- A word of a longer value. -/
theorem extract_word {bits i : Nat} (h : 32 * (i + 1) ≤ bits) (hb : bits ≤ 128) (v : Nat) :
    ((BitVec.ofNat bits v).setWidth 128).extractLsb' (32 * i) 32 = BitVec.ofNat 32 (v / 2 ^ (32 * i)) := by
  apply BitVec.eq_of_getLsbD_eq
  intro j hj
  have h1 : 32 * i + j < 128 := by omega
  have h2 : 32 * i + j < bits := by omega
  simp only [BitVec.getLsbD_extractLsb', BitVec.getLsbD_setWidth, BitVec.getLsbD_ofNat, Nat.testBit_div_two_pow, hj, h1, h2, decide_true,
    Bool.true_and, Nat.add_comm j (32 * i)]

theorem length_loadWords (d : Reg) (w : Width) (sx : Bool) (v : Nat) : (loadWords w sx v).length = (valueRegs d w).length := by
  cases w <;> rfl

/-- The words of a returned value (R220). -/
theorem loadWords_getD (d : Reg) (w : Width) (sx : Bool) (bs : List Byte) {i : Nat} (hi : i < (valueRegs d w).length) :
    (loadWords w sx (natLE bs)).getD i 0 = (loadedValue w sx bs).extractLsb' (32 * i) 32 := by
  cases w
  case b8 | b16 | b32 =>
    obtain rfl : i = 0 := by simpa [valueRegs] using hi
    exact loadedValue_low (by decide) (by decide) (by decide) sx _
  case b64 =>
    have hi : i < 2 := hi
    have hword : i = 0 ∨ i = 1 := by omega
    rw [loadedValue, extract_word (by omega) (by omega)]
    rcases hword with rfl | rfl <;> simp [loadWords]
  case b128 =>
    have hi : i < 4 := hi
    have := extract_word (bits := 128) (i := i) (by omega) (by omega) (natLE bs)
    rw [BitVec.setWidth_eq] at this
    have hword : i = 0 ∨ i = 1 ∨ i = 2 ∨ i = 3 := by omega
    rw [loadedValue, this]
    rcases hword with rfl | rfl | rfl | rfl <;> simp [loadWords]

/-- A value of at most 64 bits in an S register (R220). -/
theorem extendLoad_eq {w : Width} (hw : w ≠ .b128) (sx : Bool) (bs : List Byte) :
    BitVec.ofNat 64 (extendLoad 64 w sx (natLE bs)) = (loadedValue w sx bs).extractLsb' 0 64 := by
  cases w
  case b8 | b16 | b32 => exact loadedValue_low (by decide) (by decide) (by decide) sx _
  case b64 =>
    rw [loadedValue, extract_setWidth (by omega)]
    exact BitVec.eq_of_toNat_eq (by simp [extendLoad])
  case b128 => exact absurd rfl hw

/-! ## Where a value lands -/

/-- Words written from a place on, one after the other. -/
theorem foldl_words {f : LaneRegs → W32 × Nat → LaneRegs} {r : Nat}
    (hf : ∀ x p (m : Fin 48), (f x p).v[m] = if m.val = r + p.2 then p.1 else x.v[m]) (vs : List W32) (j : Nat) (x : LaneRegs) (m : Fin 48) :
    ((vs.zip (List.range' j vs.length)).foldl f x).v[m] =
      if r + j ≤ m.val ∧ m.val < r + j + vs.length then vs.getD (m.val - (r + j)) 0 else x.v[m] := by
  induction vs generalizing j x with
  | nil => rw [if_neg (by simp only [List.length_nil]; omega)]; rfl
  | cons v vs ih =>
    rw [List.length_cons, List.range'_succ, List.zip_cons_cons, List.foldl_cons, ih (j + 1), hf]
    by_cases h : r + (j + 1) ≤ m.val ∧ m.val < r + (j + 1) + vs.length
    · obtain ⟨i, hi⟩ : ∃ i, m.val - (r + j) = i + 1 := ⟨m.val - (r + j) - 1, by omega⟩
      rw [if_pos h, if_pos (by omega), hi, List.getD_cons_succ]
      congr 1
      omega
    · rw [if_neg h]
      by_cases he : m.val = r + j
      · rw [if_pos he, if_pos (by omega), he, Nat.sub_self, List.getD_cons_zero]
      · rw [if_neg he, if_neg (by omega)]

/-- A lane after a value without poison has landed in it from register r on. -/
theorem landLane_v (x : LaneRegs) (r : Nat) (vs : List W32) (m : Fin 48) :
    (landLane x r vs none).v[m] = if r ≤ m.val ∧ m.val < r + vs.length then vs.getD (m.val - r) 0 else x.v[m] := by
  have h := foldl_words (r := r) (f := fun x p => if h : r + p.2 < 48 then
      { x with v := x.v.set (r + p.2) p.1, poison := x.poison &&& ~~~(1#48 <<< (r + p.2)) } else x)
    (fun x p m => by
      by_cases h : r + p.2 < 48
      · simp only [dif_pos h, Fin.getElem_fin, Vector.getElem_set, eq_comm]
      · rw [dif_neg h, if_neg (by omega)]) vs 0 x m
  rw [← List.range_eq_range'] at h
  exact h

/-- Its predicates and its banked registers stay. -/
theorem landLane_keeps (x : LaneRegs) (r : Nat) (vs : List W32) : (landLane x r vs none).p = x.p ∧
    (landLane x r vs none).bankV = x.bankV ∧ (landLane x r vs none).bankP = x.bankP := by
  refine List.foldlRecOn (motive := fun y : LaneRegs => y.p = x.p ∧ y.bankV = x.bankV ∧ y.bankP = x.bankP) _ _ ⟨rfl, rfl, rfl⟩ ?_
  intro y hy p _
  dsimp only
  split <;> exact hy

/-- A value without poison in an S register of a strand that has nothing pending (R19, R22). -/
theorem landSreg_done {x : Strand} (hp : x.pend = []) (r : Reg) (v : W64) :
    landSreg x r v none = { x with s := x.s.set r.toFin v, poison := x.poison &&& ~~~(1#64 <<< r.toNat) } := by
  simp [landSreg, settleReg, hp]

/-- A load's value in an S register (R220, R225). -/
theorem landDest_sreg {s : State} {q : Req} {k : CoreId} {n : StrandId} {x : Strand} {w : Width} (hw : w ≠ .b128)
    (hn : q.who = .strand k n) (hx : strandAt (coreAt s k) n = some x) (hp : x.pend = []) (d : Reg) (sx : Bool) (bs : List Byte) :
    landDest s q (.sreg d w sx) bs none = strandDone s k n
      { x with s := x.s.set d.toFin ((loadedValue w sx bs).extractLsb' 0 64), poison := x.poison &&& ~~~(1#64 <<< d.toNat) } := by
  rw [← extendLoad_eq hw, ← landSreg_done hp, landDest, hn]
  cases w
  case b128 => exact absurd rfl hw
  all_goals exact onStrand_done hx _

/-- A load's value in a lane's registers (R220, R225). -/
theorem landDest_lane {s : State} {q : Req} {k : CoreId} {ix : WarpIx} {x : Warp} (hp : q.place = some (k, ix))
    (hx : warpAt (coreAt s k) ix = some x) (l : Lane) (d : Reg) (w : Width) (sx : Bool) (bs : List Byte) :
    landDest s q (.lane l d w sx) bs none = setCore s k (setWarp (coreAt s k) ix
      (some { x with lanes := x.lanes.set l (landLane x.lanes[l] d.toNat (loadWords w sx (natLE bs)) none) })) := by
  rw [landDest, hp]
  exact onWarp_some hx _

end Sys2Proof.Machine

namespace Sys2Proof.Claims

open Sys2Proof.Machine

theorem repliesComeBack : RepliesComeBack := by
  intro s r q bs keep hq hh hg ho hs hr ha hb
  refine ⟨fun k ix x l d w sx hop hp hw => ?_, fun k n x d w sx hw hop hn hx hpend => ?_⟩
  · obtain ⟨h1, h2, h3⟩ := landLane_keeps x.lanes[l] d.toNat (loadWords w sx (natLE bs))
    refine ⟨_, ?_, h1, h2, h3, fun m => ?_⟩
    · rw [exec_loadReply hq hh hg ho hs hr hb hop (by rw [clearMarks, hop]), landDest_lane hp hw]
      exact congrArg _ (endReq_none ha)
    · rw [landLane_v, length_loadWords d]
      split
      · next hm => exact loadWords_getD d w sx bs (by omega)
      · rfl
  · rw [exec_loadReply hq hh hg ho hs hr hb hop (by rw [clearMarks, hop]), landDest_sreg hw hn hx hpend]
    exact congrArg _ (endReq_none ha)

/-- Settles O40: each reply is the end of its request, after its value has landed word by word. -/
theorem repliesLand : Obligations.RepliesLand := repliesComeBack

end Sys2Proof.Claims
end

section
/-! SUPPORT. The step of the agenda (O56), refuted: a line of code that carries an engine's mark is not read yet (R202), so the turn of
an agent passes without its op, and nothing in `CodeAt` rules such a mark out. -/

namespace Sys2Proof.Machine

/-! ## A fragment at a NOP in a marked line -/

/-- The model's probe team, about to run a NOP, with an engine's mark on the line that holds it. -/
def markedCode : State := { probe State.reset true (bytesLE 4 0) with lines := [{ line := lineOf (dieCell 0 0), pend := [0] }] }

/-- The same, with its turn taken from the agenda. -/
def markedTurn : State := { markedCode with agenda := [] }

/-- Its fragment. -/
def markedFrag : Frag := { fragStart 0 probeRecord 0 with fetched := true }

/-- Its warp. -/
def markedWarp : Warp := warpStart State.reset.nextId probeRecord 0

/-- Where fragment 0 of core 0 stands after a step. -/
def pcAfter : Out → Option W64
  | .next t => (fragAt (coreAt t 0) 0).map (·.pc)
  | _ => none

end Sys2Proof.Machine

namespace Sys2Proof.Claims

open Sys2Proof.Machine

/-- Nothing but its op stands in the fragment's way. -/
theorem fragTurn_markedTurn : FragTurn markedTurn 0 0 markedFrag markedWarp where
  frag := by decide +kernel
  warp := by decide +kernel
  runs := by decide +kernel
  watch := by decide +kernel
  steps := by decide +kernel
  break_ := Option.isNone_iff_eq_none.1 (by decide +kernel)

/-- Its code bytes are those of NOP. -/
theorem codeAt_markedTurn : CodeAt markedTurn 0 markedWarp.team markedFrag.pc 4 (bytesLE 4 0) where
  aligned := by decide +kernel
  inside := by decide +kernel
  bytes := ⟨dieCell 0 0, 512, 0x8F#64, by decide +kernel⟩

/-- Refutes O56: the fragment's NOP would take it to 0x400004, and its turn leaves it at 0x400000, for its line is marked. -/
theorem not_stepRunsDecodedOp : ¬ Obligations.StepRunsDecodedOp := by
  rintro ⟨h, -, -⟩
  obtain ⟨hop, -⟩ := h markedCode [] 0 0 markedFrag markedWarp (bytesLE 4 0) rfl fragTurn_markedTurn codeAt_markedTurn _ rfl
  obtain ⟨hstep, -⟩ := hop (.nop always) rfl rfl (by decide +kernel) (by decide +kernel)
  have hpc := congrArg pcAfter (hstep (by decide +kernel))
  have hwait : pcAfter (step markedCode) = some 0x400000#64 := by decide +kernel
  rw [hwait] at hpc
  exact absurd hpc (by decide +kernel)

end Sys2Proof.Claims
end

section
/-! SUPPORT. The steps of a strand outside its ops (O36), refuted at RDV_RELEASE: passing an RDV takes the strand out of every wait of its
team for that RDV, one in its own `back` among them (R313). -/

namespace Sys2Proof.Machine

/-- The probe's strand at RDV 0 with no partner left, and, beneath that wait, a wait for itself. -/
def selfWaiter : Strand := { strandStart State.reset.nextId probeRecord with state := .rdv 0 [], back := .rdv 0 [(0, 0)] }

/-- The model's probe team with that strand. -/
def selfWaiting : State := strandDone (probe State.reset false []) 0 0 selfWaiter

/-- The wait beneath that of strand 0 of core 0, after a step. -/
def backAfter : Out → Option StrandState
  | .next t => (strandAt (coreAt t 0) 0).map (·.back)
  | _ => none

/-- The release takes the strand out of the wait beneath. -/
theorem backAfter_rdvRelease : backAfter (exec (.rdvRelease 0 0) selfWaiting) = some (.rdv 0 []) := by decide +kernel

end Sys2Proof.Machine

namespace Sys2Proof.Claims

open Sys2Proof.Machine

/-- Refutes O36: the strand that RDV_RELEASE leaves differs from the one before in `back` too, where that is a wait for itself. -/
theorem not_strandEventsComplete : ¬ Obligations.StrandEventsComplete := by
  rintro ⟨-, -, -, h⟩
  obtain ⟨t, ht, -, hs⟩ := h selfWaiting 0 0 selfWaiter 0 (strandAt_strandDone ..) rfl
  have hback := backAfter_rdvRelease
  rw [ht, backAfter, hs] at hback
  exact absurd hback (by decide +kernel)

end Sys2Proof.Claims
end

section
/-! SUPPORT. The conversions of a tile and of the lanes, and the ops of the matrix engine (O24, O25, O27): the record that a conversion reads
at its issue, and the operands that an MX op takes (R39 to R46, R55, R56, R104 to R113, R115, R121, R175). -/

namespace Sys2Proof.Machine

open Sys2Proof.Claims

/-! ## The record of a conversion (R45) -/

/-- A record that its op accepts names formats that there are. -/
theorem codes_of_formatBad {r : FormatRec} (h : formatBad r = false) : r.src ≤ 2 ∧ r.tgt ≤ 8 := by
  simp only [formatBad, Bool.or_eq_false_iff, decide_eq_false_iff_not, Nat.not_lt] at h
  obtain ⟨⟨⟨⟨-, hsrc⟩, htgt⟩, -⟩, -⟩ := h
  exact ⟨hsrc, htgt⟩

/-- A fragment's op goes on with the record that it has read. -/
theorem warpRecordOp_ok {e : WarpEnv} {s u : State} {va : W64} {log len : Nat} {raw : List Byte}
    (h : readRecord s (warpIssue s e) e.i va log len (fun _ => []) = .ok u raw) (body : State → List Byte → Out) :
    warpRecordOp e s va log len body = body u raw := by
  rw [warpRecordOp, h]

/-- A per-lane op that nothing stops writes its lanes and goes on, in whatever state it has come to. -/
theorem perLane_clean {e : WarpEnv} {srcs dsts : List Reg} (h : LaneClean e srcs dsts) (s : State) (pds : List Pred) (lat : Nat)
    (res : Lane → LaneRes) : perLane e s srcs dsts pds lat res =
      .next (warpAdvance (setScore (writeLanes s e.k e.x.warp e.parts lat res) e.k e.f dsts pds lat) e) := by
  rw [perLane, h.noTrap.1, h.noTrap.2]

/-! ## The issue of a unit with several results -/

/-- A unit whose operands are good issues (R18, R21, R304, R311). -/
theorem consume_unitIssue_done {s : State} {e : StrandEnv} {cur : Strand} {srcs : List Nat} {outs : List (Nat × PendDst)}
    (hs : strandAt (coreAt s e.k) e.n = some cur) (ht : TilesGood e cur srcs (outs.map (·.1))) (busy lat : Nat) (whole : List Nat) :
    ∃ t, consume s e srcs (unitIssue s e busy lat outs whole) = .next t ∧ UnitDone s t e cur busy lat (outs.map (·.2)) := by
  rw [consume_good ht.good]
  exact unitIssue_done busy lat outs whole hs ht.room

/-! ## TCVT -/

/-- TCVT with an accepted record, at tiles that its gate lets through, converts and issues its unit (R121). -/
theorem exec_tcvt {g : Guard} {d a b : Reg} {s u : State} {k : CoreId} {n : StrandId} {slot : Slot} {st cur : Strand} {e : StrandEnv}
    {raw : List Byte} {r : FormatRec} {cs cso : Nat} {srcs : List Nat} {data : TileData} {bs : List Byte}
    (h : SlotTakes s (.tcvt g d a b) g k n slot st cur) (he : e = slotEnv s (.tcvt g d a b) k n slot st)
    (hrec : readRecord s (strandIssue s e) (.tcvt g d a b) (opB e b) 6 64 (fun l => queuedBytes s e l 64) = .ok u raw)
    (hr : r = formatRec raw) (hbad : formatBad r = false) (hle : rowElems r.src ≤ rowElems r.tgt)
    (hcs : cs = ((viewMxcfg e.st).extractLsb' 30 6).toNat) (hcso : cso = ((viewMxcfg e.st).extractLsb' 36 5).toNat)
    (hsrcs : srcs = (List.range (max 1 (rowElems r.tgt / rowElems r.src))).map (tileNum e a + ·))
    (hconv : (data, bs) = tcvtGroups r (tcvtSource r fun m => (viewTile e (tileNum e a + m)).data))
    (hgate : tileGate u e true (srcs ++ [tileNum e d] ++ streamTiles (viewTwb e.st).toNat cs cso (scaleBytes r.tgt)) srcs none = .ok) :
    exec (.tcvt g d a b) s = consume u e srcs (unitIssue u e 2 4
      ((tileNum e d, .tile (tileNum e d) false data) :: scaleWrites (viewTwb e.st).toNat cs cso bs) [tileNum e d]) := by
  have hi : e.i = .tcvt g d a b := by rw [he]; rfl
  obtain ⟨hsrc, htgt⟩ := codes_of_formatBad hbad
  refine (asOp_slot h ..).trans ?_
  rw [← he]
  dsimp only
  rw [hi, hrec]
  dsimp only
  rw [← hr, if_pos (by simp [hsrc, htgt]), if_pos htgt, ← hsrcs, ← hcs, ← hcso, hgate, gated,
    if_neg (by simp [hbad, Nat.not_lt.2 hle]), ← hconv]

/-! ## The matrix ops -/

/-- A field of the matrix configuration (R107). -/
def mxField (e : StrandEnv) (lo len : Nat) : Nat := ((viewMxcfg e.st).extractLsb' lo len).toNat

/-- A byte of a scale stream (R109). -/
def scaleStreamByte (e : StrandEnv) (first off q : Nat) : Nat :=
  tileBits (viewTile e ((viewTwb e.st).toNat + (streamByte first off q).1)).data (8 * (streamByte first off q).2) 8

/-- The tiles that an MX op reads, without its accumulator: those of A and of B, and those of their scales (R104, R109, R110). -/
def mxSources (kind : MxKind) (e : StrandEnv) (a b : Reg) (beats : Nat) : List Nat :=
  (if kind = .mmar then [] else (List.range (beats / 2)).map (tileNum e a + ·)) ++ (List.range beats).map (tileNum e b + ·) ++
    streamTiles (viewTwb e.st).toNat (mxField e 8 6) (mxField e 14 5)
      (blockScale (mxField e 0 4) * (beats / 2 * tileBlocks (mxField e 0 4))) ++
    streamTiles (viewTwb e.st).toNat (mxField e 19 6) (mxField e 25 5)
      (blockScale (mxField e 4 4) * (beats * tileBlocks (mxField e 4 4)))

/-- The tiles whose contents an MX op takes: its sources, and the accumulator unless it starts from zero (R111). -/
def mxReads (kind : MxKind) (e : StrandEnv) (d a b : Reg) (beats : Nat) : List Nat :=
  mxSources kind e a b beats ++ if kind = .mmaz then [] else [tileNum e d]

/-- The accumulators that an MX op starts from: zero, or those of the op before it in place (R111, R112). -/
def mxStart (kind : MxKind) (e : StrandEnv) (td : Nat) : List Nat :=
  if kind = .mmaz then List.replicate 512 0
  else tileElems 32 ((notDue e td).foldl (fun x p => (pendTile td x p).getD x) (viewTile e td)).data

/-- The operands, formats and scales of an MX op, with its A operand (R104 to R109). -/
def mxOperands (e : StrandEnv) (b : Reg) (beats : Nat) (image : Nat → TileData) : MxOp :=
  { af := mxField e 0 4, bf := mxField e 4 4, beats := beats, a := image, b := fun j => (viewTile e (tileNum e b + j)).data,
    sa := scaleStreamByte e (mxField e 8 6) (mxField e 14 5), sb := scaleStreamByte e (mxField e 19 6) (mxField e 25 5) }

/-- The A operand of an MX op: tiles, or an image in shared memory (R104, R115). -/
def mxOperandA (kind : MxKind) (s : State) (e : StrandEnv) (a : Reg) (beats : Nat) : Except Gate (Nat → TileData) :=
  if kind == .mmar then mxImage s e (opA e a) (beats / 2) else .ok fun t => (viewTile e (tileNum e a + t)).data

theorem mxOperandA_ok {kind : MxKind} {s : State} {e : StrandEnv} {a : Reg} {beats : Nat} {image : Nat → TileData}
    (htiles : kind ≠ .mmar → image = fun q => (viewTile e (tileNum e a + q)).data)
    (himage : kind = .mmar → mxImage s e (opA e a) (beats / 2) = .ok image) : mxOperandA kind s e a beats = .ok image := by
  by_cases hk : kind = .mmar
  · rw [mxOperandA, if_pos (beq_iff_eq.2 hk), himage hk]
  · rw [mxOperandA, if_neg (mt beq_iff_eq.1 hk), htiles hk]

/-- An MX op of formats that go together, at tiles that its gate lets through and with its A operand at hand, accumulates and issues its
unit (R110 to R113). -/
theorem mxOp_passes {i : Instr} {g : Guard} {kind : MxKind} {d a b : Reg} {fn : BitVec 4} {s : State} {k : CoreId} {n : StrandId} {slot : Slot}
    {st cur : Strand} {e : StrandEnv} {beats : Nat} {image : Nat → TileData} (h : SlotTakes s i g k n slot st cur)
    (he : e = slotEnv s i k n slot st) (hbeats : beats = 2 * (fn.toNat + 1)) (hk : kGroup (mxField e 0 4) ≠ 0)
    (hkb : kGroup (mxField e 0 4) = kGroup (mxField e 4 4))
    (hgate : tileGate s e true (tileNum e d :: mxSources kind e a b beats) (mxReads kind e d a b beats)
      (if (mxSources kind e a b beats).contains (tileNum e d) then none else some (tileNum e d)) = .ok)
    (himage : mxOperandA kind s e a beats = .ok image)
    (hpoison : kind = .mmar → sharedPoison s e.k e.st.team ((opA e a).toNat % 281474976710656) (1024 * beats) = false) :
    mxOp i g kind d a b fn s = consume s e (mxReads kind e d a b beats) (unitIssue s e beats (beats + 8)
      [(tileNum e d, .tile (tileNum e d) true (tileOfElems 32 (mxRun (mxOperands e b beats image) (mxStart kind e (tileNum e d)))))]
      (if kind = .mmaz then [tileNum e d] else [])) := by
  have hkinds : ¬ (decide (kGroup (mxField e 0 4) = 0) || decide (kGroup (mxField e 0 4) ≠ kGroup (mxField e 4 4))) = true := by
    simp [← hkb, hk]
  have hclean : ¬ (kind == .mmar && sharedPoison s e.k e.st.team ((opA e a).toNat % 281474976710656) (1024 * beats)) = true := by
    simpa using hpoison
  subst hbeats
  rw [mxOp, strandOp, asOp_slot h, ← he]
  refine (if_neg hkinds).trans ?_
  simp only [mxOperandA] at himage
  rw [himage]
  simp only [beq_iff_eq]
  refine (congrArg (gated s e · _) hgate).trans ?_
  exact if_neg hclean

end Sys2Proof.Machine

namespace Sys2Proof.Claims

open Sys2Proof.Machine

/-- Settles O24: TCVT with an accepted record converts, and its unit issues the tile and the scale bytes. -/
theorem tcvtCompletes : Obligations.TcvtCompletes := by
  intro g d a b s u k n slot st cur now e raw r ta td cs cso srcs data bs h he hrec hnow hr hbad hle hta htd hcs hcso hsrcs hconv hgate ht
  subst he hta htd
  rw [exec_tcvt h rfl hrec hr hbad hle hcs hcso hsrcs hconv hgate]
  exact consume_unitIssue_done hnow ht 2 4 _

/-- Settles O25: each op is an MX op, whose unit issues the accumulation of its operands. -/
theorem matrixOpsComplete : Obligations.MatrixOpsComplete := by
  intro i kind g d a b fn hi s k n slot st cur e field tile beats sas sbs srcs image sc c0 m h he hfield htile hbeats hk hkb hsas hsbs hsrcs
    hgate htiles himage hsc hc0 hm ht
  have hexec : exec i s = mxOp i g kind d a b fn s := by
    rcases hi with ⟨rfl, rfl⟩ | ⟨rfl, rfl⟩ | ⟨rfl, rfl⟩ <;> rfl
  subst he hfield htile hsas hsbs hsrcs hsc hc0 hm
  rw [hexec, mxOp_passes h rfl hbeats hk hkb hgate (mxOperandA_ok htiles fun hr => (himage hr).1) fun hr => (himage hr).2]
  exact consume_unitIssue_done h.here ht beats (beats + 8) _

/-- Settles O27: CVTN reads its record once, and is then a per-lane op. -/
theorem cvtnCompletes : Obligations.CvtnCompletes := by
  intro g d a b s u k f x w e raw r pair h he hwin honce hrec hr hbad hok hpair hclean
  have hi : e.i = .cvtn g d a b := by rw [he]; rfl
  have hpair' : (decide (r.src = 0) && decide (r.tgt ≠ 0)) = pair := by
    rw [hpair, decide_not]
    rfl
  refine (asOp_takes h ..).trans ?_
  rw [← he]
  dsimp only
  rw [windowTrap_none hwin]
  dsimp only
  rw [once_clean honce]
  refine (warpRecordOp_ok (by rw [warpIssue_countedState, hi]; exact hrec) _).trans ?_
  rw [← hr, hpair', if_neg (by simp [hbad, hok]), perLane_clean hclean, he]
  rfl

end Sys2Proof.Claims
end

section
/-! SUPPORT. Decoding and encoding agree (O52, O53): the fields of a word put together are the word, each group of the decoder reads back
what the encoder wrote, and whatever a group answers is spelled by the word that it was given (R58 to R64). -/

namespace Sys2Proof

/-! ## A word is its fields in its format (R58) -/

/-- One bit is a field. -/
theorem ofBool_getLsbD {k : Nat} (x : BitVec k) (i : Nat) : BitVec.ofBool (x.getLsbD i) = x.extractLsb' i 1 := by
  apply BitVec.eq_of_getLsbD_eq
  intro j hj
  obtain rfl : j = 0 := by omega
  simp

/-- A value is its high part and its low part. -/
theorem append_of_high {m n : Nat} {x : BitVec (m + n)} {y : BitVec m} (h : x.extractLsb' n m = y) : y ++ x.extractLsb' 0 n = x := by
  rw [← h, BitVec.extractLsb'_append_extractLsb'_eq_extractLsb' (Nat.zero_add n).symm, extract_all]

theorem code_ofCode_cond : ∀ c, (Cond.ofCode c).code = c := by decide
theorem code_ofCode_scope : ∀ c, (Scope.ofCode c).code = c := by decide
theorem code_ofCode_cvtf : ∀ c, (CvtfKind.ofCode c).code = c := by decide
theorem code_ofCode_cvti : ∀ c, (CvtiKind.ofCode c).code = c := by decide

section Fields
variable {w : W32} {n : Nat} (h : (fOp w).toNat = n)
include h

theorem encWord_fields : encWord (BitVec.ofNat 6 n) (fGuard w) (fO22 w) = w := by
  subst h
  simp only [BitVec.ofNat_toNat, BitVec.setWidth_eq, encWord, fOp, fGuard, fO22, ofBool_getLsbD,
    BitVec.extractLsb'_append_extractLsb'_eq_extractLsb', extract_all]

theorem encF3_fields : encF3 (BitVec.ofNat 6 n) (fGuard w) (fD w) (fA w) (fB w) (fFn w) = w := by
  have body : fD w ++ fA w ++ fB w ++ fFn w = fO22 w := by
    simp only [fD, fA, fB, fFn, fO22, BitVec.extractLsb'_append_extractLsb'_eq_extractLsb']
  rw [encF3, body, encWord_fields h]

theorem encF2I_fields : encF2I (BitVec.ofNat 6 n) (fGuard w) (fD w) (fA w) (fI10 w) = w := by
  have body : fD w ++ fA w ++ fI10 w = fO22 w := by
    simp only [fD, fA, fI10, fO22, BitVec.extractLsb'_append_extractLsb'_eq_extractLsb']
  rw [encF2I, body, encWord_fields h]

theorem encF1I_fields : encF1I (BitVec.ofNat 6 n) (fGuard w) (fD w) (fI16 w) = w := by
  have body : fD w ++ fI16 w = fO22 w := by
    simp only [fD, fI16, fO22, BitVec.extractLsb'_append_extractLsb'_eq_extractLsb']
  rw [encF1I, body, encWord_fields h]

theorem encFC_fields : encFC (BitVec.ofNat 6 n) (fGuard w) (fPd w) (fCc w).code (fA w) (fB w) (fFn w) = w := by
  have body : fPd w ++ (fCc w).code ++ fA w ++ fB w ++ fFn w = fO22 w := by
    simp only [fPd, fCc, code_ofCode_cond, fA, fB, fFn, fO22, BitVec.extractLsb'_append_extractLsb'_eq_extractLsb']
  rw [encFC, body, encWord_fields h]

/-- CMPI's word has the PD and CC of FC and the I10 of F2I. -/
theorem encCmpi_fields : encWord (BitVec.ofNat 6 n) (fGuard w) (fPd w ++ (fCc w).code ++ fA w ++ fI10 w) = w := by
  have body : fPd w ++ (fCc w).code ++ fA w ++ fI10 w = fO22 w := by
    simp only [fPd, fCc, code_ofCode_cond, fA, fI10, fO22, BitVec.extractLsb'_append_extractLsb'_eq_extractLsb']
  rw [body, encWord_fields h]

theorem encFM_fields {ord : Order} {wd : Width} (ho : ord.code = w.extractLsb' 6 2) (hw : wd.code = w.extractLsb' 3 3) :
    encFM (BitVec.ofNat 6 n) (fGuard w) (fD w) (fA w) (fSc w) ord wd (w.extractLsb' 0 3) = w := by
  have body : fD w ++ fA w ++ (fSc w).code ++ ord.code ++ wd.code ++ w.extractLsb' 0 3 = fO22 w := by
    simp only [fD, fA, fSc, code_ofCode_scope, ho, hw, fO22, BitVec.extractLsb'_append_extractLsb'_eq_extractLsb']
  rw [encFM, body, encWord_fields h]

end Fields

/-! ## The sub-fields with illegal values: what reads as a value is its code -/

theorem code_of_ofCode_order : ∀ c, ∀ k ∈ Order.ofCode c, k.code = c := by decide
theorem code_of_ofCode_width : ∀ c, ∀ k ∈ Width.ofCode c, k.code = c := by decide
theorem code_of_ofCode_atomOp : ∀ c, ∀ k ∈ AtomOp.ofCode c, k.code = c := by decide
theorem code_of_ofCode_fmaRound : ∀ c, ∀ k ∈ FmaRound.ofCode c, k.code = c := by decide
theorem code_of_ofCode_unpk : ∀ c, ∀ k ∈ UnpkMode.ofCode c, k.code = c := by decide
theorem code_of_ofCode_tile : ∀ c, ∀ k ∈ TileMode.ofCode c, k.code = c := by decide

/-- A register field holds a predicate when that is the whole of it (R59). -/
theorem predOf_eq_some {r : Reg} {p : Pred} : predOf r = some p ↔ r = 0#3 ++ p := by
  unfold predOf
  constructor
  · intro h
    split at h
    · next hr => rw [← Option.some.inj h]; exact (append_of_high (m := 3) hr).symm
    · cases h
  · rintro rfl
    rw [extract_high _ _ _ _ (by omega), extract_low _ _ _ _ (by omega), extract_all, extract_all, if_pos rfl]

@[simp] theorem withPred_pred (p : Pred) (k : Pred → Except Reject Instr) : withPred (0#3 ++ p) k = k p := by
  rw [withPred, predOf_eq_some.2 rfl]

@[simp] theorem withAop_code (op : AtomOp) (k : AtomOp → Except Reject Instr) : withAop op.code k = k op := by
  rw [withAop, ofCode_code_atomOp]

/-! ## What the encoder wrote is read back -/

section F3
variable (g : Guard) (d a b : Reg) (fn : BitVec 4) (ext : W32)

theorem decodeRaw_sys : decodeRaw (encF3 0x00#6 g d a b fn) ext = decSys g d a b fn := by simp [decodeRaw]
theorem decodeRaw_jmpx : decodeRaw (encF3 0x04#6 g d a b fn) ext = decJmpx g d a b fn := by simp [decodeRaw]
theorem decodeRaw_alu : decodeRaw (encF3 0x08#6 g d a b fn) ext = decAlu g d a b fn := by simp [decodeRaw]
theorem decodeRaw_alu2 : decodeRaw (encF3 0x09#6 g d a b fn) ext = decAlu2 g d a b fn := by simp [decodeRaw]
theorem decodeRaw_plog : decodeRaw (encF3 0x16#6 g d a b fn) ext = decPlog g d a b fn := by simp [decodeRaw]
theorem decodeRaw_fpu : decodeRaw (encF3 0x17#6 g d a b fn) ext = decFpu g d a b fn := by simp [decodeRaw]
theorem decodeRaw_pkf : decodeRaw (encF3 0x1A#6 g d a b fn) ext = decPkf g d a b fn := by simp [decodeRaw]
theorem decodeRaw_xfn : decodeRaw (encF3 0x1B#6 g d a b fn) ext = decXfn g d a b fn := by simp [decodeRaw]
theorem decodeRaw_cvt : decodeRaw (encF3 0x1C#6 g d a b fn) ext = decCvt g d a b fn := by simp [decodeRaw]
theorem decodeRaw_lane : decodeRaw (encF3 0x1D#6 g d a b fn) ext = decLane g d a b fn := by simp [decodeRaw]
theorem decodeRaw_own : decodeRaw (encF3 0x1F#6 g d a b fn) ext = decOwn g d a b fn := by simp [decodeRaw]
theorem decodeRaw_msync : decodeRaw (encF3 0x28#6 g d a b fn) ext = decMsync g d a b fn := by simp [decodeRaw]
theorem decodeRaw_ring : decodeRaw (encF3 0x2A#6 g d a b fn) ext = decRing g d a b fn := by simp [decodeRaw]
theorem decodeRaw_task : decodeRaw (encF3 0x2B#6 g d a b fn) ext = decTask g d a b fn := by simp [decodeRaw]
theorem decodeRaw_tv : decodeRaw (encF3 0x34#6 g d a b fn) ext = decTv g d a b fn := by simp [decodeRaw]
theorem decodeRaw_tr : decodeRaw (encF3 0x35#6 g d a b fn) ext = decTr g d a b fn := by simp [decodeRaw]
theorem decodeRaw_sf : decodeRaw (encF3 0x36#6 g d a b fn) ext = decSf g d a b fn := by simp [decodeRaw]

end F3

theorem decodeRaw_sreg (g : Guard) (d : Reg) (imm : BitVec 16) (ext : W32) :
    decodeRaw (encF1I 0x1E#6 g d imm) ext = decSreg g d imm := by simp [decodeRaw]
theorem decodeRaw_fence (g : Guard) (d : Reg) (imm : BitVec 16) (ext : W32) :
    decodeRaw (encF1I 0x27#6 g d imm) ext = decFence g d imm := by simp [decodeRaw]

section Cmpi
/-! CMPI's word holds the PD and CC of FC, and the I10 of F2I. -/
variable (op : BitVec 6) (g : Guard) (pd : Pred) (cc : Cond) (a : Reg) (imm : BitVec 10)

@[simp] theorem fPd_encCmpi : fPd (encWord op g (pd ++ cc.code ++ a ++ imm)) = pd := by
  unfold fPd
  rw [extract_encWord _ _ _ _ _ (by omega)]
  iterate 3 rw [extract_high _ _ _ _ (by omega)]
  rw [extract_all]
@[simp] theorem fCc_encCmpi : fCc (encWord op g (pd ++ cc.code ++ a ++ imm)) = cc := by
  unfold fCc
  rw [extract_encWord _ _ _ _ _ (by omega)]
  iterate 2 rw [extract_high _ _ _ _ (by omega)]
  rw [extract_low _ _ _ _ (by omega), extract_all, ofCode_code_cond]
@[simp] theorem fA_encCmpi : fA (encWord op g (pd ++ cc.code ++ a ++ imm)) = a := by
  unfold fA
  rw [extract_encWord _ _ _ _ _ (by omega), extract_high _ _ _ _ (by omega), extract_low _ _ _ _ (by omega), extract_all]
@[simp] theorem fI10_encCmpi : fI10 (encWord op g (pd ++ cc.code ++ a ++ imm)) = imm := by
  unfold fI10
  rw [extract_encWord _ _ _ _ _ (by omega), extract_low _ _ _ _ (by omega), extract_all]

end Cmpi

theorem decAlu2_lea (g : Guard) (d a b : Reg) (sh : BitVec 2) : decAlu2 g d a b (0b11#2 ++ sh) = .ok (.lea g d a b sh) := by
  have shifts : ∀ n : BitVec 2, n = 0 ∨ n = 1 ∨ n = 2 ∨ n = 3 := by decide
  rcases shifts sh with rfl | rfl | rfl | rfl <;> rfl

theorem decCvt_cvti (g : Guard) (d a : Reg) (k : CvtiKind) (trunc : Bool) : decCvt g d a (0#3 ++ BitVec.ofBool trunc ++ k.code) 1#4 =
    if k.truncOk trunc then .ok (.cvti g d a k trunc) else .error .reservedField := by
  cases k <;> cases trunc <;> rfl

theorem decShiftImm_append (n : BitVec 6) (mk : BitVec 6 → Instr) : decShiftImm (0#4 ++ n) mk = .ok (mk n) := by
  rw [decShiftImm, extract_high _ _ _ _ (by omega), extract_low _ _ _ _ (by omega), extract_all, extract_all]
  rfl

theorem decSreg_append (g : Guard) (d : Reg) {hi : BitVec 4} (n : BitVec 12) (h : hi.extractLsb' 0 3 = 0#3) :
    decSreg g d (hi ++ n) = .ok (if hi.getLsbD 3 then .swr g d n else .srd g d n) := by
  rw [decSreg, extract_high _ _ _ _ (by omega), if_pos h, extract_low _ _ _ _ (by omega), extract_all, BitVec.getLsbD_append]
  rfl

theorem decTry_pred (p : Pred) (plain : Instr) (try_ : Pred → Instr) : decTry (0b001#3 ++ p) plain try_ = .ok (try_ p) := by
  have nonzero : ∀ p : Pred, 0b001#3 ++ p ≠ 0#6 := by decide
  rw [decTry, if_neg (nonzero p), extract_high _ _ _ _ (by omega), extract_low _ _ _ _ (by omega), extract_all, extract_all, if_pos rfl]

theorem decTileMem_code (strong : Bool) (m : TileMode) (mk : Bool → TileMode → Instr) :
    decTileMem (BitVec.ofBool strong ++ m.code) mk = .ok (mk strong m) := by
  cases strong <;> cases m <;> rfl

section FM
variable (op : BitVec 6) (g : Guard) (d a : Reg) (sc : Scope) (ord : Order) (w : Width)

theorem withMem_encFM (fn : BitVec 3) (k : Order → Width → Except Reject Instr) : withMem (encFM op g d a sc ord w fn) k = k ord w := by
  rw [withMem, ord_encFM, width_encFM, ofCode_code_order, ofCode_code_width]

theorem sx_encFM (fn : BitVec 3) : (encFM op g d a sc ord w fn).getLsbD 0 = fn.getLsbD 0 := by
  rw [← BitVec.ofBool_eq_iff_eq, ofBool_getLsbD, ofBool_getLsbD, fn_encFM _ _ _ _ _ _ _ _ _ _ (by omega)]

theorem decLoad_encFM (sx : Bool) (mk : Order → Width → Bool → Instr) :
    decLoad (encFM op g d a sc ord w (0#2 ++ BitVec.ofBool sx)) mk = .ok (mk ord w sx) := by
  rw [decLoad, withMem_encFM, fn_encFM _ _ _ _ _ _ _ _ _ _ (by omega), sx_encFM]
  cases sx <;> rfl

theorem decStore_encFM (mk : Order → Width → Instr) : decStore (encFM op g d a sc ord w 0#3) mk = .ok (mk ord w) := by
  rw [decStore, withMem_encFM, fn_encFM _ _ _ _ _ _ _ _ _ _ (by omega), extract_all, if_pos rfl]

end FM

/-- An instruction that a place takes is what its op word and its extension word hold. -/
theorem decodeRaw_encode {i : Instr} {st : Stream} {ext : W32} (hw : i.wf st = true) (hx : i.isLong = true → i.extWord = ext) :
    decodeRaw i.encode ext = .ok i := by
  cases i
  case nop | yield | endOp | exit | segb | conv | irrev | kpt | rft | rftNext | brk => exact decodeRaw_sys ..
  case brx | callx | ret => exact decodeRaw_jmpx ..
  case add | sub | mul | mulh | mulhn | min | max | minn | maxn | and | or | xor | andn | shl | shr | sar => exact decodeRaw_alu ..
  case mov | sel | mac | popc | clz | brev | bfe | bfi | rotl | abs | neg | mulw => exact decodeRaw_alu2 ..
  case lea => exact (decodeRaw_alu2 ..).trans (decAlu2_lea ..)
  case pand | por | pxor | pandn => exact (decodeRaw_plog ..).trans (by simp [decPlog])
  case fadd | fsub | fmul | fmin | fmax | fabs | fneg | fcps => exact decodeRaw_fpu ..
  case padd2 hf | psub2 hf | pmul2 hf | pfma2 hf | pmax2 hf | pmin2 hf => exact (decodeRaw_pkf ..).trans (by cases hf <;> rfl)
  case xexp2 | xlog2 | xrcp | xrsq | xsqrt | xtanh | xsin | xcos => exact decodeRaw_xfn ..
  case cvtf k hi => exact (decodeRaw_cvt ..).trans (by cases k <;> cases hi <;> rfl)
  case cvti k trunc =>
    obtain ⟨-, fields⟩ := Bool.and_eq_true_iff.1 hw
    have legal : k.truncOk trunc = true := fields
    exact (decodeRaw_cvt ..).trans ((decCvt_cvti ..).trans (if_pos legal))
  case unpk2 m => exact (decodeRaw_cvt ..).trans (by cases m <;> rfl)
  case cvtn | pack2 => exact decodeRaw_cvt ..
  case voteAny | voteAll | voteBal => exact (decodeRaw_lane ..).trans (by simp [decLane, needZero])
  case shflIdx | shflUp | shflDn | shflXor => exact decodeRaw_lane ..
  case give | take | tsel | town => exact decodeRaw_own ..
  case ttry => exact (decodeRaw_own ..).trans (by simp [decOwn, needZero])
  case pft | pclr | await => exact decodeRaw_msync ..
  case racq | rcmt | rpek | rrel => exact decodeRaw_ring ..
  case racqTry | rpekTry => exact (decodeRaw_ring ..).trans (decTry_pred ..)
  case launch | jnew | jarr | jwait | jqry | mhome => exact decodeRaw_task ..
  case migr => exact (decodeRaw_task ..).trans (by simp [decTask, needZero])
  case tadd | tsub | tmul | tfma | tmax | tmin | tsclr | tsclc | tcpy | tfill | tmsk | tcvt => exact decodeRaw_tv ..
  case trmax | trsum | tcmax | tcsum | ttrn | tbcr | tbcc => exact decodeRaw_tr ..
  case sexp2 | slog2 | srcp | srsq | stanh => exact decodeRaw_sf ..
  case bra | call | addi | andi | ori | xori | movi | movh | cmp | cmp64 | cmpi | ffma | atom | mma | mmaz | mmar => simp [decodeRaw]
  case loop | trap | rdv | nxt | red | cpk | mxc => simp [decodeRaw, needZero]
  case fcmp x | atcas x => cases x <;> simp [decodeRaw]
  case shli | shri | sari => simp [decodeRaw, decShiftImm_append]
  case tld | tst => simp [decodeRaw, decTileMem_code]
  case ld => simp [decodeRaw, decLoad_encFM]
  case st => simp [decodeRaw, decStore_encFM]
  case limm => simp [decodeRaw, ← hx rfl, Instr.extWord]
  case ldo => simp [decodeRaw, decLoad_encFM, ← hx rfl, Instr.extWord]
  case sto => simp [decodeRaw, decStore_encFM, ← hx rfl, Instr.extWord]
  case srd | swr => exact (decodeRaw_sreg ..).trans (decSreg_append _ _ _ (by decide))
  case fence sc | tfence sc => exact (decodeRaw_fence ..).trans (by cases sc <;> rfl)
  case bar n id =>
    have zero : (0#4 ++ n ++ id).extractLsb' 12 4 = 0#4 := by
      rw [extract_high _ _ _ _ (by omega), extract_high _ _ _ _ (by omega), extract_all]
    have count : (0#4 ++ n ++ id).extractLsb' 4 8 = n := by
      rw [extract_high _ _ _ _ (by omega), extract_low _ _ _ _ (by omega), extract_all]
    have number : (0#4 ++ n ++ id).extractLsb' 0 4 = id := by rw [extract_low _ _ _ _ (by omega), extract_all]
    simp [decodeRaw, needZero, zero, count, number]
  all_goals exact absurd rfl (Machine.accepted_of_wf hw)

/-! ## What a group answers is spelled by its word -/

/-- `w`, with `ext` behind it, are the words of the instruction. -/
def Spells (w ext : W32) (i : Instr) : Prop := i.encode = w ∧ (i.isLong = true → i.extWord = ext)

/-- Whatever instruction a reader of `w` answers, `w` and `ext` spell it. -/
def Answers (w ext : W32) (r : Except Reject Instr) : Prop := ∀ i, r = .ok i → Spells w ext i

section Answers
variable {w ext : W32}

theorem answers_of_eq {v : W32} {r : Except Reject Instr} (hv : v = w) (h : Answers v ext r) : Answers w ext r := hv ▸ h

theorem spells_of_word {v : W32} {i : Instr} (hv : v = w) (h : i.encode = v) (short : i.isLong = false) : Spells w ext i :=
  ⟨h.trans hv, by simp [short]⟩

@[simp] theorem answers_ok {i : Instr} : Answers w ext (.ok i) ↔ Spells w ext i :=
  ⟨fun h => h i rfl, fun h _ hj => Except.ok.inj hj ▸ h⟩

@[simp] theorem answers_error (r : Reject) : Answers w ext (.error r) := nofun

@[simp] theorem answers_ite {p : Prop} [Decidable p] {r : Reject} {x : Except Reject Instr} :
    Answers w ext (if p then x else .error r) ↔ (p → Answers w ext x) := by
  by_cases hp : p <;> simp [hp]

@[simp] theorem answers_needZero {z : Bool} {i : Instr} : Answers w ext (needZero z i) ↔ (z = true → Spells w ext i) := by
  rw [needZero, answers_ite, answers_ok]

@[simp] theorem answers_withPred {r : Reg} {k : Pred → Except Reject Instr} :
    Answers w ext (withPred r k) ↔ ∀ p, r = 0#3 ++ p → Answers w ext (k p) := by
  constructor
  · rintro h p rfl
    rwa [withPred_pred] at h
  · intro h
    unfold withPred
    split
    · next p hp => exact h p (predOf_eq_some.1 hp)
    · exact answers_error _

@[simp] theorem answers_withAop {c : BitVec 4} {k : AtomOp → Except Reject Instr} :
    Answers w ext (withAop c k) ↔ ∀ op : AtomOp, c = op.code → Answers w ext (k op) := by
  constructor
  · rintro h op rfl
    rwa [withAop_code] at h
  · intro h
    unfold withAop
    split
    · next op hop => exact h op (code_of_ofCode_atomOp _ _ hop).symm
    · exact answers_error _

end Answers

/-- B of CVTF and CVTI: zeros, a flag and the selector. -/
theorem cvt_fields {x : Reg} (h : x.extractLsb' 3 3 = 0#3) : 0#3 ++ BitVec.ofBool (x.getLsbD 2) ++ x.extractLsb' 0 2 = x := by
  simp only [← h, ofBool_getLsbD, BitVec.extractLsb'_append_extractLsb'_eq_extractLsb', extract_all]

/-- B of RACQ and RPEK: the plain op's is zero, and that of .TRY holds its predicate under 001. -/
theorem decTry_answers {w ext : W32} {b : Reg} {plain : Instr} {try_ : Pred → Instr} (hp : b = 0#6 → Spells w ext plain)
    (ht : ∀ p, b = 0b001#3 ++ p → Spells w ext (try_ p)) : Answers w ext (decTry b plain try_) := by
  unfold decTry
  split
  · exact answers_ok.2 (hp ‹_›)
  · exact answers_ite.2 fun h => answers_ok.2 (ht _ (append_of_high (m := 3) h).symm)

/-- A minor is one of sixteen. -/
theorem minorCases {motive : BitVec 4 → Prop}
    (m0 : motive 0#4) (m1 : motive 1#4) (m2 : motive 2#4) (m3 : motive 3#4) (m4 : motive 4#4) (m5 : motive 5#4)
    (m6 : motive 6#4) (m7 : motive 7#4) (m8 : motive 8#4) (m9 : motive 9#4) (m10 : motive 10#4) (m11 : motive 11#4)
    (m12 : motive 12#4) (m13 : motive 13#4) (m14 : motive 14#4) (m15 : motive 15#4)
    (fn : BitVec 4) : motive fn := by
  have sixteen : ∀ fn : BitVec 4, fn = 0#4 ∨ fn = 1#4 ∨ fn = 2#4 ∨ fn = 3#4 ∨ fn = 4#4 ∨ fn = 5#4 ∨ fn = 6#4 ∨ fn = 7#4 ∨
      fn = 8#4 ∨ fn = 9#4 ∨ fn = 10#4 ∨ fn = 11#4 ∨ fn = 12#4 ∨ fn = 13#4 ∨ fn = 14#4 ∨ fn = 15#4 := by decide
  rcases sixteen fn with rfl | rfl | rfl | rfl | rfl | rfl | rfl | rfl | rfl | rfl | rfl | rfl | rfl | rfl | rfl | rfl <;> assumption

section F3
variable {g : Guard} {d a b : Reg} {fn : BitVec 4} {w ext : W32}

theorem decSys_answers : Answers (encF3 0x00#6 g d a b fn) ext (decSys g d a b fn) := by
  cases fn using minorCases
  case m9 =>
    refine answers_ite.2 fun hz => ?_
    split
    · next hb =>
      obtain rfl : b = 0#6 := BitVec.eq_of_toNat_eq hb
      simp_all [Spells, Instr.isLong]
    · next hb =>
      obtain rfl : b = 1#6 := BitVec.eq_of_toNat_eq hb
      simp_all [Spells, Instr.isLong]
    · exact answers_error _
  all_goals simp +contextual [decSys, Spells, Instr.isLong]

theorem decJmpx_answers : Answers (encF3 0x04#6 g d a b fn) ext (decJmpx g d a b fn) := by
  cases fn using minorCases <;> simp +contextual [decJmpx, Spells, Instr.isLong]

theorem decAlu_answers : Answers (encF3 0x08#6 g d a b fn) ext (decAlu g d a b fn) := by
  cases fn using minorCases <;> exact answers_ok.2 ⟨rfl, nofun⟩

theorem decAlu2_answers : Answers (encF3 0x09#6 g d a b fn) ext (decAlu2 g d a b fn) := by
  cases fn using minorCases <;> simp +contextual [decAlu2, Spells, Instr.isLong]

theorem decPlog_answers : Answers (encF3 0x16#6 g d a b fn) ext (decPlog g d a b fn) := by
  cases fn using minorCases <;> simp +contextual [decPlog, Spells, Instr.isLong]

theorem decFpu_answers : Answers (encF3 0x17#6 g d a b fn) ext (decFpu g d a b fn) := by
  cases fn using minorCases <;> simp +contextual [decFpu, Spells, Instr.isLong]

theorem decPkf_answers : Answers (encF3 0x1A#6 g d a b fn) ext (decPkf g d a b fn) := by
  cases fn using minorCases <;> simp +contextual [decPkf, Spells, Instr.isLong]

theorem decXfn_answers : Answers (encF3 0x1B#6 g d a b fn) ext (decXfn g d a b fn) := by
  cases fn using minorCases <;> simp +contextual [decXfn, Spells, Instr.isLong]

theorem decLane_answers : Answers (encF3 0x1D#6 g d a b fn) ext (decLane g d a b fn) := by
  cases fn using minorCases <;> simp +contextual [decLane, Spells, Instr.isLong]

theorem decOwn_answers : Answers (encF3 0x1F#6 g d a b fn) ext (decOwn g d a b fn) := by
  cases fn using minorCases <;> simp +contextual [decOwn, Spells, Instr.isLong]

theorem decMsync_answers : Answers (encF3 0x28#6 g d a b fn) ext (decMsync g d a b fn) := by
  cases fn using minorCases <;> simp +contextual [decMsync, Spells, Instr.isLong]

theorem decTask_answers : Answers (encF3 0x2B#6 g d a b fn) ext (decTask g d a b fn) := by
  cases fn using minorCases <;> simp +contextual [decTask, Spells, Instr.isLong]

theorem decTv_answers : Answers (encF3 0x34#6 g d a b fn) ext (decTv g d a b fn) := by
  cases fn using minorCases <;> simp +contextual [decTv, Spells, Instr.isLong]

theorem decTr_answers : Answers (encF3 0x35#6 g d a b fn) ext (decTr g d a b fn) := by
  cases fn using minorCases <;> simp +contextual [decTr, Spells, Instr.isLong]

theorem decSf_answers : Answers (encF3 0x36#6 g d a b fn) ext (decSf g d a b fn) := by
  cases fn using minorCases <;> simp +contextual [decSf, Spells, Instr.isLong]

theorem decCvt_answers : Answers (encF3 0x1C#6 g d a b fn) ext (decCvt g d a b fn) := by
  cases fn using minorCases
  case m0 =>
    refine answers_ite.2 fun hb => answers_ok.2 ⟨congrArg (encF3 0x1C#6 g d a · 0#4) ?_, nofun⟩
    rw [code_ofCode_cvtf, cvt_fields hb]
  case m1 =>
    refine answers_ite.2 fun ⟨hb, _⟩ => answers_ok.2 ⟨congrArg (encF3 0x1C#6 g d a · 1#4) ?_, nofun⟩
    rw [code_ofCode_cvti, cvt_fields hb]
  case m4 =>
    cases hm : UnpkMode.ofCode (b.extractLsb' 0 2) with
    | none => simp [decCvt, hm]
    | some m =>
      have word : b.extractLsb' 2 4 = 0#4 → 0#4 ++ m.code = b := fun hb => by rw [code_of_ofCode_unpk _ _ hm, append_of_high (m := 4) hb]
      simp +contextual [decCvt, hm, word, Spells, Instr.isLong]
  all_goals simp [decCvt, Spells, Instr.isLong]

theorem decRing_answers : Answers (encF3 0x2A#6 g d a b fn) ext (decRing g d a b fn) := by
  cases fn using minorCases
  case m0 | m2 => exact decTry_answers (fun h => ⟨h ▸ rfl, nofun⟩) fun p h => ⟨h ▸ rfl, nofun⟩
  all_goals simp +contextual [decRing, Spells, Instr.isLong]

end F3

/-! ## What the whole decoder answers -/

/-- A minor that is a flag, under three zeros. -/
theorem minor_flag {fn : BitVec 4} (h : fn.extractLsb' 1 3 = 0#3) : 0#3 ++ BitVec.ofBool (fn.getLsbD 0) = fn := by
  simp only [← h, ofBool_getLsbD, BitVec.extractLsb'_append_extractLsb'_eq_extractLsb', extract_all]

/-- The 16 bits of BAR: zeros, the count and the barrier's number. -/
theorem bar_fields {imm : BitVec 16} (h : imm.extractLsb' 12 4 = 0#4) : 0#4 ++ imm.extractLsb' 4 8 ++ imm.extractLsb' 0 4 = imm := by
  simp only [← h, BitVec.extractLsb'_append_extractLsb'_eq_extractLsb', extract_all]

theorem decShiftImm_answers {imm : BitVec 10} {mk : BitVec 6 → Instr} {w ext : W32} (h : ∀ n, imm = 0#4 ++ n → Spells w ext (mk n)) :
    Answers w ext (decShiftImm imm mk) :=
  answers_needZero.2 fun hz => h _ (append_of_high (m := 4) (eq_of_beq hz)).symm

theorem decTileMem_answers {fn : BitVec 4} {mk : Bool → TileMode → Instr} {w ext : W32}
    (h : ∀ strong m, fn = BitVec.ofBool strong ++ m.code → Spells w ext (mk strong m)) : Answers w ext (decTileMem fn mk) := by
  unfold decTileMem
  split
  · next m hm =>
    refine answers_ok.2 (h _ m ?_)
    rw [code_of_ofCode_tile _ _ hm, ofBool_getLsbD]
    exact (append_of_high (m := 1) (n := 3) rfl).symm
  · exact answers_error _

/-- The 16 bits of SRD and SWR: which of the two it is, three zeros, and the special register's number. -/
theorem decSreg_answers {g : Guard} {d : Reg} {imm : BitVec 16} {ext : W32} : Answers (encF1I 0x1E#6 g d imm) ext (decSreg g d imm) := by
  refine answers_ite.2 fun hz => answers_ok.2 ?_
  have parts : BitVec.ofBool (imm.getLsbD 15) ++ 0#3 ++ imm.extractLsb' 0 12 = imm := by
    simp only [← hz, ofBool_getLsbD, BitVec.extractLsb'_append_extractLsb'_eq_extractLsb', extract_all]
  cases hb : imm.getLsbD 15 <;> rw [hb] at parts <;> exact ⟨congrArg (encF1I 0x1E#6 g d) parts, nofun⟩

/-- The 16 bits of FENCE and TFENCE: zeros, which of the two it is, and the scope. -/
theorem decFence_answers {g : Guard} {d : Reg} {imm : BitVec 16} {ext : W32} : Answers (encF1I 0x27#6 g d imm) ext (decFence g d imm) := by
  refine answers_needZero.2 fun hz => ?_
  obtain ⟨hd, hi⟩ := Bool.and_eq_true_iff.1 hz
  obtain rfl := eq_of_beq hd
  have parts : 0#13 ++ BitVec.ofBool (imm.getLsbD 2) ++ (Scope.ofCode (imm.extractLsb' 0 2)).code = imm := by
    simp only [← eq_of_beq hi, code_ofCode_scope, ofBool_getLsbD, BitVec.extractLsb'_append_extractLsb'_eq_extractLsb', extract_all]
  cases hb : imm.getLsbD 2 <;> rw [hb] at parts <;> exact ⟨congrArg (encF1I 0x27#6 g 0#6) parts, nofun⟩

section FM
variable {w : W32} {n : Nat} (h : (fOp w).toNat = n)
include h

/-- The order and the width of an FM word, read back with the fields around them. -/
theorem withMem_answers {k : Order → Width → Except Reject Instr} {ext : W32}
    (hk : ∀ o wd, encFM (BitVec.ofNat 6 n) (fGuard w) (fD w) (fA w) (fSc w) o wd (w.extractLsb' 0 3) = w → Answers w ext (k o wd)) :
    Answers w ext (withMem w k) := by
  unfold withMem
  split
  · next o wd ho hwd => exact hk o wd (encFM_fields h (code_of_ofCode_order _ _ ho) (code_of_ofCode_width _ _ hwd))
  · exact answers_error _

theorem decLoad_answers {mk : Order → Width → Bool → Instr} {ext : W32}
    (hmk : ∀ o wd sx, encFM (BitVec.ofNat 6 n) (fGuard w) (fD w) (fA w) (fSc w) o wd (0#2 ++ BitVec.ofBool sx) = w → Spells w ext (mk o wd sx)) :
    Answers w ext (decLoad w mk) := by
  refine withMem_answers h fun o wd hw => answers_ite.2 fun hz => answers_ok.2 (hmk o wd _ ?_)
  rwa [← hz, ofBool_getLsbD, BitVec.extractLsb'_append_extractLsb'_eq_extractLsb' (start₁ := 0) (len₁ := 1) rfl]

theorem decStore_answers {mk : Order → Width → Instr} {ext : W32}
    (hmk : ∀ o wd, encFM (BitVec.ofNat 6 n) (fGuard w) (fD w) (fA w) (fSc w) o wd 0#3 = w → Spells w ext (mk o wd)) :
    Answers w ext (decStore w mk) :=
  withMem_answers h fun o wd hw => answers_ite.2 fun hz => answers_ok.2 (hmk o wd (hz ▸ hw))

end FM

/-- Whatever a word is read as, the word spells it: the cases are the arms of the decoder, in the order of the majors (R62). -/
theorem decodeRaw_answers (w ext : W32) : Answers w ext (decodeRaw w ext) := by
  unfold decodeRaw
  dsimp only
  split
  case h_1 h => exact answers_of_eq (encF3_fields h) decSys_answers
  case h_2 h | h_3 h => exact answers_ok.2 (spells_of_word (encWord_fields h) rfl rfl)
  case h_4 h => exact answers_needZero.2 fun hz => spells_of_word (encF2I_fields h) (by simp [eq_of_beq hz]) rfl
  case h_5 h => exact answers_of_eq (encF3_fields h) decJmpx_answers
  case h_6 h | h_7 h | h_8 h => exact answers_needZero.2 fun hz => spells_of_word (encF1I_fields h) (by simp [eq_of_beq hz]) rfl
  case h_9 h => exact answers_of_eq (encF3_fields h) decAlu_answers
  case h_10 h => exact answers_of_eq (encF3_fields h) decAlu2_answers
  case h_11 h | h_12 h | h_13 h | h_14 h => exact answers_ok.2 (spells_of_word (encF2I_fields h) rfl rfl)
  case h_15 h | h_16 h | h_17 h => exact decShiftImm_answers fun n hn => spells_of_word (encF2I_fields h) (by simp [hn]) rfl
  case h_18 h | h_19 h => exact answers_ok.2 (spells_of_word (encF1I_fields h) rfl rfl)
  case h_20 h => exact answers_ok.2 ⟨encF1I_fields h, fun _ => rfl⟩
  case h_21 h =>
    split
    · next hfn => exact answers_ok.2 (spells_of_word (encFC_fields h) (by simp [BitVec.eq_of_toNat_eq (y := 0#4) hfn]) rfl)
    · next hfn => exact answers_ok.2 (spells_of_word (encFC_fields h) (by simp [BitVec.eq_of_toNat_eq (y := 1#4) hfn]) rfl)
    · exact answers_error _
  case h_22 h => exact answers_ok.2 (spells_of_word (encCmpi_fields h) rfl rfl)
  case h_23 h => exact answers_of_eq (encF3_fields h) decPlog_answers
  case h_24 h => exact answers_of_eq (encF3_fields h) decFpu_answers
  case h_25 h =>
    split
    · next rm hrm => exact answers_ok.2 (spells_of_word (encF3_fields h) (by simp [code_of_ofCode_fmaRound _ _ hrm]) rfl)
    · exact answers_error _
  case h_26 h => exact answers_ite.2 fun hz => answers_ok.2 (spells_of_word (encFC_fields h) (congrArg (encFC _ _ _ _ _ _) (minor_flag hz)) rfl)
  case h_27 h => exact answers_of_eq (encF3_fields h) decPkf_answers
  case h_28 h => exact answers_of_eq (encF3_fields h) decXfn_answers
  case h_29 h => exact answers_of_eq (encF3_fields h) decCvt_answers
  case h_30 h => exact answers_of_eq (encF3_fields h) decLane_answers
  case h_31 h => exact answers_of_eq (encF1I_fields h) decSreg_answers
  case h_32 h => exact answers_of_eq (encF3_fields h) decOwn_answers
  case h_33 h => exact decLoad_answers h fun o wd sx hw => spells_of_word hw rfl rfl
  case h_34 h => exact decStore_answers h fun o wd hw => spells_of_word hw rfl rfl
  case h_35 h => exact decLoad_answers h fun o wd sx hw => ⟨hw, fun _ => rfl⟩
  case h_36 h => exact decStore_answers h fun o wd hw => ⟨hw, fun _ => rfl⟩
  case h_37 h => exact answers_withAop.2 fun op hop => answers_ok.2 (spells_of_word (encF3_fields h) (by simp [hop]) rfl)
  case h_38 h => exact answers_ite.2 fun hz => answers_ok.2 (spells_of_word (encF3_fields h) (congrArg (encF3 _ _ _ _ _) (minor_flag hz)) rfl)
  case h_39 h =>
    exact answers_withAop.2 fun op hop => answers_needZero.2 fun hz =>
      spells_of_word (encF3_fields h) (by simp [hop, eq_of_beq hz]) rfl
  case h_40 h => exact answers_of_eq (encF1I_fields h) decFence_answers
  case h_41 h => exact answers_of_eq (encF3_fields h) decMsync_answers
  case h_42 h | h_49 h =>
    refine answers_needZero.2 fun hz => ?_
    simp only [Bool.and_eq_true, beq_iff_eq] at hz
    exact spells_of_word (encF3_fields h) (by simp [hz]) rfl
  case h_43 h => exact answers_of_eq (encF3_fields h) decRing_answers
  case h_44 h => exact answers_of_eq (encF3_fields h) decTask_answers
  case h_45 h =>
    refine answers_needZero.2 fun hz => ?_
    obtain ⟨hd, hi⟩ := Bool.and_eq_true_iff.1 hz
    exact spells_of_word (encF1I_fields h) (by simp [eq_of_beq hd, bar_fields (eq_of_beq hi)]) rfl
  case h_46 h | h_47 h | h_48 h => exact answers_ok.2 (spells_of_word (encF3_fields h) rfl rfl)
  case h_50 h => exact answers_of_eq (encF3_fields h) decTv_answers
  case h_51 h => exact answers_of_eq (encF3_fields h) decTr_answers
  case h_52 h => exact answers_of_eq (encF3_fields h) decSf_answers
  case h_53 h | h_54 h => exact decTileMem_answers fun strong m hm => spells_of_word (encF3_fields h) (by simp [hm]) rfl
  all_goals exact answers_error _

/-- A place reads a word as an instruction when the word is read as it at all, and it is well formed there (R64). -/
theorem decode_eq_ok_iff {st : Stream} {w ext : W32} {i : Instr} : decode st w ext = .ok i ↔ decodeRaw w ext = .ok i ∧ i.wf st = true := by
  constructor
  · intro h
    unfold decode at h
    split at h
    · cases h
    · next j hj =>
      split at h
      · cases h
      · split at h
        · cases h
        · obtain rfl := Except.ok.inj h
          simp_all [Instr.wf]
  · rintro ⟨hi, hw⟩
    obtain ⟨ha, hf⟩ := Bool.and_eq_true_iff.1 hw
    simp [decode, hi, ha, hf]

/-- Decoding and encoding in a place are each other's inverse. -/
theorem decode_eq_ok_iff_spells {st : Stream} {w ext : W32} {i : Instr} : decode st w ext = .ok i ↔ Spells w ext i ∧ i.wf st = true := by
  rw [decode_eq_ok_iff]
  constructor
  · rintro ⟨h, hw⟩
    exact ⟨decodeRaw_answers w ext i h, hw⟩
  · rintro ⟨⟨rfl, hx⟩, hw⟩
    exact ⟨decodeRaw_encode hw hx, hw⟩

end Sys2Proof

namespace Sys2Proof.Claims

/-- Settles O52: an op's words spell it, and a following word takes no part in the spelling of an op that is no long form. -/
theorem encodedOpsDecode : Obligations.EncodedOpsDecode := fun _ _ hw =>
  ⟨decode_eq_ok_iff_spells.2 ⟨⟨rfl, fun _ => rfl⟩, hw⟩, fun short _ => decode_eq_ok_iff_spells.2 ⟨spells_of_word rfl rfl short, hw⟩⟩

/-- Settles O53: what decodes is spelled by its words, and a place takes ops only. -/
theorem decodedWordsAreEncodings : Obligations.DecodedWordsAreEncodings := by
  intro st w ext i h
  obtain ⟨⟨word, extension⟩, hw⟩ := decode_eq_ok_iff_spells.1 h
  exact ⟨word, extension, hw, by simp [Instr.isOp, Machine.accepted_of_wf hw]⟩

/-- Settles O51: each word of the list is the encoding of its instruction, which is short and well formed in its place. -/
theorem writtenWordsDecode : Obligations.WrittenWordsDecode := by
  have encoded : ∀ p ∈ words, p.2.2.encode = p.2.1 ∧ p.2.2.isLong = false ∧ p.2.2.wf p.1 = true := by decide
  intro p hp
  obtain ⟨word, short, hw⟩ := encoded p hp
  exact decode_eq_ok_iff_spells.2 ⟨spells_of_word rfl word short, hw⟩

end Sys2Proof.Claims
end

section
/-! SUPPORT. Words that are no instruction, and fragments that wait for an entry or their code (O37): a trap of an unflagged fragment whose
warp has a handler enters it (R137, R296 to R300, R353). -/

namespace Sys2Proof.Machine

open Sys2Proof.Claims

/-- A fragment as a trap leaves it, at the entry of its class in the handler at `base` (R297, R300). -/
def trappedFrag (base : W64) (t : TrapInfo) (x : Frag) : Frag :=
  { x with trap := trapRegsOf t (tpcOf x.pc), flag := true, state := .ready, resume := false,
           pc := base + BitVec.ofNat 64 (64 * classCode t.cls) }

@[simp] theorem trappedFrag_mask (base : W64) (t : TrapInfo) (x : Frag) : (trappedFrag base t x).mask = x.mask := rfl

/-- A trap of an unflagged fragment whose warp has a handler enters it (R300). -/
theorem warpTrap_enters {s : State} {k : CoreId} {f : FragId} {x : Frag} {w : Warp} (hx : fragAt (coreAt s k) f = some x)
    (hw : warpAt (coreAt s k) x.warp = some w) (hf : x.flag = false) (hb : (atCycle w).tbase ≠ 0#64) (t : TrapInfo) :
    warpTrap s k f t = setCore s k (setFrag (setWarp (coreAt s k) x.warp (some (bankLanes x.mask w))) f
      (some (trappedFrag (atCycle w).tbase t x))) := by
  have hx' : fragAt (coreAt (onWarp s k x.warp (bankLanes x.mask)) k) f = some x := by simp [onWarp, hx]
  simp only [warpTrap, hx, hw, hf, hb, Bool.false_or, decide_false, Bool.false_eq_true, if_false]
  rw [onFrag_some hx', onWarp_some hw]
  simp [trappedFrag]

/-- A trap's entry changes no memory. -/
theorem warpTrap_sameBytes {s : State} {k : CoreId} {f : FragId} {x : Frag} {w : Warp} (hx : fragAt (coreAt s k) f = some x)
    (hw : warpAt (coreAt s k) x.warp = some w) (hf : x.flag = false) (hb : (atCycle w).tbase ≠ 0#64) (t : TrapInfo) :
    SameBytes s (warpTrap s k f t) := by
  rw [warpTrap_enters hx hw hf hb]
  exact (oneCore_setCore s k _ fun m => by simp).toSameBytes

/-- The lanes of a trap's fragment are banked, and the others stay. -/
theorem bankLanes_lane (m : LaneMask) (w : Warp) (l : Lane) :
    if laneIn m l then Banked w.lanes[l] (bankLanes m w).lanes[l] else (bankLanes m w).lanes[l] = w.lanes[l] := by
  have regs (v : Vector W32 48) : (Vector.ofFn fun j : Fin 4 => v[44 + j.val]) = #v[v[44], v[45], v[46], v[47]] := by
    ext i hi
    match i, hi with
    | 0, _ | 1, _ | 2, _ | 3, _ => simp
  rw [bankLanes, mapLanes_eq]
  cases hl : laneIn m l <;> simp only [hl, Banked, regs, Fin.getElem_fin, Vector.getElem_ofFn, if_true, if_false, Bool.false_eq_true]

/-- A fragment's word that is no instruction is counted, and traps (R64, R299). -/
theorem exec_illop_frag {b : W32} {s : State} {k : CoreId} {f : FragId} {x : Frag} {w : Warp} (h : FragIssues s k f x w) :
    exec (.illop b) s = .next (warpTrap (countedState s (laneEnv s (.illop b) always k f x w)) k f (trapIllop b 8)) := by
  rw [← counted_of_issues h]
  change execIllop b s = _
  simp only [execIllop, h.issuer, h.frag, h.warp]

/-- The trap of a fragment that has waited too long for an entry: the groups that wait and the warp's live fragments (R137, R298). -/
def fragxTrap (s : State) (k : CoreId) (x : Frag) (groups : Nat) : TrapInfo :=
  { cls := .fragx, synd := BitVec.ofNat 64 (groups % 16 + 2 ^ 8 * ((liveFrags (coreAt s k) x.warp).length % 16)) }

theorem exec_fragxTimeout {s : State} {k : CoreId} {f : FragId} {x : Frag} {since groups : Nat} (hx : fragAt (coreAt s k) f = some x)
    (hs : x.state = .fragw since groups) (hd : since + 4096 ≤ (coreAt s k).cycle) :
    exec (.fragxTimeout k f) s = .next (warpTrap s k f (fragxTrap s k x groups)) := by
  change execFragxTimeout k f s = _
  obtain ⟨⟩ := x
  subst hs
  simp only [execFragxTimeout, hx, if_neg (Nat.not_lt.2 hd), fragxTrap]

end Sys2Proof.Machine

namespace Sys2Proof.Claims

open Sys2Proof.Machine

theorem badWordsTrap : BadWordsTrap := by
  refine ⟨fun b s k f x w h hf hb => ?_, fun b s k n slot st cur h => ?_⟩
  · have base : (atCycle (countedWarp w)).tbase = (atCycle w).tbase := by unfold atCycle countedWarp; cases w.now <;> rfl
    refine ⟨bankLanes x.mask (countedWarp w), ?_, bankLanes_lane x.mask (countedWarp w), rfl⟩
    rw [exec_illop_frag h, countedState_eq h.warp,
      warpTrap_enters (x := { x with num := (atCycle w).wisn }) (w := countedWarp w) (by simp [fragDone, fragCore, laneEnv])
        (by simp [fragDone, fragCore, laneEnv, ← setWarp_setFrag]) hf (by rwa [base])]
    simp [fragDone, fragCore, laneEnv, setWarp_setFrag, trappedFrag, trapRegsOf, trapIllop, base]
  · change execIllop b s = _
    simp only [execIllop, h.issuer, slotFault, onStrand_done h.here]

theorem fragmentWaitsEnd : FragmentWaitsEnd := by
  refine ⟨fun s k f x w since groups hx hw hs hd hf hb => ?_, fun s k f x hx hq => ?_⟩
  · refine ⟨_, trappedFrag (atCycle w).tbase (fragxTrap s k x groups) x, exec_fragxTimeout hx hs hd, warpTrap_sameBytes hx hw hf hb _, ?_,
      rfl, rfl, trappedFrag_mask .., rfl, rfl, rfl⟩
    rw [warpTrap_enters hx hw hf hb]
    simp
  · change execInstructionFetchArrival k f s = _
    obtain ⟨⟩ := x
    subst hq
    simp only [execInstructionFetchArrival, hx]
    exact congrArg _ (onFrag_some hx _)

/-- Settles O37: the traps enter the handler or are noted for the end of the bundle, and a fetched op has come. -/
theorem fragmentEventsComplete : Obligations.FragmentEventsComplete := ⟨badWordsTrap, fragmentWaitsEnd⟩

end Sys2Proof.Claims
end

section
/-! SUPPORT. Scalar ops (O1, O2, O5): a table of ops completes when each op of it runs its row's body, per lane in a warp and as one result of a
slot in a strand (R18, R25, R78 to R93, R159, R172, R176, R177). -/

namespace Sys2Proof.Machine

open Sys2Proof.Claims

/-! ## Ops that run a row's body -/

/-- Under the row's guard, the op runs the row's body in the lanes of a warp. -/
def RunsLaneRow (i : Instr) (r : LaneRow) : Prop :=
  ∀ s, ∃ sb, exec i s = asOp i r.g s (fun e s => perLane e s r.srcs r.dsts r.pds r.lat (r.res e)) sb

/-- The op sends the row's result from a slot, under the row's guard, or under any guard when the op's G field is none (R25, R84). -/
def RunsSlotRow (i : Instr) (r : SlotRow) : Prop :=
  ∃ g, (g = r.g ∨ guardless i = true) ∧ ∀ s, ∃ wb, exec i s = asOp i g s wb fun e s => .next (pendAdd s e 1 (r.dst s e))

/-- A per-lane op that a fragment takes, and that nothing about its registers stops, completes. -/
theorem asOp_perLane_done {s : State} {i : Instr} {g : Guard} {k : CoreId} {f : FragId} {x : Frag} {w : Warp} {srcs dsts : List Reg}
    (h : LaneTakes s i g k f x w) (hc : LaneClean (laneEnv s i g k f x w) srcs dsts) (pds : List Pred) (lat : Nat)
    (res : WarpEnv → State → Lane → LaneRes) (sb : StrandEnv → State → Out) :
    asOp i g s (fun e s => perLane e s srcs dsts pds lat (res e s)) sb =
      .next (laneDone s (laneEnv s i g k f x w) dsts pds lat
        (res (laneEnv s i g k f x w) (countedState s (laneEnv s i g k f x w)))) := by
  rw [asOp_takes h]
  exact perLane_done h.warp rfl hc pds lat _

/-- A slot's op that a strand takes has its result on its way. -/
theorem asOp_pendAdd_done {s : State} {i : Instr} {g : Guard} {k : CoreId} {n : StrandId} {slot : Slot} {st cur : Strand}
    (h : SlotTakes s i g k n slot st cur) (lat : Nat) (dst : State → StrandEnv → PendDst) (wb : WarpEnv → State → Out) :
    asOp i g s wb (fun e s => .next (pendAdd s e lat (dst s e))) =
      .next (strandDone s k n (addPend cur (slotEnv s i k n slot st) lat (dst s (slotEnv s i k n slot st)))) := by
  rw [asOp_slot h]
  exact congrArg _ (pendAdd_done h.here ..)

/-- An op whose G field is no guard is taken under every guard (R84). -/
theorem slotTakes_of_guardless {s : State} {i : Instr} {g : Guard} {k : CoreId} {n : StrandId} {slot : Slot} {st cur : Strand}
    (h : SlotTakes s i g k n slot st cur) (hi : guardless i = true) (g' : Guard) : SlotTakes s i g' k n slot st cur :=
  { h with guard := .inl hi }

theorem laneOpsComplete_of_runs {row : Instr → Option LaneRow} (h : ∀ i r, row i = some r → RunsLaneRow i r) : LaneOpsComplete row := by
  intro i r hr s k f x w ht hc
  obtain ⟨sb, hx⟩ := h i r hr s
  rw [hx]
  exact asOp_perLane_done ht hc r.pds r.lat (fun e _ => r.res e) sb

theorem slotOpsComplete_of_runs {row : Instr → Option SlotRow} (h : ∀ i r, row i = some r → RunsSlotRow i r) : SlotOpsComplete row := by
  intro i r hr s k n slot st cur ht
  obtain ⟨g, hg, hx⟩ := h i r hr
  obtain ⟨wb, hx⟩ := hx s
  have ht' : SlotTakes s i g k n slot st cur := by
    rcases hg with rfl | hi
    · exact ht
    · exact slotTakes_of_guardless ht hi g
  rw [hx]
  exact asOp_pendAdd_done ht' 1 r.dst wb

/-! ## Integer ops (R81 to R90) -/

/-- An integer op of both streams depends on its values only. -/
theorem alu_congr {f f' : (w : Nat) → BitVec w → BitVec w → BitVec w → BitVec w} (h : ∀ w x y z, f w x y z = f' w x y z) (i : Instr)
    (g : Guard) (d a b : Reg) (srcs : List Reg) (s : State) : alu i g d a b srcs s f = alu i g d a b srcs s f' := by
  rw [funext fun w => funext fun x => funext fun y => funext (h w x y)]

/-- Each op of the table is an integer op with the table's values. -/
theorem exec_aluRow {i : Instr} {r : AluRow} (h : aluRow i = some r) (s : State) :
    exec i s = alu i r.g r.d r.a r.b r.srcs s r.val := by
  unfold aluRow at h
  split at h
  case h_36 => cases h
  all_goals obtain rfl := Option.some.inj h
  case h_6 g d a b => exact (alu_congr (fun _ x y _ => sMin_eq x y) .. : execMin g d a b s = _)
  case h_7 g d a b => exact (alu_congr (fun _ x y _ => sMax_eq x y) .. : execMax g d a b s = _)
  case h_8 g d a b => exact (alu_congr (fun _ x y _ => uMin_eq x y) .. : execMinn g d a b s = _)
  case h_9 g d a b => exact (alu_congr (fun _ x y _ => uMax_eq x y) .. : execMaxn g d a b s = _)
  case h_16 g d a b => exact (alu_congr (fun _ x y _ => shiftA_eq x y.toNat) .. : execSar g d a b s = _)
  case h_19 g d a => exact (alu_congr (fun _ x _ _ => popCount_eq x) .. : execPopc g d a s = _)
  case h_20 g d a => exact (alu_congr (fun _ x _ _ => leadZeros_eq x) .. : execClz g d a s = _)
  case h_21 g d a => exact (alu_congr (fun _ x _ _ => bitReverse_eq x) .. : execBrev g d a s = _)
  case h_22 g d a b => exact (alu_congr (fun _ x y _ => fieldExtract_eq x y) .. : execBfe g d a b s = _)
  case h_23 g d a b => exact (alu_congr (fun _ x y z => fieldInsert_eq x y z) .. : execBfi g d a b s = _)
  case h_25 g d a => exact (alu_congr (fun _ x _ _ => absVal_eq x) .. : execAbs g d a s = _)
  case h_33 g d a n => exact (alu_congr (fun _ x _ _ => shiftA_eq x n.toNat) .. : execSari g d a n s = _)
  all_goals rfl

theorem runsLaneRow_alu {i : Instr} {q : AluRow} (h : aluRow i = some q) : RunsLaneRow i q.lane :=
  fun s => ⟨_, exec_aluRow h s⟩

theorem runsSlotRow_alu {i : Instr} {q : AluRow} (h : aluRow i = some q) : RunsSlotRow i q.slot :=
  ⟨q.g, .inl rfl, fun s => ⟨_, exec_aluRow h s⟩⟩

/-! ## SEL, MULW, LEA, LIMM, PACK2 and UNPK2 (R84, R86, R87, R91, R172, R176) -/

/-- MULW forms the exact product (R86). -/
theorem exec_mulw (g : Guard) (d a b : Reg) (s : State) : exec (.mulw g d a b) s = asOp (.mulw g d a b) g s
    (fun e s => perLane e s [a, b] [d, d + 1] [] 2 fun l =>
      { regs := pairRes d (BitVec.ofInt 64 ((readReg e l a).toInt * (readReg e l b).toInt)) })
    (fun e s => .next (pendAdd s e 1
      (.sreg d (BitVec.ofInt 64 (((opA e a).extractLsb' 0 32).toInt * ((opB e b).extractLsb' 0 32).toInt))))) := by
  simp only [← mulWide_eq]
  rfl

theorem runsLaneRow_wide {i : Instr} {r : LaneRow} (h : wideLane i = some r) : RunsLaneRow i r := by
  unfold wideLane at h
  split at h
  case h_7 => cases h
  all_goals obtain rfl := Option.some.inj h; intro s
  case h_2 => exact ⟨_, exec_mulw ..⟩
  all_goals exact ⟨_, rfl⟩

theorem runsSlotRow_wide {i : Instr} {r : SlotRow} (h : wideSlot i = some r) : RunsSlotRow i r := by
  unfold wideSlot at h
  split at h
  case h_5 => cases h
  all_goals obtain rfl := Option.some.inj h
  case h_1 => exact ⟨always, .inr rfl, fun s => ⟨_, rfl⟩⟩
  case h_2 g _ _ _ => exact ⟨g, .inl rfl, fun s => ⟨_, exec_mulw ..⟩⟩
  all_goals exact ⟨_, .inl rfl, fun s => ⟨_, rfl⟩⟩

/-! ## Comparisons, predicate ops and votes (R92, R93, R177) -/

theorem condHolds_eq {w : Nat} (cc : Cond) : condHolds (w := w) cc = holds cc := by
  cases cc <;> rfl

theorem exec_cmp (g : Guard) (pd : Pred) (cc : Cond) (a b : Reg) (s : State) : exec (.cmp g pd cc a b) s =
    aluCmp (.cmp g pd cc a b) g pd a b [a, b] s (holds cc) fun x y => holds cc (x.extractLsb' 0 32) (y.extractLsb' 0 32) := by
  simp only [← condHolds_eq]
  rfl

theorem exec_cmp64 (g : Guard) (pd : Pred) (cc : Cond) (a b : Reg) (s : State) : exec (.cmp64 g pd cc a b) s =
    aluCmp (.cmp64 g pd cc a b) g pd a b [a, b] s (holds cc) (holds cc) := by
  simp only [← condHolds_eq]
  rfl

theorem exec_cmpi (g : Guard) (pd : Pred) (cc : Cond) (a : Reg) (imm : BitVec 10) (s : State) : exec (.cmpi g pd cc a imm) s =
    aluCmp (.cmpi g pd cc a imm) g pd a a [a] s (fun x _ => holds cc x (imm.signExtend 32)) fun x _ => holds cc x (imm.signExtend 64) := by
  simp only [← condHolds_eq]
  rfl

theorem runsLaneRow_pred {i : Instr} {r : LaneRow} (h : predRow i = some r) : RunsLaneRow i r := by
  unfold predRow at h
  split at h
  case h_10 => cases h
  all_goals obtain rfl := Option.some.inj h; intro s
  case h_1 => exact ⟨_, exec_cmp ..⟩
  case h_2 => exact ⟨_, exec_cmpi ..⟩
  all_goals exact ⟨_, rfl⟩

theorem runsSlotRow_pred {i : Instr} {r : SlotRow} (h : predSlot i = some r) : RunsSlotRow i r := by
  unfold predSlot at h
  split at h
  case h_8 => cases h
  all_goals obtain rfl := Option.some.inj h; refine ⟨_, .inl rfl, fun s => ?_⟩
  case h_1 => exact ⟨_, exec_cmp ..⟩
  case h_2 => exact ⟨_, exec_cmp64 ..⟩
  case h_3 => exact ⟨_, exec_cmpi ..⟩
  all_goals exact ⟨_, rfl⟩

end Sys2Proof.Machine

namespace Sys2Proof.Claims

open Sys2Proof.Machine

/-- Settles O1: each op of the table is an integer op with the table's values, in a lane and in a slot. -/
theorem integerOpsComplete : Obligations.IntegerOpsComplete := by
  refine ⟨laneOpsComplete_of_runs fun i r hr => ?_, slotOpsComplete_of_runs fun i r hr => ?_⟩
  · obtain ⟨q, hq, rfl⟩ := Option.map_eq_some_iff.1 hr
    exact runsLaneRow_alu hq
  · obtain ⟨q, hq, rfl⟩ := Option.map_eq_some_iff.1 hr
    exact runsSlotRow_alu hq

/-- Settles O2: each op of the tables runs its row's body. -/
theorem wideOpsComplete : Obligations.WideOpsComplete :=
  ⟨laneOpsComplete_of_runs fun _ _ => runsLaneRow_wide, slotOpsComplete_of_runs fun _ _ => runsSlotRow_wide⟩

/-- Settles O5: each op of the tables runs its row's body. -/
theorem predicateOpsComplete : Obligations.PredicateOpsComplete :=
  ⟨laneOpsComplete_of_runs fun _ _ => runsLaneRow_pred, slotOpsComplete_of_runs fun _ _ => runsSlotRow_pred⟩

end Sys2Proof.Claims
end

section
/-! SUPPORT. The special registers (O6, O7): a register by its number, and the writes that it takes (R101 to R103, R107, R108, R160). -/

namespace Sys2Proof.Machine

open Sys2Proof.Claims

/-! ## Registers by number (R103) -/

/-- A 32-bit register as a special register shows it. -/
theorem zeroExtend_word (v : W32) : v.zeroExtend 64 = 0#32 ++ v := BitVec.setWidth_eq_append (by decide)

/-- The kill request as it is read. -/
theorem kill_read (b : Bool) : BitVec.ofNat 64 b.toNat = if b then 1 else 0 := by cases b <;> rfl

/-- A number that is none of a list's reads as 0. -/
theorem numbered_of_ne {rs : List (Nat × W64)} {n : Nat} (h : ∀ p ∈ rs, n ≠ p.1) : numbered rs n = 0 := by
  rw [numbered, List.lookup_eq_none_iff.2 fun p hp => bne_iff_ne.2 (h p hp)]
  rfl

theorem trapReg_eq (r : TrapRegs) (n : Nat) : trapReg r n = (trapNumbers r).lookup n := by
  unfold trapReg trapNumbers
  simp only [zeroExtend_word]
  split
  case h_8 => exact (List.lookup_eq_none_iff.2 (by simp_all)).symm
  all_goals rfl

/-- The trap registers have the numbers from 0x020 to 0x026 (R103). -/
theorem trapReg_number {r : TrapRegs} {n : Nat} {v : W64} (h : trapReg r n = some v) : 0x020 ≤ n ∧ n ≤ 0x026 := by
  unfold trapReg at h
  split at h
  case h_8 => cases h
  all_goals decide

/-- Beside registers of other numbers, the trap registers come first. -/
theorem numbered_append_trap {rs : List (Nat × W64)} (h : ∀ p ∈ rs, p.1 < 0x020 ∨ 0x026 < p.1) (r : TrapRegs) (n : Nat) :
    numbered (rs ++ trapNumbers r) n = (trapReg r n).getD (numbered rs n) := by
  rw [numbered, List.lookup_append, ← trapReg_eq]
  cases ht : trapReg r n with
  | none => rw [Option.or_none]; rfl
  | some v =>
    have hn := trapReg_number ht
    have hl : rs.lookup n = none := List.lookup_eq_none_iff.2 fun p hp => by
      have hp' := h p hp
      simp only [bne_iff_ne]
      omega
    rw [hl]
    rfl

theorem warpSpecial_eq (s : State) (e : WarpEnv) (l : Lane) (n : Nat) : warpSpecial s e l n = numbered (warpNumbers s e l) n := by
  unfold warpNumbers
  rw [numbered_append_trap (by simp)]
  unfold warpSpecial
  dsimp only
  cases trapReg e.x.trap n with
  | some v => rfl
  | none =>
    simp only [zeroExtend_word, kill_read, Option.getD_none]
    split
    case h_15 => exact (numbered_of_ne (by simp_all)).symm
    all_goals rfl

theorem strandSpecial_eq (s : State) (e : StrandEnv) (n : Nat) : strandSpecial s e n = numbered (strandNumbers s e) n := by
  unfold strandNumbers
  rw [numbered_append_trap (by simp)]
  unfold strandSpecial
  cases trapReg e.st.trap n with
  | some v => rfl
  | none =>
    simp only [kill_read, Option.getD_none]
    split
    case h_14 => exact (numbered_of_ne (by simp_all)).symm
    case h_10 => cases e.st.loops <;> rfl
    case h_12 => cases e.st.snap <;> rfl
    all_goals rfl

/-- The count of an op changes no special register (R299). -/
theorem warpSpecial_countedState (s : State) (e : WarpEnv) (l : Lane) (n : Nat) :
    warpSpecial (countedState s e) e l n = warpSpecial s e l n := by
  have hc : (coreAt (countedState s e) e.k).cycle = (coreAt s e.k).cycle := by simp [coreAt_countedState]
  unfold warpSpecial
  rw [hc]
  rfl

/-- A lane reads the high half under a number of 0x800 and more (R102). -/
theorem half_of_number (n : BitVec 12) (v : W64) : (if n.getLsbD 11 then v.extractLsb' 32 32 else v.extractLsb' 0 32) =
    v.extractLsb' (if 0x800 ≤ n.toNat then 32 else 0) 32 := by
  have hn : n.getLsbD 11 = decide (0x800 ≤ n.toNat) := BitVec.msb_eq_decide n
  rw [hn]
  by_cases h : 0x800 ≤ n.toNat <;> simp [h]

/-! ## Writes (R52, R101, R102) -/

theorem warpSwr_eq (n : Nat) (v : W32) (w : Warp) : warpSwr n v w = writtenWarp n v w := by
  have hf : (w.now.map (·.flags)).getD 0 = w.now.elim 0#5 (·.flags) := by cases w.now <;> rfl
  unfold warpSwr writtenWarp
  rw [hf]
  split
  case h_5 hctl hstat hlow hhigh => rw [if_neg hctl, if_neg hstat, if_neg hlow, if_neg hhigh]
  all_goals rfl

/-- An op that changes its warp, and then goes on to the next (R101, R160). -/
theorem warpAdvance_onWarp_counted {s : State} {e : WarpEnv} {w : Warp} (hw : warpAt (coreAt s e.k) e.x.warp = some w) (g : Warp → Warp) :
    warpAdvance (onWarp (countedState s e) e.k e.x.warp g) e = fragDone s e (nextFrag e) (g (countedWarp w)) := by
  rw [countedState_eq hw, onWarp_fragCore, warpAdvance, onFrag_fragCore]
  rfl

end Sys2Proof.Machine

namespace Sys2Proof.Claims

open Sys2Proof.Machine

/-- Settles O6: the special registers are those of the tables, and the count of the op changes none of them. -/
theorem specialRegisterReads : Obligations.SpecialRegisterReads := by
  refine ⟨fun g d n s k f x w h hc => ?_, fun g d n s k m slot st cur h => ?_⟩
  · change execSrd g d n s = _
    simp only [execSrd, half_of_number]
    rw [asOp_perLane_done h hc]
    simp only [← warpSpecial_eq, warpSpecial_countedState]
  · change execSrd g d n s = _
    rw [execSrd, asOp_pendAdd_done h, strandSpecial_eq]

/-- Settles O7: a warp's write is that of the lead lane, and a slot's SWR writes TWB, MXCFG or nothing. -/
theorem specialRegisterWrites : Obligations.SpecialRegisterWrites := by
  refine ⟨fun g d n s k f x w h hc => ?_, fun g d n s k m slot st cur h => ?_, fun g a s k m slot st cur h => ?_⟩
  · refine (asOp_takes h ..).trans ?_
    rw [once_clean hc, warpAdvance_onWarp_counted h.warp, warpSwr_eq]
    rfl
  · refine (asOp_slot h ..).trans ?_
    split
    case h_1 hn =>
      obtain rfl : n = 0x010#12 := BitVec.eq_of_toNat_eq hn
      exact congrArg _ (pendAdd_done h.here ..)
    case h_2 hn =>
      obtain rfl : n = 0x011#12 := BitVec.eq_of_toNat_eq hn
      exact congrArg _ (pendAdd_done h.here ..)
    case h_3 htwb hmx =>
      rw [if_neg fun hn => htwb (congrArg BitVec.toNat hn), if_neg fun hn => hmx (congrArg BitVec.toNat hn)]
  · exact asOp_pendAdd_done h ..

end Sys2Proof.Claims
end

section
/-! SUPPORT. TLD and TST (O26): the teams that an issue is read from stand still while an op's requests are sent, the store queue stands still
while its accesses are seen, and each store of an op to the queue has the tokens of its line (R125 to R127, R311, R365). -/

namespace Sys2Proof.Machine

/-! ## Teams are not touched by requests -/

theorem makeMark_sameTeams (s : State) (who : AgentRef) (but : Nat) : SameTeams s (makeMark s who but).1 := by
  unfold makeMark
  dsimp only
  split <;> exact .rfl

theorem sendMarks_sameTeams (s : State) (r : Req) : SameTeams s (sendMarks s r).1 := by
  unfold sendMarks
  split
  case h_4 => exact .rfl
  all_goals
    split
    · exact makeMark_sameTeams ..
    · exact .rfl

theorem dropL1_sameTeams (s : State) (k : CoreId) (lines : List Nat) : SameTeams s (dropL1 s k lines) := by
  unfold dropL1
  split <;> exact .rfl

theorem sharedPerform_sameTeams (s : State) (r : Req) (k : CoreId) (t off : Nat) : SameTeams s (sharedPerform s r k t off) := by
  unfold sharedPerform
  dsimp only
  split
  case h_2 | h_5 | h_6 | h_7 | h_8 => exact .rfl
  all_goals split <;> exact .rfl

theorem kickQueue_sameTeams (s : State) (r : Req) (k : CoreId) (t off : Nat) : SameTeams s (kickQueue s r k t off) :=
  (makeMark_sameTeams s r.who r.id).trans ⟨Eq.refl _, Eq.refl _⟩

theorem sendReq_sameTeams (s : State) (id : Nat) : SameTeams s (sendReq s id) := by
  unfold sendReq
  split
  · exact .rfl
  next r _ =>
    refine (sendMarks_sameTeams s r).trans ?_
    dsimp only
    split
    · exact kickQueue_sameTeams ..
    · exact sharedPerform_sameTeams ..
    · split
      · exact dropL1_sameTeams ..
      · exact .rfl
    · exact .rfl

theorem trySend_sameTeams (s : State) (id : Nat) : SameTeams s (trySend s id) := by
  unfold trySend
  split
  · exact .rfl
  · split
    · exact .rfl
    · exact sendReq_sameTeams ..

theorem newReq_sameTeams (s : State) (q : Issue) (n : NewReq) : SameTeams s (newReq s q n) := by
  unfold newReq
  dsimp only
  split
  · exact .rfl
  · exact trySend_sameTeams ..

theorem newLoad_sameTeams (s : State) (q : Issue) (keep acq : Bool) (sc : Scope) (p : Placed) (cost : Nat) (d : Dest) (after : List Nat)
    (group : Nat) (ovr : List (Nat × Byte)) : SameTeams s (newLoad s q keep acq sc p cost d after group ovr) := newReq_sameTeams ..

theorem logTiles_sameTeams {s t : State} {e : StrandEnv} {ts : List Nat} (h : logTiles s e ts = some t) : SameTeams s t := by
  unfold logTiles at h
  split at h
  · exact Option.some.inj h ▸ .rfl
  · split at h
    · exact Option.some.inj h ▸ .rfl
    · dsimp only at h
      split at h
      · cases h
      · exact Option.some.inj h ▸ .rfl

/-- Requests made one after the other have the issue of the first. -/
theorem foldl_strandIssue {α : Type} {g : State → Issue → α → State} (hg : ∀ v q a, SameTeams v (g v q a)) (l : List α) (s : State)
    (e : StrandEnv) : l.foldl (fun v a => g v (strandIssue v e) a) s = l.foldl (fun v a => g v (strandIssue s e) a) s := by
  induction l generalizing s with
  | nil => rfl
  | cons a l ih => rw [List.foldl_cons, ih, strandIssue_of_teams (hg ..), List.foldl_cons]

/-! ## What seeing an op's accesses leaves alone -/

theorem stippleOp_sameTeams (s : State) (q : Issue) (vas : List Nat) : SameTeams s (stippleOp s q vas) := by
  unfold stippleOp
  dsimp only
  split
  · exact .rfl
  · split
    · exact .rfl
    · exact foldl_sameTeams (g := fun t _ => modDie t _ _) (fun _ _ => ⟨Eq.refl _, Eq.refl _⟩) ..

theorem noteWatch_sameTeams (s : State) (who : AgentRef) : SameTeams s (noteWatch s who) := by
  cases who <;> exact .rfl

theorem seen_sameTeams (s : State) (q : Issue) (kind : MemKind) (as : List Acc) : SameTeams s (seen s q kind as) := by
  have h : SameTeams s (observe (noteWalks s q (locate s q kind as).ok) q kind (locate s q kind as).ok).1 :=
    (noteWalks_sameTeams ..).trans (stippleOp_sameTeams ..)
  unfold seen
  dsimp only
  split
  · exact h.trans (noteWatch_sameTeams ..)
  · exact h

theorem strandAt_noteWalk (s : State) (k : CoreId) (c : CtxId) (va : Nat) (n : StrandId) :
    strandAt (coreAt (noteWalk s k c va) k) n = strandAt (coreAt s k) n := by
  unfold noteWalk
  split
  · rfl
  · split
    · rfl
    · split
      · simp [tlbInstall, strandAt]
      · rfl

theorem strandAt_noteWalks (s : State) (q : Issue) (ps : List Placed) (n : StrandId) :
    strandAt (coreAt (noteWalks s q ps) q.k) n = strandAt (coreAt s q.k) n := by
  unfold noteWalks
  induction ps generalizing s with
  | nil => rfl
  | cons p ps ih =>
    rw [List.foldl_cons, ih]
    split
    · exact strandAt_noteWalk ..
    · rfl

theorem coreAt_stippleOp (s : State) (q : Issue) (vas : List Nat) (k : CoreId) : coreAt (stippleOp s q vas) k = coreAt s k := by
  unfold stippleOp
  dsimp only
  split
  · rfl
  · split
    · rfl
    · exact List.foldlRecOn (motive := fun t => coreAt t k = coreAt s k) _ _ rfl fun _ h _ _ => h

/-- A strand's op whose accesses are seen has the store queue that it had. -/
theorem queue_seen {s : State} {e : StrandEnv} {cur : Strand} (h : strandAt (coreAt s e.k) e.n = some cur) (kind : MemKind) (as : List Acc) :
    ∃ x, strandAt (coreAt (seen s (strandIssue s e) kind as) e.k) e.n = some x ∧ x.queue = cur.queue := by
  have ho (q : Issue) (hk : q.k = e.k) (ps : List Placed) :
      strandAt (coreAt (observe (noteWalks s q ps) q kind ps).1 e.k) e.n = some cur := by
    rw [observe, coreAt_stippleOp, ← hk, strandAt_noteWalks, hk, h]
  unfold seen
  dsimp only
  split
  · rw [strandIssue, noteWatch, onStrand_done (ho _ rfl _)]
    exact ⟨_, strandAt_strandDone .., rfl⟩
  · exact ⟨cur, ho _ rfl _, rfl⟩

/-! ## Tokens, one for the first access of each line (R365) -/

/-- The accesses with their tokens, after some lines that have theirs. -/
def costsFrom {α : Type} (place : α → Loc) : List Loc → List α → List (α × Nat)
  | _, [] => []
  | ls, p :: ps =>
    if ls.contains (locLine (place p)) then (p, 0) :: costsFrom place ls ps
    else (p, 1) :: costsFrom place (locLine (place p) :: ls) ps

theorem costsBy_eq {α : Type} (place : α → Loc) (ps : List α) : costsBy place ps = costsFrom place [] ps := by
  suffices h : ∀ (r : List (α × Nat)) (ls : List Loc), (ps.foldl (fun (r : List (α × Nat) × List Loc) p =>
      if r.2.contains (locLine (place p)) then (r.1 ++ [(p, 0)], r.2) else (r.1 ++ [(p, 1)], locLine (place p) :: r.2)) (r, ls)).1 =
        r ++ costsFrom place ls ps from h [] []
  induction ps with
  | nil => intro r ls; exact (List.append_nil r).symm
  | cons p ps ih =>
    intro r ls
    rw [List.foldl_cons, costsFrom]
    split <;> rw [ih, List.append_assoc] <;> rfl

/-- What is made of each access and lies at its place has the tokens of that access. -/
theorem costsFrom_zip {α β γ : Type} {f : α → Loc} {g : β → Loc} {mk : (α × Nat) × γ → β} (h : ∀ p, g (mk p) = f p.1.1) (ps : List α)
    (xs : List γ) (ls : List Loc) :
    costsFrom g ls (((costsFrom f ls ps).zip xs).map mk) = ((costsFrom f ls ps).zip xs).map fun p => (mk p, p.1.2) := by
  induction ps generalizing xs ls with
  | nil => rfl
  | cons p ps ih =>
    cases xs with
    | nil => rw [List.zip_nil_right]; rfl
    | cons x xs =>
      by_cases hl : locLine (f p) ∈ ls <;> simp [costsFrom, hl, h, ih]

theorem costsBy_lineCosts {β γ : Type} {g : β → Loc} {mk : (Placed × Nat) × γ → β} (h : ∀ p, g (mk p) = p.1.1.loc) (ps : List Placed)
    (xs : List γ) : costsBy g (((lineCosts ps).zip xs).map mk) = ((lineCosts ps).zip xs).map fun p => (mk p, p.1.2) := by
  rw [lineCosts, costsBy_eq, costsBy_eq, costsFrom_zip h]

/-- The lines of a store queue are those of its stores' addresses (R311). -/
theorem queueLines_append_of_vas {new new' : List SegStore} (h : new.map (·.va) = new'.map (·.va)) (queue : List SegStore) :
    queueLines (queue ++ new) = queueLines (queue ++ new') := by
  have hl : new.map (fun q => q.va.toNat / 128) = new'.map fun q => q.va.toNat / 128 := by
    simpa only [List.map_map, Function.comp_def] using congrArg (List.map fun v : W64 => v.toNat / 128) h
  rw [queueLines, List.map_append, hl, ← List.map_append, queueLines]

/-- Stores made of an op's placed accesses, for which the queue has room, enter it with the tokens of their lines (R311, R365). -/
theorem segPush_zip {γ : Type} {s : State} {e : StrandEnv} {x : Strand} {mk : (Placed × Nat) × γ → SegStore} {ps : List Placed} {xs : List γ}
    {new : List SegStore} (hs : strandAt (coreAt s e.k) e.n = some x) (hmk : ∀ p, (mk p).loc = p.1.1.loc)
    (hnew : new = ((lineCosts ps).zip xs).map fun p => { mk p with cost := p.1.2 }) (hroom : (queueLines (x.queue ++ new)).length ≤ 64) :
    segPush s e (((lineCosts ps).zip xs).map mk) = .next (onStrand s e.k e.n fun y => { y with queue := y.queue ++ new }) := by
  have hvas : (((lineCosts ps).zip xs).map mk).map (·.va) = new.map (·.va) := by rw [hnew, List.map_map, List.map_map]; rfl
  have hcost : (costsBy (·.loc) (((lineCosts ps).zip xs).map mk)).map (fun p => { p.1 with cost := p.2 }) = new := by
    rw [costsBy_lineCosts hmk, List.map_map, hnew]
    rfl
  rw [segPush, hs]
  dsimp only
  rw [queueLines_append_of_vas hvas, if_neg (Nat.not_lt.2 hroom), hcost]

/-! ## TLD and TST (R125 to R127) -/

/-- The rows or columns of an op's tile, with their addresses. -/
def transferParts (e : StrandEnv) (a b : Reg) (mode : TileMode) : List (Nat × W64 × Nat) := tileParts mode (opA e a) (tileStride e b mode)

/-- The accesses of an op's rows or columns. -/
def transferAccs (e : StrandEnv) (a b : Reg) (mode : TileMode) : List Acc := tileAccs mode (opA e a) (tileStride e b mode)

/-- The placed rows or columns of an op, with their tokens. -/
def transferMoves (s : State) (e : StrandEnv) (kind : MemKind) (a b : Reg) (mode : TileMode) : List ((Placed × Nat) × Nat × W64 × Nat) :=
  (lineCosts (locate s (strandIssue s e) kind (transferAccs e a b mode)).ok).zip (transferParts e a b mode)

/-- The request of a TLD for one row or column, of the group that lands together (R126). -/
def tldRequest (e : StrandEnv) (td : Nat) (strong : Bool) (after : List Nat) (group : Nat) (v : State) (q : Issue)
    (p : (Placed × Nat) × Nat × W64 × Nat) : State :=
  newLoad v q (!strong) false .core p.1.1 p.1.2 (.tile td p.2.1) after group (queuedBytes v e p.1.1.loc p.1.1.len)

section
variable {g : Guard} {d a b : Reg} {strong : Bool} {mode : TileMode} {s : State} {k : CoreId} {n : StrandId} {slot : Slot} {st cur : Strand}
  {e : StrandEnv}

/-- A TLD whose checks pass, and whose tile the undo log takes, makes its requests as one group (R126, R311). -/
theorem exec_tld_passes (h : SlotTakes s (.tld g d a b strong mode) g k n slot st cur) (he : e = slotEnv s (.tld g d a b strong mode) k n slot st)
    (hgate : tileGate s e false [tileNum e d] [] none = .ok)
    (hacc : AccsPass s (strandIssue s e) (.tld g d a b strong mode) .load (tileAlign mode) false (transferAccs e a b mode)) {z : State}
    (hlog : logTiles (seen s (strandIssue s e) .load (transferAccs e a b mode)) e [tileNum e d] = some z) :
    exec (.tld g d a b strong mode) s = .next ((transferMoves s e .load a b mode).foldl (fun v p =>
      tldRequest e (tileNum e d) strong (slotOrder z e) (z.nextId + 1) v (strandIssue s e) p) (freshId z).1) := by
  have hi : e.i = .tld g d a b strong mode := by rw [he]; rfl
  have hq : strandIssue (freshId z).1 e = strandIssue s e :=
    (strandIssue_of_teams (logTiles_sameTeams hlog) e).trans (strandIssue_of_teams (seen_sameTeams ..) e)
  refine (asOp_slot h ..).trans ?_
  rw [← he]
  dsimp only
  rw [hgate, gated]
  refine (strandMem_done (hi ▸ hacc) _).trans ?_
  rw [transferAccs] at hlog
  rw [hlog]
  refine congrArg Host.Outcome.next ((foldl_strandIssue (g := tldRequest e (tileNum e d) strong (slotOrder z e) (z.nextId + 1))
    (fun _ _ _ => newLoad_sameTeams ..) _ _ e).trans ?_)
  rw [hq]
  rfl

/-- A TST whose checks pass, of a good tile, performs its stores or holds them in the open segment's queue (R126, R311). -/
theorem exec_tst_passes (h : SlotTakes s (.tst g d a b strong mode) g k n slot st cur) (he : e = slotEnv s (.tst g d a b strong mode) k n slot st)
    (hgate : tileGate s e false [tileNum e d] [tileNum e d] none = .ok)
    (hacc : AccsPass s (strandIssue s e) (.tst g d a b strong mode) .store (tileAlign mode) false (transferAccs e a b mode))
    (hgood : (viewTile e (tileNum e d)).suspect = false ∧ (viewTile e (tileNum e d)).poison = false) {u : State}
    (hu : u = seen s (strandIssue s e) .store (transferAccs e a b mode)) :
    exec (.tst g d a b strong mode) s =
      if e.st.segOpen then
        segPush u e ((transferMoves s e .store a b mode).map fun p =>
          { va := p.1.1.va, loc := p.1.1.loc, data := tileBytes (viewTile e (tileNum e d)).data p.2.1 p.2.2.2, lease := p.1.1.lease,
            pc := tpcSlot e.st.pc e.slot, wisn := BitVec.ofNat 64 e.st.clock })
      else
        .next ((transferMoves s e .store a b mode).foldl (fun v p => newReq v (strandIssue s e)
          { loc := p.1.1.loc, len := p.2.2.2, op := .store (tileBytes (viewTile e (tileNum e d)).data p.2.1 p.2.2.2), lease := p.1.1.lease,
            cost := p.1.2, va := p.1.1.va, after := slotOrder v e }) u) := by
  have hi : e.i = .tst g d a b strong mode := by rw [he]; rfl
  have hq : strandIssue (seen s (strandIssue s e) .store (tileAccs mode (opA e a) (tileStride e b mode))) e = strandIssue s e :=
    strandIssue_of_teams (seen_sameTeams ..) e
  refine (asOp_slot h ..).trans ?_
  rw [← he]
  dsimp only
  rw [hgate, gated]
  refine (strandMem_done (hi ▸ hacc) _).trans ?_
  rw [consume_good (by simpa using hgood), hq, hu]
  rfl

end

end Sys2Proof.Machine

namespace Sys2Proof.Claims

open Sys2Proof.Machine

/-- Settles O26: the rows or columns are the model's own, a TLD makes its requests of them as one group, and a TST its stores, each with the
tokens of its line. -/
theorem tileTransfersComplete : Obligations.TileTransfersComplete := by
  intro g d a b strong mode s u k n slot st cur e td log parts as i kind h he htd hlog hparts has hgate hacc hu
  have htd' : td = tileNum e d := by rw [htd, he]; rfl
  have hlog' : log = tileAlign mode := by rw [hlog]; cases mode <;> rfl
  have hparts' : parts = transferParts e a b mode := by rw [hparts]; cases mode <;> rfl
  have has' : as = transferAccs e a b mode := by rw [has, hparts']; rfl
  subst htd' hlog' hparts' has' hu
  refine ⟨?_, ?_⟩
  · rintro rfl rfl z hz
    exact exec_tld_passes h he hgate hacc hz
  · rintro rfl rfl hsuspect hpoison
    have hexec := exec_tst_passes h he hgate hacc ⟨hsuspect, hpoison⟩ rfl
    refine ⟨fun hopen => ?_, fun hopen new hnew hroom => ?_⟩
    · subst he
      exact hexec.trans (if_neg (Bool.eq_false_iff.1 hopen))
    · have hcur : strandAt (coreAt s e.k) e.n = some cur := he ▸ h.here
      obtain ⟨x, hx, hqueue⟩ := queue_seen hcur .store (transferAccs e a b mode)
      subst he
      exact hexec.trans ((if_pos hopen).trans (segPush_zip hx (fun _ => rfl) hnew (hqueue ▸ hroom)))

end Sys2Proof.Claims
end

section
/-! SUPPORT. Shuffles and floating-point ops (O3, O4): each op of the tables runs its row's body (R167 to R178). -/

namespace Sys2Proof.Machine

open Sys2Proof.Claims

/-! ## The sign bit of an FP32 pattern (R167) -/

/-- FABS's magnitude is the pattern without its sign bit. -/
theorem toNat_clearSign (x : W32) : (x &&& 0x7FFFFFFF#32).toNat = x.toNat % fp32.sign := by
  rw [BitVec.toNat_and]
  exact Nat.and_two_pow_sub_one_eq_mod x.toNat 31

/-- The sign bit of a pattern is its part above the magnitude. -/
theorem toNat_signBit (x : W32) : (x &&& 0x80000000#32).toNat = x.toNat / fp32.sign * fp32.sign := by
  have hbit : (0x80000000#32).toNat = 2 ^ 31 := rfl
  have hsign : fp32.sign = 2 ^ 31 := rfl
  rw [BitVec.toNat_and, hbit, hsign, Nat.mul_comm]
  apply Nat.eq_of_testBit_eq
  intro i
  rw [Nat.testBit_and, Nat.testBit_two_pow, Nat.testBit_two_pow_mul, Nat.testBit_div_two_pow]
  by_cases hi : 31 ≤ i
  · rw [decide_eq_true hi, Bool.true_and, Nat.sub_add_cancel hi]
    by_cases he : 31 = i
    · rw [decide_eq_true he, Bool.and_true]
    · have hx : x.toNat.testBit i = false := BitVec.getLsbD_of_ge x i (by omega)
      rw [hx, Bool.false_and]
  · have hne : 31 ≠ i := by omega
    rw [decide_eq_false hi, decide_eq_false hne, Bool.and_false, Bool.false_and]

/-- To invert the sign bit is to add it, without the carry out. -/
theorem toNat_flipSign (x : W32) : (x ^^^ 0x80000000#32).toNat = (x.toNat + fp32.sign) % (2 * fp32.sign) := by
  have hbit : (0x80000000#32).toNat = 2 ^ 31 := rfl
  have hsign : fp32.sign = 2 ^ 31 := rfl
  have hmod : 2 * 2 ^ 31 = 2 ^ 32 := rfl
  rw [BitVec.toNat_xor, hbit, hsign, hmod]
  apply Nat.eq_of_testBit_eq
  intro i
  rw [Nat.testBit_xor, Nat.testBit_two_pow, Nat.testBit_mod_two_pow, Nat.add_comm]
  rcases Nat.lt_trichotomy i 31 with hi | rfl | hi
  · rw [Nat.testBit_two_pow_add_gt hi]
    have hne : 31 ≠ i := by omega
    have hlt : i < 32 := by omega
    simp [hne, hlt]
  · rw [Nat.testBit_two_pow_add_eq]
    simp
  · have hx : x.toNat.testBit i = false := BitVec.getLsbD_of_ge x i hi
    have hne : 31 ≠ i := by omega
    have hge : ¬ i < 32 := by omega
    simp [hx, hne, hge]

/-- The magnitude of one pattern under the sign bit of another. -/
theorem toNat_copySign (x y : W32) : ((x &&& 0x7FFFFFFF#32) ||| (y &&& 0x80000000#32)).toNat =
    x.toNat % fp32.sign + y.toNat / fp32.sign * fp32.sign := by
  have hx : x.toNat % 2 ^ 31 < 2 ^ 31 := Nat.mod_lt _ (Nat.two_pow_pos 31)
  rw [BitVec.toNat_or, toNat_clearSign, toNat_signBit, Nat.or_comm, Nat.add_comm, Nat.mul_comm]
  exact (Nat.two_pow_add_eq_or_of_lt hx _).symm

/-! ## Floating-point ops (R167 to R174) -/

/-- An op that is computed on its registers' patterns runs the body of the row with the same values. -/
theorem runsLaneRow_fpu {i : Instr} {g : Guard} {d a b : Reg} {srcs : List Reg} {f : Rnd → Nat → Nat → Nat → Nat × BitVec 5}
    {val : Rnd → (Reg → W32) → Nat × BitVec 5} (hx : ∀ s, exec i s = fpu i g d a b srcs s f)
    (hv : ∀ m r, f m (r a).toNat (r b).toNat (r d).toNat = val m r) : RunsLaneRow i (flReg g d srcs 4 val) := by
  obtain rfl : (fun m r => f m (r a).toNat (r b).toNat (r d).toNat) = val := funext fun m => funext (hv m)
  exact fun s => ⟨_, hx s⟩

theorem exec_fabs (g : Guard) (d a : Reg) (s : State) :
    exec (.fabs g d a) s = fpu (.fabs g d a) g d a a [a] s fun _ x _ _ => (x % fp32.sign, 0) := rfl

theorem exec_fneg (g : Guard) (d a : Reg) (s : State) :
    exec (.fneg g d a) s = fpu (.fneg g d a) g d a a [a] s fun _ x _ _ => ((x + fp32.sign) % (2 * fp32.sign), 0) := rfl

theorem exec_fcps (g : Guard) (d a b : Reg) (s : State) :
    exec (.fcps g d a b) s = fpu (.fcps g d a b) g d a b [a, b] s fun _ x y _ => (x % fp32.sign + y / fp32.sign * fp32.sign, 0) := rfl

theorem runsLaneRow_float {i : Instr} {r : LaneRow} (h : floatRow i = some r) : RunsLaneRow i r := by
  unfold floatRow at h
  split at h
  case h_27 => cases h
  all_goals obtain rfl := Option.some.inj h
  case h_6 g d a =>
    exact runsLaneRow_fpu (exec_fabs g d a) fun _ r => congrArg (fun v => (v, 0)) (toNat_clearSign (r a)).symm
  case h_7 g d a =>
    exact runsLaneRow_fpu (exec_fneg g d a) fun _ r => congrArg (fun v => (v, 0)) (toNat_flipSign (r a)).symm
  case h_8 g d a b =>
    exact runsLaneRow_fpu (exec_fcps g d a b) fun _ r => congrArg (fun v => (v, 0)) (toNat_copySign (r a) (r b)).symm
  all_goals exact fun s => ⟨_, rfl⟩

/-! ## Shuffles (R178) -/

theorem runsLaneRow_shfl {i : Instr} {r : LaneRow} (h : shflRow i = some r) : RunsLaneRow i r := by
  unfold shflRow at h
  split at h
  case h_5 => cases h
  all_goals obtain rfl := Option.some.inj h; exact fun s => ⟨_, rfl⟩

end Sys2Proof.Machine

namespace Sys2Proof.Claims

open Sys2Proof.Machine

/-- Settles O3: each shuffle runs its row's body. -/
theorem laneShufflesComplete : Obligations.LaneShufflesComplete :=
  laneOpsComplete_of_runs fun _ _ => runsLaneRow_shfl

/-- Settles O4: each op of the table runs its row's body. -/
theorem laneFloatOpsComplete : Obligations.LaneFloatOpsComplete :=
  laneOpsComplete_of_runs fun _ _ => runsLaneRow_float

end Sys2Proof.Claims
end

section
/-! SUPPORT. Reads of tile ownership (O8): TOWN and TSEL find the tiles, the fragments' states and the selection as they stood before the op was
counted (R161, R183, R184). -/

namespace Sys2Proof.Machine

open Sys2Proof.Claims

/-! ## What the count of an op leaves -/

theorem atCycle_countedWarp_sel (w : Warp) : (atCycle (countedWarp w)).sel = (atCycle w).sel := by
  unfold atCycle countedWarp
  cases w.now <;> rfl

@[simp] theorem atCycle_away (w : Warp) : (atCycle w).away = w.away := by
  unfold atCycle
  split <;> rfl

theorem tileAt_countedState (s : State) (e : WarpEnv) (team t : Nat) :
    tileAt (coreAt (countedState s e) e.k) team t = tileAt (coreAt s e.k) team t := by
  simp [coreAt_countedState, tileAt]

/-! ## The kept selections (R183) -/

/-- A warp's live fragments are the fragments of its place. -/
theorem liveFrags_eq_filter (c : Core) (ix : WarpIx) :
    liveFrags c ix = allFrags.filter fun f => (fragAt c f).any fun x => x.warp == ix := by
  have hz : c.frags.toList.zip allFrags = allFrags.map fun f => (fragAt c f, f) := by
    apply List.ext_getElem <;> simp [allFrags, fragAt]
  rw [liveFrags, hz, List.filter_map, List.map_map]
  refine (List.map_id _).trans (List.filter_congr fun f _ => ?_)
  rw [Function.comp_apply]
  cases fragAt c f <;> rfl

/-- A test that does not tell a fragment's new entry from its old one has the same answer for every entry. -/
theorem any_fragAt_setFrag {c : Core} {f : FragId} {x y : Frag} {p : Frag → Bool} (hx : fragAt c f = some x) (hp : p y = p x) (f' : FragId) :
    (fragAt (setFrag c f (some y)) f').any p = (fragAt c f').any p := by
  by_cases hf : f' = f
  · subst hf
    rw [fragAt_setFrag, hx]
    exact hp
  · rw [fragAt_setFrag_ne c _ hf]

/-- The count of an op, in its fragment and in its warp, is none of what the kept selections depend on. -/
theorem keepSels_countedState {s : State} {e : WarpEnv} {w : Warp} (hx : fragAt (coreAt s e.k) e.f = some e.x)
    (hw : warpAt (coreAt s e.k) e.x.warp = some w) (ix : WarpIx) (v : Warp) :
    keepSels (coreAt (countedState s e) e.k) ix (countedWarp v) = keepSels (coreAt s e.k) ix v := by
  have hx' : fragAt (setWarp (coreAt s e.k) e.x.warp (some (countedWarp w))) e.f = some e.x := hx
  rw [coreAt_countedState, modWarp_some hw]
  unfold keepSels
  simp only [liveFrags_eq_filter, atCycle_countedWarp_sel]
  simp only [any_fragAt_setFrag hx', fragAt_setWarp]
  rfl

/-! ## The ops (R183, R184) -/

theorem townField_eq (x : Option Tile) : townField x = ownerRead x := by
  cases x <;> rfl

section

variable {g : Guard} {d a : Reg} {s : State} {k : CoreId} {f : FragId} {x : Frag} {w : Warp} {e : WarpEnv}

/-- A warp's TOWN gives every lane that takes part the owner field of the tile that the lead lane names (R160, R184). -/
theorem exec_town_done (h : LaneTakes s (.town g d a) g k f x w) (he : e = laneEnv s (.town g d a) g k f x w) (hc : OnceClean e [a] [d]) :
    exec (.town g d a) s = .next (laneDone s e [d] [] 2 fun _ => { regs := [(d, ownerRead (namedTile s e a))] }) := by
  have hw : warpAt (coreAt s e.k) e.x.warp = some w := he ▸ h.warp
  have hcycle : e.w = atCycle w := he ▸ rfl
  refine (asOp_takes h ..).trans ?_
  rw [← he, once_clean hc]
  dsimp only
  rw [tileAt_countedState, townField_eq, lanes_done hw hcycle]
  rfl

/-- TSEL of a warp on its own core, of no tile or of one that its team has, changes the selection and keeps that of the warp's waiting ops
(R183). -/
theorem exec_tsel_done (h : LaneTakes s (.tsel g a) g k f x w) (he : e = laneEnv s (.tsel g a) g k f x w) (hc : OnceClean e [a] [])
    (haway : w.away = none) {n : Nat} (hn : n = (readReg e (leadLane e.parts) a).toNat)
    (htile : 0x80000000 ≤ n ∨ (tileAt (coreAt s e.k) w.team n).isSome = true) :
    exec (.tsel g a) s = .next (fragDone s e (nextFrag e)
      { countedWarp w with sel := if 0x80000000 ≤ n then none else some n, sels := keepSels (coreAt s e.k) e.x.warp w }) := by
  have hx : fragAt (coreAt s e.k) e.f = some e.x := he ▸ h.frag
  have hw : warpAt (coreAt s e.k) e.x.warp = some w := he ▸ h.warp
  have hhome : e.w.away.isSome = false := by rw [he]; simp [laneEnv, haway]
  have hteam : e.w.team = w.team := by rw [he]; simp [laneEnv]
  refine (asOp_takes h ..).trans ?_
  rw [← he, once_clean hc]
  simp only [← hn, hhome, hteam, tileAt_countedState, warpAdvance_onWarp_counted hw, keepSels_countedState hx hw]
  by_cases hnone : 0x80000000 ≤ n
  · simp [hnone]
  · simp [hnone, htile.resolve_left hnone]

end

end Sys2Proof.Machine

namespace Sys2Proof.Claims

open Sys2Proof.Machine

/-- Settles O8: TOWN and TSEL read the tiles as they stood before the op was counted. -/
theorem tileOwnershipReads : Obligations.TileOwnershipReads := by
  refine ⟨fun g d a s k f x w h hc => exec_town_done h rfl hc, fun g d a s k n slot st cur h => ?_,
    fun g a s k f x w h hc haway n hn htile => exec_tsel_done h rfl hc haway hn htile⟩
  refine (asOp_slot h ..).trans ?_
  rw [pendAdd_done h.here, townField_eq, ← zeroExtend_word]
  rfl

end Sys2Proof.Claims
end

section
/-! SUPPORT. Loads and stores (O19, O20): each op is the load or store of its row, in the statements' own widths, registers and bytes; the copy
engine's queue stands still while an op's accesses are seen (R218 to R227, R240, R309, R311). -/

namespace Sys2Proof.Machine

open Sys2Proof.Claims

/-! ## Widths, registers and bytes (R220, R221) -/

theorem widthLog_eq (w : Width) : widthLog w = logWidth w := by cases w <;> rfl

theorem widthLen_eq (w : Width) : widthLen w = 2 ^ logWidth w := by rw [widthLen, widthLog_eq]

/-- A width of 16 bytes is that of 128 bits. -/
theorem two_pow_logWidth_eq_sixteen {w : Width} : 2 ^ logWidth w = 16 ↔ w = .b128 := by cases w <;> decide

theorem widthRegs_warp (r : Reg) (w : Width) : widthRegs true r w = valueRegs r w := by cases w <;> rfl

theorem laneBytes_valueRegs (e : WarpEnv) (l : Lane) (d : Reg) (w : Width) :
    laneBytes e l (valueRegs d w) (2 ^ logWidth w) = storeBytes e l d w := rfl

theorem strandBytes_width (e : StrandEnv) (d : Reg) (w : Width) : strandBytes e d (2 ^ logWidth w) = slotBytes e d w := by
  simp only [strandBytes, slotBytes, two_pow_logWidth_eq_sixteen]

/-- A value goes to the window's rows when its register is a Y register (R59, R161). -/
theorem laneDest_eq (e : WarpEnv) (l : Lane) (d : Reg) (w : Width) (sx : Bool) :
    laneDest e l d w sx = if 48 ≤ d.toNat then .row (e.tile.elim 0 (·.1)) (d.toNat - 48) l w sx else .lane l d w sx := by
  simp only [laneDest, isY, decide_eq_true_eq]

/-! ## Releases (R198) -/

theorem order_of_relOf {sc sc' : Scope} {ord : Order} (h : relOf sc ord = some sc') : ord = .sync ∧ sc' = sc := by
  cases ord with
  | sync => exact ⟨rfl, (Option.some.inj h).symm⟩
  | weak | strong => cases h

/-- The wait that a store of an agent still has before it: that of a release at its scope, while it is not over. -/
def releaseWait (s : State) (who : AgentRef) (sc : Scope) (ord : Order) : Option Scope :=
  if ord = .sync ∧ waitDone s who sc (owned s who) = false then some sc else none

theorem relOf_bind (s : State) (who : AgentRef) (sc : Scope) (ord : Order) :
    ((relOf sc ord).bind fun sc => if waitDone s who sc (owned s who) then none else some sc) = releaseWait s who sc ord := by
  cases ord with
  | sync => cases h : waitDone s who sc (owned s who) <;> simp [relOf, releaseWait, h]
  | weak | strong => rfl

/-! ## The copy engine's queue (R242) -/

theorem copyQ_countedState (s : State) (e : WarpEnv) : (coreAt (countedState s e) e.k).copyQ = (coreAt s e.k).copyQ := by
  simp [coreAt_countedState]

theorem copyQ_noteWalk (s : State) (k : CoreId) (c : CtxId) (va : Nat) :
    (coreAt (noteWalk s k c va) k).copyQ = (coreAt s k).copyQ := by
  unfold noteWalk
  split
  · rfl
  · split
    · rfl
    · split
      · simp [tlbInstall]
      · rfl

theorem copyQ_noteWalks (s : State) (q : Issue) (ps : List Placed) : (coreAt (noteWalks s q ps) q.k).copyQ = (coreAt s q.k).copyQ := by
  refine List.foldlRecOn (motive := fun t => (coreAt t q.k).copyQ = (coreAt s q.k).copyQ) _ _ rfl fun t ht p _ => ?_
  split
  · rw [copyQ_noteWalk, ht]
  · exact ht

theorem copyQ_seen (s : State) (e : StrandEnv) (kind : MemKind) (as : List Acc) :
    (coreAt (seen s (strandIssue s e) kind as) e.k).copyQ = (coreAt s e.k).copyQ := by
  have ho (ps : List Placed) : (coreAt (observe (noteWalks s (strandIssue s e) ps) (strandIssue s e) kind ps).1 e.k).copyQ =
      (coreAt s e.k).copyQ := by
    rw [observe, coreAt_stippleOp]
    exact copyQ_noteWalks s (strandIssue s e) ps
  unfold seen
  dsimp only
  split
  · refine Eq.trans ?_ (ho (locate s (strandIssue s e) kind as).ok)
    simp [strandIssue, noteWatch, onStrand]
  · exact ho _

/-- Seeing an op's accesses leaves its issue as it was. -/
theorem strandIssue_of_seen {s u : State} {e : StrandEnv} {kind : MemKind} {as : List Acc} (hu : u = seen s (strandIssue s e) kind as) :
    strandIssue u e = strandIssue s e := hu ▸ strandIssue_of_teams (seen_sameTeams ..) e

/-! ## Loads (R218 to R227) -/

/-- LD and LDO are the load of their row. -/
theorem exec_loadRow {i : Instr} {r : LoadRow} (h : loadRow i = some r) (s : State) :
    exec i s = asOp i r.g s (warpLoad r.d r.a r.sc r.ord r.w r.sx r.off) (strandLoad r.d r.a r.sc r.ord r.w r.sx r.off) := by
  unfold loadRow at h
  split at h
  case h_3 => cases h
  all_goals obtain rfl := Option.some.inj h; rfl

/-- A warp's load whose accesses pass asks for every lane's value. -/
theorem warpLoad_passes {d a : Reg} {sc : Scope} {ord : Order} {w : Width} {sx : Bool} {off : W64} {e : WarpEnv} {s : State}
    (hc : LaneClean e [a, a + 1] (valueRegs d w))
    (ha : AccsPass s (warpIssue s e) e.i .load (logWidth w) false (accesses e a off (2 ^ logWidth w))) :
    warpLoad d a sc ord w sx off e s = .next (memDone s e .load (accesses e a off (2 ^ logWidth w))
      (sendAll fun s p cost => newLoad s (warpIssue s e) (ord != .strong) (ord == .sync) sc p cost
        (if 48 ≤ d.toNat then .row (e.tile.elim 0 (·.1)) (d.toNat - 48) p.lane w sx else .lane p.lane d w sx) [] 0 [])) := by
  unfold warpLoad
  simp only [widthLog_eq, widthLen_eq, widthRegs_warp, laneDest_eq]
  exact warpMem_done hc ha (fun _ hrel => absurd hrel (Option.some_ne_none _).symm) _

/-- A strand's load whose access passes makes its one request. -/
theorem strandLoad_passes {d a : Reg} {sc : Scope} {ord : Order} {w : Width} {sx : Bool} {off : W64} {e : StrandEnv} {s u : State}
    {as : List Acc} {p : Placed} (has : as = [⟨0, opA e a + off, 2 ^ logWidth w⟩])
    (ha : AccsPass s (strandIssue s e) e.i .load (logWidth w) false as) (hp : (locate s (strandIssue s e) .load as).ok = [p])
    (hu : u = seen s (strandIssue s e) .load as) :
    strandLoad d a sc ord w sx off e s = .next (newLoad u (strandIssue s e) (ord != .strong) (ord == .sync) sc p 1 (.sreg d w sx)
      (slotOrder u e) 0 (queuedBytes u e p.loc p.len)) := by
  unfold strandLoad
  rw [widthLog_eq, widthLen_eq, ← has, strandMem_done ha, hp, ← hu, strandIssue_of_seen hu]
  rfl

/-! ## Stores (R218 to R227, R240) -/

/-- ST and STO are the store of their row. -/
theorem exec_storeRow {i : Instr} {r : LoadRow} (h : storeRow i = some r) (s : State) :
    exec i s = asOp i r.g s (warpStore r.d r.a r.sc r.ord r.w r.off) (strandStore r.d r.a r.sc r.ord r.w r.off) := by
  unfold storeRow at h
  split at h
  case h_3 => cases h
  all_goals obtain rfl := Option.some.inj h; rfl

/-- What one lane of a warp's store sends: its request address to the copy engine, or its low bytes to their place. -/
def storeSend (e : WarpEnv) (d : Reg) (ord : Order) (w : Width) (s : State) (p : Placed) (cost : Nat) : State :=
  if p.va = kickAddr then kickSend s (warpIssue s e) (BitVec.ofNat 64 (natLE (storeBytes e p.lane d w))) none []
  else newReq s (warpIssue s e)
    { loc := p.loc, len := 2 ^ logWidth w, op := .store (storeBytes e p.lane d w), lease := p.lease, cost := cost, va := p.va,
      lanes := 1#32 <<< p.lane.val, isRel := ord == .sync }

/-- A warp's store whose accesses pass, whose wait is over, and for whose request addresses the copy engine has room, sends every lane's
bytes. -/
theorem warpStore_passes {d a : Reg} {sc : Scope} {ord : Order} {w : Width} {off : W64} {e : WarpEnv} {s : State} {as : List Acc}
    (has : as = accesses e a off (2 ^ logWidth w)) (hc : LaneClean e ([a, a + 1] ++ valueRegs d w) [])
    (ha : AccsPass s (warpIssue s e) e.i .store (logWidth w) false as)
    (hr : ord = .sync → waitDone s (.frag e.k e.f) sc (owned s (.frag e.k e.f)) = true)
    (hk : ∀ x ∈ as, x.va = kickAddr →
      kickCheck s (warpIssue s e) (BitVec.ofNat 64 (natLE (storeBytes e x.lane d w))) (1#32 <<< x.lane.val) = none)
    (hroom : (∀ x ∈ as, x.va ≠ kickAddr) ∨ queueRoom s e.k (as.filter fun x => x.va == kickAddr).length = true) :
    warpStore d a sc ord w off e s = .next (memDone s e .store as (sendAll (storeSend e d ord w))) := by
  have hwait : ∀ sc', relOf sc ord = some sc' → waitDone s (.frag e.k e.f) sc' (owned s (.frag e.k e.f)) = true := by
    intro sc' h
    obtain ⟨hsync, rfl⟩ := order_of_relOf h
    exact hr hsync
  have hkicks : ((as.filter fun x => x.va == kickAddr).findSome? fun x =>
      kickCheck s (warpIssue s e) (BitVec.ofNat 64 (natLE (storeBytes e x.lane d w))) (1#32 <<< x.lane.val)) = none := by
    rw [List.findSome?_eq_none_iff]
    intro x hx
    obtain ⟨hmem, hva⟩ := List.mem_filter.1 hx
    exact hk x hmem (eq_of_beq hva)
  have hlanes : laneAccs e a off (2 ^ logWidth w) = as := has.symm
  have hpair : pairOf true a = [a, a + 1] := rfl
  unfold warpStore
  simp only [widthLog_eq, widthLen_eq, widthRegs_warp, laneBytes_valueRegs, hlanes, hpair, beq_iff_eq]
  rw [warpMem_done hc ha hwait]
  split
  · rfl
  next hne =>
    have hsome : ¬ ∀ x ∈ as, x.va ≠ kickAddr := by simpa using hne
    rw [hc.regTrap, ha.checks]
    dsimp only
    rw [hkicks]
    exact if_pos (hroom.resolve_left hsome)

/-- One store that a strand's open segment has a line for is held in its queue, with the token of its line (R311, R365). -/
theorem segPush_single {s : State} {e : StrandEnv} {x : Strand} {new : SegStore} (hs : strandAt (coreAt s e.k) e.n = some x)
    (hroom : (queueLines (x.queue ++ [new])).length ≤ 64) :
    segPush s e [new] = .next (onStrand s e.k e.n fun y => { y with queue := y.queue ++ [{ new with cost := 1 }] }) := by
  rw [segPush, hs]
  exact if_neg (Nat.not_lt.2 hroom)

/-- The store that a strand holds in its open segment's queue. -/
def heldStoreOf (e : StrandEnv) (d : Reg) (w : Width) (p : Placed) : SegStore :=
  { va := p.va, loc := p.loc, data := slotBytes e d w, lease := p.lease, pc := tpcSlot e.st.pc e.slot,
    wisn := BitVec.ofNat 64 e.st.clock }

/-- The request of a strand's store that is sent. -/
def slotStoreReq (s : State) (e : StrandEnv) (d : Reg) (sc : Scope) (ord : Order) (w : Width) (p : Placed) : NewReq :=
  { loc := p.loc, len := 2 ^ logWidth w, op := .store (slotBytes e d w), lease := p.lease, cost := 1, va := p.va,
    after := slotOrder s e, rel := releaseWait s (.strand e.k e.n) sc ord, isRel := ord == .sync }

section

variable {d a : Reg} {sc : Scope} {ord : Order} {w : Width} {off : W64} {e : StrandEnv} {s u : State} {as : List Acc} {p : Placed}
  (has : as = [⟨0, opA e a + off, 2 ^ logWidth w⟩]) (ha : AccsPass s (strandIssue s e) e.i .store (logWidth w) false as)
  (hu : u = seen s (strandIssue s e) .store as)

include has ha hu

/-- A strand's store at the kick register, with room in the engine's queue, hands its request address over and closes the segment (R240,
R309). -/
theorem strandStore_kick (hva : opA e a + off = kickAddr) (hk : kickCheck u (strandIssue s e) (opD e d) 1 = none)
    (hroom : queueRoom u e.k 1 = true) :
    strandStore d a sc ord w off e s = .next (markFx (kickSend u (strandIssue s e) (opD e d) (releaseWait u (.strand e.k e.n) sc ord)
      (slotOrder u e)) e fun y => { y with close := true }) := by
  unfold strandStore
  simp only [widthLog_eq, widthLen_eq, ← has, strandMem_done ha, ← hu, strandIssue_of_seen hu, relOf_bind]
  rw [if_pos (beq_iff_eq.2 hva), hk]
  exact if_pos hroom

variable (hp : (locate s (strandIssue s e) .store as).ok = [p]) (hva : opA e a + off ≠ kickAddr)

include hp hva

/-- A strand's store in an open segment, that is no release, goes to the store queue (R311). -/
theorem strandStore_held (hord : ord ≠ .sync) (hopen : e.st.segOpen = true) :
    strandStore d a sc ord w off e s = segPush u e [heldStoreOf e d w p] := by
  have hheld : (ord != .sync && e.st.segOpen) = true := by simp [hord, hopen]
  unfold strandStore
  simp only [widthLog_eq, widthLen_eq, ← has, strandMem_done ha, ← hu, strandIssue_of_seen hu, hp, strandBytes_width]
  rw [if_neg (mt eq_of_beq hva), if_pos hheld]
  rfl

/-- A strand's store outside a segment, or a release, is sent; a release closes the segment (R227, R309). -/
theorem strandStore_sent (hsent : ord = .sync ∨ e.st.segOpen = false) :
    strandStore d a sc ord w off e s = .next (if ord = .sync then
        markFx (newReq u (strandIssue s e) (slotStoreReq u e d sc ord w p)) e fun y => { y with close := true }
      else newReq u (strandIssue s e) (slotStoreReq u e d sc ord w p)) := by
  have hheld : ¬ (ord != .sync && e.st.segOpen) = true := by rcases hsent with h | h <;> simp [h]
  unfold strandStore
  simp only [widthLog_eq, widthLen_eq, ← has, strandMem_done ha, ← hu, strandIssue_of_seen hu, hp, strandBytes_width, relOf_bind, beq_iff_eq]
  rw [if_neg hva, if_neg hheld]
  rfl

end

end Sys2Proof.Machine

namespace Sys2Proof.Claims

open Sys2Proof.Machine

theorem warpLoadsComplete : WarpLoadsComplete := by
  intro i r hrow s k f x w e h he hc ha
  rw [exec_loadRow hrow, asOp_takes h, ← he]
  have hi : e.i = i := he ▸ rfl
  exact warpLoad_passes hc (by rwa [warpIssue_countedState, hi])

theorem strandLoadsComplete : StrandLoadsComplete := by
  intro i r hrow s u k n slot st cur e as p h he has ha hp hu
  rw [exec_loadRow hrow, asOp_slot h, ← he]
  have hi : e.i = i := he ▸ rfl
  exact strandLoad_passes has (hi ▸ ha) hp hu

/-- Settles O19: each op is its row's load, whose accesses pass. -/
theorem loadsComplete : Obligations.LoadsComplete := ⟨warpLoadsComplete, strandLoadsComplete⟩

theorem warpStoresComplete : WarpStoresComplete := by
  intro i r hrow s k f x w e as val h he has hval hc ha hr hk hroom
  obtain ⟨hi, rfl, rfl⟩ : e.i = i ∧ e.k = k ∧ e.f = f := he ▸ ⟨rfl, rfl, rfl⟩
  subst hval
  rw [exec_storeRow hrow, asOp_takes h, ← he]
  refine warpStore_passes has hc (by rwa [warpIssue_countedState, hi]) hr (by rwa [warpIssue_countedState]) (hroom.imp_right fun hle => ?_)
  rw [queueRoom, copyQ_countedState]
  exact decide_eq_true hle

theorem strandStoresComplete : StrandStoresComplete := by
  intro i r hrow s u k n slot st cur e as p h he has ha hp hu rel req held
  have hexec : exec i s = strandStore r.d r.a r.sc r.ord r.w r.off e s := by rw [exec_storeRow hrow, asOp_slot h, ← he]
  obtain ⟨hi, rfl, rfl, rfl, rfl⟩ : e.i = i ∧ e.k = k ∧ e.n = n ∧ e.slot = slot ∧ e.st = st := he ▸ ⟨rfl, rfl, rfl, rfl, rfl⟩
  rw [hexec]
  rw [← hi] at ha
  refine ⟨fun hva hk hroom => ?_, fun hva hord hopen => ?_, fun hva hord hopen hlines => ?_, fun hva hord => ?_⟩
  · refine strandStore_kick has ha hu hva hk ?_
    rw [queueRoom, hu, copyQ_seen]
    exact decide_eq_true hroom
  · rw [strandStore_sent has ha hu hp hva (.inr hopen), if_neg hord]
    have hrel : (r.ord == .sync) = false := beq_eq_false_iff_ne.2 hord
    simp [slotStoreReq, releaseWait, req, hord, hrel]
  · obtain ⟨y, hy, hqueue⟩ := queue_seen h.here .store as
    rw [strandStore_held has ha hu hp hva hord hopen]
    exact segPush_single (hu ▸ hy) (hqueue ▸ hlines)
  · rw [strandStore_sent has ha hu hp hva (.inl hord), if_pos hord]
    simp [slotStoreReq, releaseWait, req, rel, hord]

/-- Settles O20: each op is its row's store, whose accesses pass. -/
theorem storesComplete : Obligations.StoresComplete := ⟨warpStoresComplete, strandStoresComplete⟩

end Sys2Proof.Claims
end

section
/-! SUPPORT. Copy requests (O28): a request that nothing of its core stands before is sent as it is made, and takes the last place of its
engine's queue with its 64 bytes; an op that finds the queue full waits (R240, R242, R367). -/

namespace Sys2Proof.Machine

open Sys2Proof.Claims

/-! ## The engine's queue (R203, R242) -/

/-- Two states have the same device and host memory and the same cores. -/
structure SameCores (s t : State) : Prop where
  dev : t.dev = s.dev
  host : t.host = s.host
  cores : t.cores = s.cores

section

variable {s t : State} (h : SameCores s t)

include h

theorem SameCores.coreAt_eq (k : CoreId) : coreAt t k = coreAt s k := by
  rw [coreAt, h.cores, coreAt]

theorem SameCores.sharedMem_eq (k : CoreId) (team : Nat) : sharedMem t k team = sharedMem s k team := by
  rw [sharedMem, h.coreAt_eq, sharedMem]

theorem SameCores.sharedBytes_eq (k : CoreId) (team off n : Nat) : sharedBytes t k team off n = sharedBytes s k team off n := by
  rw [sharedBytes, h.sharedMem_eq, sharedBytes]

theorem SameCores.sameBytes : SameBytes s t :=
  ⟨fun _ => by rw [h.dev], fun _ => by rw [h.host], fun _ _ _ => by rw [h.sharedMem_eq]⟩

end

/-- A mark of an agent's release changes no memory and no core. -/
theorem makeMark_sameCores (s : State) (who : AgentRef) (but : Nat) : SameCores s (makeMark s who but).1 := by
  unfold makeMark
  dsimp only
  split <;> exact ⟨rfl, rfl, rfl⟩

theorem kickQueue_sameBytes (s : State) (r : Req) (k : CoreId) (t off : Nat) : SameBytes s (kickQueue s r k t off) := by
  refine (makeMark_sameCores s r.who r.id).sameBytes.trans ?_
  unfold kickQueue
  exact (oneCore_modCore _ k _ fun _ => rfl).toSameBytes

/-- A copy request takes the last place, with its issuer and its 64 bytes (R242). -/
theorem kickQueue_queued (s : State) (r : Req) (k : CoreId) (t off : Nat) :
    ∃ q : CopyReq, (coreAt (kickQueue s r k t off) k).copyQ = (coreAt s k).copyQ ++ [q] ∧ q.team = t ∧ q.who = r.who ∧
      q.raw = BitVec.ofNat 512 (natLE (sharedBytes s k t off 64)) := by
  have h := makeMark_sameCores s r.who r.id
  unfold kickQueue
  rw [coreAt_modCore, h.coreAt_eq, h.sharedBytes_eq]
  exact ⟨_, rfl, rfl, rfl, rfl⟩

theorem queueRoom_one {s : State} {k : CoreId} : queueRoom s k 1 = true ↔ (coreAt s k).copyQ.length < Config.copyQueue :=
  decide_eq_true_iff

theorem queueRoom_one_full {s : State} {k : CoreId} (h : Config.copyQueue ≤ (coreAt s k).copyQ.length) : queueRoom s k 1 = false := by
  rw [← Bool.not_eq_true, queueRoom_one]
  omega

/-- A wait that is no park is entered, whatever kill is pending. -/
theorem waitFrag_unparked {s : State} {e : WarpEnv} {w : Warp} (hw : warpAt (coreAt s e.k) e.x.warp = some w) (c : WaitFor) :
    waitFrag (countedState s e) e c false =
      .next (fragDone s e { e.x with num := e.w.wisn, state := .wait e.i c } (countedWarp w)) := by
  rw [waitFrag, Bool.false_and, countedState_eq hw, onFrag_fragCore]
  rfl

/-! ## The request is sent (R197, R367) -/

/-- The request of a copy, as its issuer makes it. -/
def kickReq (s : State) (q : Issue) (a : W64) : Req :=
  { id := s.nextId, who := q.who, place := q.place, agent := q.agent, issuers := [q.who], owners := [q.who], core := q.k, team := q.team,
    ctx := q.ctx, wisn := q.wisn, pc := q.pc, loc := .shared q.k q.team (a.toNat % 281474976710656), len := 64,
    op := .kick, held := true, va := a }

/-- The state with the request made, before it is sent. -/
def kickMade (s : State) (q : Issue) (a : W64) : State := { s with nextId := s.nextId + 1, reqs := s.reqs ++ [kickReq s q a] }

theorem kickSend_eq (s : State) (q : Issue) (a : W64) : kickSend s q a none [] = trySend (kickMade s q a) s.nextId := rfl

/-- A fresh request is found under its number. -/
theorem reqAt_kickMade {s : State} (hid : reqAt s s.nextId = none) (q : Issue) (a : W64) :
    reqAt (kickMade s q a) s.nextId = some (kickReq s q a) := by
  rw [reqAt, kickMade, List.find?_append, show s.reqs.find? (fun x => x.id == s.nextId) = none from hid]
  simp [kickReq]

/-- Nothing stands before a request whose core has no other that waits to be sent (R197, R367). -/
theorem behind_kickMade {s : State} {q : Issue} (hsent : ∀ r ∈ s.reqs, r.core = q.k → r.held = false) (a : W64) :
    behind (kickMade s q a) (kickReq s q a) = false := by
  unfold behind
  rw [List.any_eq_false]
  intro r hr
  have hmem : r ∈ s.reqs ++ [kickReq s q a] := (List.takeWhile_sublist _).subset hr
  have hne : r.id ≠ s.nextId := bne_iff_ne.1 (List.all_eq_true.1 List.all_takeWhile r hr)
  obtain hmem | hmem := List.mem_append.1 hmem
  · by_cases hk : r.core = q.k
    · simp [sendable, hsent r hmem hk]
    · simp [kickReq, hk]
  · exact absurd (by rw [List.mem_singleton.1 hmem]; rfl) hne

/-- A copy request of a core with nothing that waits to be sent, and with room in its engine's queue, enters the queue at once. -/
theorem kickSend_sent {s : State} {q : Issue} (hsent : ∀ r ∈ s.reqs, r.core = q.k → r.held = false) (hid : reqAt s s.nextId = none)
    (hroom : (coreAt s q.k).copyQ.length < Config.copyQueue) (a : W64) :
    ∃ t r, kickSend s q a none [] = kickQueue t r q.k q.team (a.toNat % 2 ^ 48) ∧ r.who = q.who ∧ SameCores s t := by
  have hfull : kickWaits (kickMade s q a) (kickReq s q a) = false := by
    rw [kickWaits, kickReq, Bool.not_eq_false', queueRoom_one]
    exact hroom
  have hfree : needsTokens (kickMade s q a) (kickReq s q a) = false := rfl
  have hown : sendable (kickReq s q a) = true := rfl
  have hsend : kickSend s q a none [] = sendReq (kickMade s q a) s.nextId := by
    rw [kickSend_eq, trySend, reqAt_kickMade hid]
    simp only [hown, behind_kickMade hsent, hfree, hfull, Bool.not_true, Bool.or_self, Bool.false_eq_true, if_false]
  rw [hsend, sendReq, reqAt_kickMade hid]
  exact ⟨_, _, rfl, rfl, rfl, rfl, rfl⟩

end Sys2Proof.Machine

namespace Sys2Proof.Claims

open Sys2Proof.Machine

/-- CPK of a warp hands its request over, or waits in the fragment for room. -/
theorem exec_cpk_warp {g : Guard} {a : Reg} {s c : State} {k : CoreId} {f : FragId} {x : Frag} {w : Warp} {e : WarpEnv}
    (h : LaneTakes s (.cpk g a) g k f x w) (he : e = laneEnv s (.cpk g a) g k f x w) (hc : OnceClean e [a, a + 1] [])
    (hs : c = countedState s e) (hk : kickCheck c (warpIssue c e) (leadAddr e a) (leadOnly e) = none) :
    exec (.cpk g a) s = if queueRoom s k 1 then .next (warpEnd (kickSend c (warpIssue c e) (leadAddr e a) none []) e)
      else waitFrag c e .copyQueue false := by
  have hroom : queueRoom c e.k 1 = queueRoom s k 1 := by
    rw [queueRoom, hs, copyQ_countedState, he]
    rfl
  refine (asOp_takes h ..).trans ?_
  rw [← he, ← hs]
  refine (once_clean hc ..).trans ?_
  have hk : kickCheck c (warpIssue c e) (readPair e (leadLane e.parts) a) (laneBit (leadLane e.parts)) = none := hk
  dsimp only
  rw [hk]
  dsimp only
  rw [hroom]
  rfl

/-- CPK of a strand hands its request over and closes the segment, or its bundle waits for room. -/
theorem exec_cpk_slot {g : Guard} {a : Reg} {s : State} {k : CoreId} {n : StrandId} {slot : Slot} {st cur : Strand} {e : StrandEnv}
    (h : SlotTakes s (.cpk g a) g k n slot st cur) (he : e = slotEnv s (.cpk g a) k n slot st)
    (hk : kickCheck s (strandIssue s e) (opA e a) 1 = none) :
    exec (.cpk g a) s = if queueRoom s k 1 then
        .next (markFx (kickSend s (strandIssue s e) (opA e a) none (slotOrder s e)) e fun y => { y with close := true })
      else .next (slotStall s k n .copyQueue) := by
  subst he
  refine (asOp_slot h ..).trans ?_
  dsimp only
  rw [hk]
  rfl

/-- KICK of a strand with room in the queue. -/
theorem exec_kick_slot {a : W64} {s : State} {k : CoreId} {n : StrandId} {slot : Slot} {st cur : Strand} {e : StrandEnv}
    (h : SlotIssues s k n slot st cur) (he : e = slotEnv s (.kick a) k n slot st) (hk : kickCheck s (strandIssue s e) a 1 = none)
    (hroom : queueRoom s k 1 = true) : exec (.kick a) s = .next (kickSend s (strandIssue s e) a none (slotOrder s e)) := by
  subst he
  change execKick a s = _
  rw [execKick, h.issuer]
  dsimp only
  rw [h.start]
  have hk : kickCheck s (strandIssue s { i := .kick a, k := k, n := n, slot := slot, st := st, c := startCore s k, rep := none }) a 1 =
    none := hk
  dsimp only
  rw [hk]
  exact if_pos hroom

/-- KICK of a fragment with room in the queue. -/
theorem exec_kick_warp {a : W64} {s : State} {k : CoreId} {f : FragId} {x : Frag} {w : Warp} {e : WarpEnv} (h : FragIssues s k f x w)
    (he : e = { laneEnv s (.kick a) always k f x w with w := { w with wisn := x.num } })
    (hk : kickCheck s (warpIssue s e) a (leadOnly e) = none) (hroom : queueRoom s k 1 = true) :
    exec (.kick a) s = .next (kickSend s (warpIssue s e) a none []) := by
  have hagain : againEnv (.kick a) always k f s = some e := by
    rw [againEnv, h.frag]
    dsimp only
    rw [h.warp, he]
    rfl
  have hk : kickCheck s (warpIssue s e) a (1#32 <<< (leadLane e.parts).val) = none := hk
  change execKick a s = _
  rw [execKick, h.issuer]
  dsimp only
  rw [hagain]
  dsimp only
  rw [hk]
  exact if_pos hroom

/-- Settles O28: each op hands its request to `kickSend`, or waits for room, and a request that nothing of its core stands before is sent
into the queue as it is made. -/
theorem copyRequestsQueue : Obligations.CopyRequestsQueue := by
  refine ⟨?_, ?_, ?_, ?_, ?_⟩
  · intro g a s c k f x w e h he hc hs hk
    rw [exec_cpk_warp h he hc hs hk]
    refine ⟨fun hroom => if_pos (queueRoom_one.2 hroom), fun hfull => ?_⟩
    have hw : warpAt (coreAt s e.k) e.x.warp = some w := he ▸ h.warp
    have hwisn : e.w.wisn = w.wisn := he ▸ atCycle_wisn w
    rw [queueRoom_one_full hfull, if_neg Bool.false_ne_true, hs, waitFrag_unparked hw, hwisn, he]
    rfl
  · intro g a s k n slot st cur e h he hk
    rw [exec_cpk_slot h he hk]
    refine ⟨fun hroom => if_pos (queueRoom_one.2 hroom), fun hfull => ?_⟩
    rw [queueRoom_one_full hfull]
    rfl
  · exact fun a s k n slot st cur e h he hk hroom => exec_kick_slot h he hk (queueRoom_one.2 hroom)
  · exact fun a s k f x w e h he hk hroom => exec_kick_warp h he hk (queueRoom_one.2 hroom)
  · intro s q a hsent hid hroom
    obtain ⟨t, r, hsend, hwho, hsame⟩ := kickSend_sent hsent hid hroom a
    obtain ⟨y, hq, hteam, hy, hraw⟩ := kickQueue_queued t r q.k q.team (a.toNat % 2 ^ 48)
    rw [hsame.coreAt_eq] at hq
    rw [hsame.sharedBytes_eq] at hraw
    rw [hsend]
    exact ⟨hsame.sameBytes.trans (kickQueue_sameBytes ..), y, hq, hteam, hy.trans hwho, hraw⟩

end Sys2Proof.Claims
end

section
/-! SUPPORT. The commands of the host (O49): a command that is ready runs its body and is answered in its slot; what the commands leave in
the tables of contexts, teams, joins, queues and dies, and the bytes that RESYNC and ATTEST write to host memory (R386 to R393). -/

namespace Sys2Proof.Machine

open Sys2Proof.Claims

/-! ## The command slot (R386) -/

theorem commandDone_eq (s : State) (p : PortId) (status : Byte) : commandDone s p status = .next (answered s p status) := rfl

section

variable {s : State} {p : PortId} {code : Byte} {c : CtxId} (h : commandReady s p code = true)

include h

theorem hostCommand_ready (body : (Fin 4 → W64) → Out) : hostCommand p code s body = body fun i => (portAt s p).args[i] := if_pos h

variable (hc : argCtx (portAt s p).args[(0 : Fin 4)] = some c)

include hc

/-- A command of a live context runs its body. -/
theorem ctxCommand_live {x : Ctx} (hx : ctxAt s c = some x) (body : CtxId → Ctx → Out) : ctxCommand p code s body = body c x := by
  rw [ctxCommand, hostCommand_ready h]
  dsimp only
  rw [hc]
  dsimp only
  rw [hx]

/-- A command of a number that no context has is answered 2. -/
theorem ctxCommand_dead (hx : ctxAt s c = none) (body : CtxId → Ctx → Out) : ctxCommand p code s body = .next (answered s p 2) := by
  rw [ctxCommand, hostCommand_ready h]
  dsimp only
  rw [hc]
  dsimp only
  rw [hx]
  rfl

end

theorem withRead_ok {s : State} {p : PortId} {a n : Nat} {bs : List Byte} (h : hostRead s p a n = .ok bs) (body : List Byte → Out) :
    withRead s p a n body = body bs := by
  rw [withRead, h]

/-! ## What a unit's write leaves alone -/

/-- Two states hold the same contexts, teams and joins. -/
structure SameTables (s t : State) : Prop where
  ctxs : t.ctxs = s.ctxs
  teams : t.teams = s.teams
  joins : t.joins = s.joins

theorem SameTables.refl (s : State) : SameTables s s := ⟨rfl, rfl, rfl⟩

theorem SameTables.trans {s t u : State} (h : SameTables s t) (h' : SameTables t u) : SameTables s u :=
  ⟨h'.ctxs.trans h.ctxs, h'.teams.trans h.teams, h'.joins.trans h.joins⟩

theorem SameTables.ctxAt_eq {s t : State} (h : SameTables s t) (c : CtxId) : ctxAt t c = ctxAt s c := by
  rw [ctxAt, h.ctxs, ctxAt]

theorem homeStore_sameTables (s : State) (cell : Nat) (bs : List Byte) : SameTables s (homeStore s cell bs).1 := by
  unfold homeStore
  dsimp only
  split
  · exact ⟨by simp, by simp, by simp⟩
  · exact ⟨rfl, rfl, rfl⟩

theorem unitWrite_sameTables {s : State} {c : CtxId} {va : W64} {bs : List Byte} {r : State × Nat} (h : unitWrite s c va bs = some r) :
    SameTables s r.1 := by
  unfold unitWrite at h
  split at h
  · cases h
  split at h
  next l _ _ _ =>
    cases l with
    | dev cell => obtain rfl := Option.some.inj h; exact homeStore_sameTables ..
    | host a => obtain rfl := Option.some.inj h; exact ⟨rfl, rfl, rfl⟩
    | shared k t off => obtain rfl := Option.some.inj h; exact ⟨by simp, by simp, by simp⟩
    | peer => cases h
  · cases h

/-! ## The flags of the error queue (R317) -/

/-- Putting the flags changes what a context still has to put, and nothing else of the tables. -/
theorem putFlags_sameTables {s : State} {c : CtxId} {x : Ctx} (hx : ctxAt s c = some x) :
    ∃ jobs, SameTables (setCtx s c (some { x with flagJobs := jobs })) (putFlags s c) := by
  unfold putFlags
  rw [hx]
  dsimp only
  split
  · exact ⟨x.flagJobs, by simp [setCtx, ← hx, ctxAt], rfl, rfl⟩
  · refine ⟨[], ?_⟩
    split
    · exact .refl _
    · cases hw : unitWrite _ _ _ _ with
      | none => exact .refl _
      | some r => exact unitWrite_sameTables hw

theorem errqFlag_sameTables {s : State} {c : CtxId} {x : Ctx} (hx : ctxAt s c = some x) (i : Nat) (on : Bool) :
    ∃ jobs, SameTables (setCtx s c (some { x with flagJobs := jobs })) (errqFlag s c i on) := by
  have hm : modCtx s c (fun x => { x with flagJobs := x.flagJobs ++ [(i, on)] }) =
      setCtx s c (some { x with flagJobs := x.flagJobs ++ [(i, on)] }) := by simp [modCtx, hx]
  obtain ⟨jobs, h⟩ := putFlags_sameTables (s := setCtx s c (some { x with flagJobs := x.flagJobs ++ [(i, on)] })) (ctxAt_setCtx ..)
  refine ⟨jobs, ?_⟩
  rw [errqFlag, hm]
  simpa [setCtx] using h

/-- The context whose flag is put is as it was but for its flags. -/
theorem ctxAt_errqFlag {s : State} {c : CtxId} {x : Ctx} (hx : ctxAt s c = some x) (i : Nat) (on : Bool) :
    ∃ jobs, ctxAt (errqFlag s c i on) c = some { x with flagJobs := jobs } :=
  (errqFlag_sameTables hx i on).imp fun _ h => (h.ctxAt_eq c).trans (ctxAt_setCtx ..)

/-! ## Contexts (R308, R325, R386, R389, R392) -/

/-- A team of a context that stops is no longer placed. -/
def stoppedTeam (c : CtxId) (t : Team) : Team := if t.ctx == c && t.status == .placed then { t with status := .saving } else t

/-- A member whose context stops no longer runs (R274). -/
def stoppedMember (m : Member) : Member := if m.state = .running then { m with state := .killing, stop := true } else m

/-- A join of a context that stops. -/
def stoppedJoin (c : CtxId) (j : Join) : Join := if j.ctx == c then { j with members := j.members.map stoppedMember } else j

/-- A context that stops, with its teams and joins, before the flag is put that says so (R308). -/
def stoppedTables (s : State) (c : CtxId) (x : Ctx) : State :=
  { setCtx s c (some { x with stopped := true }) with teams := s.teams.map (stoppedTeam c), joins := s.joins.map (stoppedJoin c) }

theorem stoppedTeam_status {c : CtxId} {t : Team} (h : (stoppedTeam c t).ctx = c) : (stoppedTeam c t).status ≠ .placed := by
  by_cases hp : t.ctx = c ∧ t.status = .placed
  · simp [stoppedTeam, hp]
  · rw [stoppedTeam, if_neg (by simpa using hp)] at h ⊢
    exact fun he => hp ⟨h, he⟩

theorem stoppedMember_state (m : Member) : (stoppedMember m).state ≠ .running := by
  unfold stoppedMember
  split
  · exact MemberState.noConfusion
  · assumption

theorem stoppedJoin_members {c : CtxId} {j : Join} (h : (stoppedJoin c j).ctx = c) :
    ∀ m ∈ (stoppedJoin c j).members, m.state ≠ .running := by
  by_cases hc : j.ctx = c
  · rw [stoppedJoin, if_pos (beq_iff_eq.2 hc)]
    intro m hm
    obtain ⟨m', -, rfl⟩ := List.mem_map.1 hm
    exact stoppedMember_state m'
  · rw [stoppedJoin, if_neg (by simpa using hc)] at h
    exact absurd h hc

section

variable {s : State} {c : CtxId} {x : Ctx} (hx : ctxAt s c = some x)

include hx

/-- A stopped context has no placed team and no running member (R308). -/
theorem stopContext_done : ∃ y, ctxAt (stopContext s c) c = some y ∧ y.stopped = true ∧
    (∀ tm ∈ (stopContext s c).teams, tm.ctx = c → tm.status ≠ .placed) ∧
    ∀ j ∈ (stopContext s c).joins, j.ctx = c → ∀ m ∈ j.members, m.state ≠ .running := by
  have hstop : stopContext s c = errqFlag (stoppedTables s c x) c 1 true := by
    rw [stopContext, hx]
    rfl
  have hc : ctxAt (stoppedTables s c x) c = some { x with stopped := true } := ctxAt_setCtx ..
  obtain ⟨jobs, h⟩ := errqFlag_sameTables hc 1 true
  rw [hstop]
  refine ⟨{ x with stopped := true, flagJobs := jobs }, ?_, rfl, fun tm hm => ?_, fun j hj => ?_⟩
  · exact (h.ctxAt_eq c).trans (ctxAt_setCtx ..)
  · rw [h.teams] at hm
    obtain ⟨t, -, rfl⟩ := List.mem_map.1 hm
    exact stoppedTeam_status
  · rw [h.joins] at hj
    obtain ⟨j', -, rfl⟩ := List.mem_map.1 hj
    exact stoppedJoin_members

/-- Resuming a context's agents leaves the contexts but for the stop-all that it ends (R341). -/
theorem resumeAll_ctxAt : ctxAt (resumeAll s c) c = some { x with dbg := { x.dbg with stopall := false } } := by
  have hm : ctxAt (modCtx s c fun x => { x with dbg := { x.dbg with stopall := false } }) c =
      some { x with dbg := { x.dbg with stopall := false } } := by simp [modCtx, hx]
  refine List.foldlRecOn (motive := fun t => ctxAt t c = _) _ _ hm fun t ht tm _ => ?team
  refine List.foldlRecOn (motive := fun t => ctxAt t c = _) _ _ ?warps fun u hu k _ => ?strand
  case strand => simpa [resumeStrand] using hu
  case warps =>
    refine List.foldlRecOn (motive := fun t => ctxAt t c = _) _ _ (by simpa using ht) fun u hu w _ => ?_
    exact List.foldlRecOn (motive := fun t => ctxAt t c = _) _ _ (by simpa using hu) fun v hv f _ => by simpa [resumeFrag] using hv

/-- A context whose debug right is revoked is live, without the right (R340). -/
theorem revokeRight_done : ∃ y, ctxAt (revokeRight s c) c = some y ∧ y.dbg.right = false := by
  unfold revokeRight
  rw [hx]
  dsimp only
  rw [modCtx, resumeAll_ctxAt hx]
  dsimp only
  split
  · exact ⟨_, (ctxAt_errqFlag (ctxAt_setCtx ..) 2 true).choose_spec, rfl⟩
  · exact ⟨_, ctxAt_setCtx .., rfl⟩

/-- After DBGREVOKE the context has no debug right, whether it had one or not. -/
theorem dbgrevoke_done : ∃ y, ctxAt (if x.dbg.right then revokeRight s c else s) c = some y ∧ y.dbg.right = false := by
  split
  · exact revokeRight_done hx
  next h => exact ⟨x, hx, Bool.eq_false_iff.2 h⟩

end

/-- The body of CTXRESUME: STOPPED is cleared, the saved teams of the context are to be restored, and its waiting queues are read again
(R260, R325). -/
def resumeCtx (s : State) (c : CtxId) (x : Ctx) : State :=
  let s := errqFlag (setCtx s c (some { x with stopped := false })) c 1 false
  lookAgain { s with teams := s.teams.map fun t =>
    if t.ctx == c && (t.status == .saved || t.status == .saving) then { t with resume := true } else t } c

theorem resumeCtx_done (s : State) (c : CtxId) (x : Ctx) : ∃ y, ctxAt (resumeCtx s c x) c = some y ∧ y.stopped = false ∧
    ∀ tm ∈ (resumeCtx s c x).teams, tm.ctx = c → tm.status = .saved → tm.resume = true := by
  obtain ⟨jobs, h⟩ := ctxAt_errqFlag (ctxAt_setCtx s c (some { x with stopped := false })) 1 false
  refine ⟨{ x with stopped := false, flagJobs := jobs }, h, rfl, fun tm hm hc hs => ?_⟩
  obtain ⟨t, -, rfl⟩ := List.mem_map.1 hm
  split
  · rfl
  next hsaved =>
    rw [if_neg hsaved] at hc hs
    simp [hc, hs] at hsaved

/-- OVCTL is written to memory; the context stays as it is (R264). -/
theorem writeOvctl_sameTables (s : State) (c : CtxId) : SameTables s (writeOvctl s c) := by
  unfold writeOvctl
  split
  · exact .refl s
  · exact homeStore_sameTables ..

/-- A destroyed context has left its table, and with it its teams, grids and queues (R386). -/
theorem destroyCtx_done (s : State) (c : CtxId) : ctxAt (destroyCtx s c) c = none ∧ (∀ tm ∈ (destroyCtx s c).teams, tm.ctx ≠ c) ∧
    (∀ g ∈ (destroyCtx s c).grids, g.ctx ≠ c) ∧ ∀ q y, queueAt (destroyCtx s c) q = some y → y.ctx ≠ c := by
  unfold destroyCtx
  refine ⟨by simp [ctxAt], fun tm hm => ?_, fun g hg => ?_, fun q y hy => ?_⟩
  · simpa using (List.mem_filter.1 hm).2
  · simpa using (List.mem_filter.1 hg).2
  · simp only [queueAt, Fin.getElem_fin, Vector.getElem_map, Option.bind_eq_some_iff] at hy
    obtain ⟨z, -, hz⟩ := hy
    split at hz
    · cases hz
    · cases hz
      assumption

/-! ## Translations (R387) -/

/-- Clearing a TLB keeps the entries that clearing alone would keep. -/
theorem mem_tlbClear {t : List TlbEntry} {c : CtxId} {base len : Nat} {en : TlbEntry} :
    en ∈ tlbClear t c base len ↔ en ∈ t ∧ tlbClear [en] c base len = [en] := by
  rw [tlbClear, List.mem_filter, tlbClear, List.filter_eq_self]
  simp

/-- TLBINV's range of a context leaves every TLB of the package. -/
def clearTlbs (s : State) (c : CtxId) (base len : Nat) : State :=
  { s with cores := s.cores.map fun k => if k.tlb.isEmpty then k else { k with tlb := tlbClear k.tlb c base len },
           dies := s.dies.map fun d => { d with tlb := tlbClear d.tlb c base len } }

theorem coreAt_clearTlbs_tlb (s : State) (c : CtxId) (base len : Nat) (k : CoreId) :
    (coreAt (clearTlbs s c base len) k).tlb = tlbClear (coreAt s k).tlb c base len := by
  simp only [coreAt, clearTlbs, Fin.getElem_fin, Vector.getElem_map]
  split
  next h => rw [List.isEmpty_iff.1 h]; rfl
  · rfl

theorem dieAt_clearTlbs_tlb (s : State) (c : CtxId) (base len : Nat) (d : DieId) :
    (dieAt (clearTlbs s c base len) d).tlb = tlbClear (dieAt s d).tlb c base len := by
  simp [dieAt, clearTlbs]

/-! ## What RESYNC writes (R390) -/

@[simp] theorem length_bytesLE (n x : Nat) : (bytesLE n x).length = n := by
  induction n generalizing x with
  | zero => rfl
  | succ n ih => rw [bytesLE, List.length_cons, ih]

@[simp] theorem length_setLow (bits v : Nat) (bs : List Byte) : (setLow bits v bs).length = bs.length := length_bytesLE ..

/-- Free bytes change no memory. -/
theorem freeRun_done (s : State) (n : Nat) :
    (freeRun s n).1.dev = s.dev ∧ (freeRun s n).1.host = s.host ∧ (freeRun s n).2.length = 8 * n := by
  unfold freeRun
  induction n with
  | zero => exact ⟨rfl, rfl, rfl⟩
  | succ n ih =>
    obtain ⟨hd, hh, hl⟩ := ih
    rw [List.range_succ, List.foldl_append, List.foldl_cons, List.foldl_nil]
    refine ⟨hd, hh, ?_⟩
    rw [List.length_append, hl, length_bytesLE]
    rfl

@[simp] theorem length_resyncCtxBytes (s : State) (c : CtxId) : (resyncCtxBytes s c).length = 32 := by
  unfold resyncCtxBytes
  split <;> simp

@[simp] theorem length_resyncQueueBytes (s : State) (q : QueueId) : (resyncQueueBytes s q).length = 16 := by
  unfold resyncQueueBytes
  split <;> simp

@[simp] theorem length_resyncDieBytes (s : State) (d : DieId) : (resyncDieBytes s d).length = 64 := length_bytesLE ..

/-- Runs of one length, one for each number. -/
theorem length_flatMap_finRange {m n : Nat} {f : Fin m → List Byte} (h : ∀ i, (f i).length = n) :
    ((List.finRange m).flatMap f).length = m * n := by
  have hlen : (fun i => (f i).length) = fun _ => n := funext h
  rw [List.length_flatMap, hlen, List.map_const', List.sum_replicate_nat, List.length_finRange]

theorem length_resyncHead (s : State) (p : PortId) (free : List Byte) : (resyncHead s p free).length = 32 + free.length := by
  simp [resyncHead]
  omega

/-- A summary record has 6464 bytes. -/
theorem length_resyncBytes (s : State) (p : PortId) {free : List Byte} (hf : free.length = 32) : (resyncBytes s p free).length = 6464 := by
  rw [resyncBytes, List.length_append, List.length_append, List.length_append, length_resyncHead, hf,
    length_flatMap_finRange (length_resyncDieBytes s), length_flatMap_finRange (length_resyncCtxBytes s),
    length_flatMap_finRange (length_resyncQueueBytes s)]

/-- Its first two words are its version and TICK. -/
theorem take_resyncBytes (s : State) (p : PortId) (free : List Byte) :
    (resyncBytes s p free).take 16 = bytesLE 8 1 ++ bytesLE 8 s.tick := by
  unfold resyncBytes resyncHead
  simp only [List.append_assoc]
  rw [← List.append_assoc, List.take_left' (by simp)]

/-- Bytes written to host memory. -/
def hostPut (s : State) (a : Nat) (bs : List Byte) : State := { s with host := memPut s.host a bs }

@[simp] theorem hostPut_dev (s : State) (a : Nat) (bs : List Byte) : (hostPut s a bs).dev = s.dev := rfl

theorem wrote_hostPut {s t : State} (h : Memory.wf s.host = true) (ht : t.host = s.host) (a : Nat) (bs : List Byte) :
    Wrote s.host (hostPut t a bs).host a bs := fun x => by
  rw [hostPut, ht]
  exact memRead_memPut h a x bs

/-! ## Dies (R391 to R393) -/

@[simp] theorem dieAt_raiseVector (s : State) (p : PortId) (v : Nat) (d : DieId) : dieAt (raiseVector s p v) d = dieAt s d := rfl

@[simp] theorem dieAt_raiseAll (s : State) (v : Nat) (d : DieId) : dieAt (raiseAll s v) d = dieAt s d := by
  refine List.foldlRecOn (motive := fun t => dieAt t d = dieAt s d) _ _ rfl fun t ht p _ => ?_
  split
  · rw [dieAt_raiseVector, ht]
  · exact ht

/-- No die is in a restrike. -/
theorem no_striking {s : State} (h : ∀ e, (dieAt s e).striking = none) : (s.dies.toList.any fun y => y.striking.isSome) = false := by
  rw [List.any_eq_false]
  intro y hy
  obtain ⟨i, hi, rfl⟩ := Vector.mem_iff_getElem.1 (Vector.mem_toList_iff.1 hy)
  have := h ⟨i, hi⟩
  simp only [dieAt, Fin.getElem_fin] at this
  simp [this]

/-- A hand-over record's own digest agrees: whether an image accepts it turns on its format (R393). -/
theorem handOverOk_handOver (image : Image) (s : State) (d : DieId) (ctl : Fin 3) :
    handOverOk image (handOver s d ctl) = decide ((handOver s d ctl).format ≤ image.format) := by
  simp [handOverOk, handOver]

/-! ## The commands, ready (R386) -/

section

variable {s : State} {p : PortId} {c : CtxId}

/-- CTXCREATE of a number that is in use. -/
theorem exec_ctxcreate_live (h : commandReady s p 1 = true) (hf : fabricHeld s = false)
    (hc : argCtx (portAt s p).args[(0 : Fin 4)] = some c) (hx : (ctxAt s c).isSome = true) :
    exec (.ctxcreate p) s = .next (answered s p 3) := by
  change execCtxcreate p s = _
  rw [execCtxcreate, hostCommand_ready h]
  rw [hf, hc]
  exact if_pos hx

/-- CTXCREATE of a free number, with its record read. -/
theorem exec_ctxcreate_free (h : commandReady s p 1 = true) (hf : fabricHeld s = false)
    (hc : argCtx (portAt s p).args[(0 : Fin 4)] = some c) (hx : ctxAt s c = none) {a : W64} (ha : a = (portAt s p).args[(1 : Fin 4)])
    (hal : a.toNat % 256 = 0) {bs : List Byte} (hbs : hostRead s p a.toNat 256 = .ok bs) :
    exec (.ctxcreate p) s = .next (if recordBad bs then answered s p 2 else answered (setCtx s c (some (newCtx bs a.toNat p))) p 0) := by
  subst ha
  change execCtxcreate p s = _
  rw [execCtxcreate, hostCommand_ready h]
  dsimp only
  rw [hf, hc]
  dsimp only
  rw [hx]
  simp only [Option.isSome_none, Bool.false_eq_true, if_false, hal, ne_eq, not_true_eq_false, withRead_ok hbs, commandDone_eq]
  split <;> rfl

variable (hc : argCtx (portAt s p).args[(0 : Fin 4)] = some c)

include hc

theorem exec_ctxstop_dead (h : commandReady s p 2 = true) (hx : ctxAt s c = none) : exec (.ctxstop p) s = .next (answered s p 2) :=
  ctxCommand_dead h hc hx _

theorem exec_ctxresume_dead (h : commandReady s p 3 = true) (hx : ctxAt s c = none) : exec (.ctxresume p) s = .next (answered s p 2) :=
  ctxCommand_dead h hc hx _

theorem exec_ctxdestroy_dead (h : commandReady s p 4 = true) (hx : ctxAt s c = none) : exec (.ctxdestroy p) s = .next (answered s p 2) :=
  ctxCommand_dead h hc hx _

variable {x : Ctx} (hx : ctxAt s c = some x)

include hx

theorem exec_ctxstop_live (h : commandReady s p 2 = true) : exec (.ctxstop p) s = .next (answered (stopContext s c) p 0) :=
  ctxCommand_live h hc hx _

theorem exec_ctxresume_live (h : commandReady s p 3 = true) : exec (.ctxresume p) s = .next (answered (resumeCtx s c x) p 0) :=
  ctxCommand_live h hc hx _

theorem exec_ctxdestroy_live (h : commandReady s p 4 = true) (hf : fabricHeld s = false) :
    exec (.ctxdestroy p) s = .next (answered (destroyCtx s c) p 0) := by
  refine (ctxCommand_live h hc hx _).trans ?_
  rw [hf]
  rfl

theorem exec_spillclr_live (h : commandReady s p 7 = true) :
    exec (.spillclr p) s = .next (answered (writeOvctl (setCtx s c (some { x with spstop := false })) c) p 0) :=
  ctxCommand_live h hc hx _

theorem exec_dbggrant_live (h : commandReady s p 8 = true) : exec (.dbggrant p) s = .next (if x.dbg.right then answered s p 3
    else answered (setCtx s c (some { x with dbg := { x.dbg with right := true } })) p 0) := by
  refine (ctxCommand_live h hc hx _).trans ?_
  split <;> rfl

theorem exec_dbgrevoke_live (h : commandReady s p 9 = true) :
    exec (.dbgrevoke p) s = .next (answered (if x.dbg.right then revokeRight s c else s) p 0) :=
  ctxCommand_live h hc hx _

theorem exec_flagclr_live (h : commandReady s p 10 = true) (hw : errqWaits s c x = false) {b w flags pol n : Nat} {u : State}
    (hb : errqBlock s c x = some (b, w, flags, pol))
    (hu : unitWrite s c (x.errq + 16) (bytesLE 8 (BitVec.ofNat 64 flags &&& 0xFFFFFFFA#64).toNat) = some (u, n)) :
    exec (.flagclr p) s = .next (answered u p 0) := by
  have hflags : errqFlags s c x (fun f => (BitVec.ofNat 64 f &&& 0xFFFFFFFA#64).toNat) = some u := by
    rw [errqFlags, hb]
    dsimp only
    rw [hu]
    rfl
  refine (ctxCommand_live h hc hx _).trans ?_
  rw [hw, hflags]
  rfl

theorem exec_tlbinv_live (h : commandReady s p 15 = true) (hal : (portAt s p).args[(1 : Fin 4)].toNat % 4096 = 0)
    (hp : (portAt s p).posted = []) : exec (.tlbinv p) s =
      .next (answered (clearTlbs s c (portAt s p).args[(1 : Fin 4)].toNat (portAt s p).args[(2 : Fin 4)].toNat) p 0) := by
  refine (ctxCommand_live h hc hx _).trans ?_
  dsimp only
  rw [hal, hp]
  rfl

end

section

variable {s : State} {p : PortId} {q : QueueId}

/-- QREG whose arguments are good. -/
theorem exec_qreg_ready {c : CtxId} (h : commandReady s p 5 = true) (hq : argQueue (portAt s p).args[(0 : Fin 4)] = some q)
    (hc : argCtx (portAt s p).args[(2 : Fin 4)] = some c) (hx : (ctxAt s c).isSome = true) {a : W64}
    (ha : a = (portAt s p).args[(1 : Fin 4)]) (hal : a.toNat % 64 = 0) (hr : routeOk s p (Fin.ofNat 4 (q.val / 64)) = true)
    (hb : queueBusy s q = false) :
    exec (.qreg p) s = if (queueAt s q).any (fun x => !x.closing) then .next (answered s p 3)
      else withRead s p a.toNat 64 fun bs =>
        if (newQueue bs a.toNat).ctx ≠ c || (newQueue bs a.toNat).ring.toNat % 4096 ≠ 0 || (newQueue bs a.toNat).log2n < 1 ||
            (newQueue bs a.toNat).log2n > 12 then commandDone s p 2
        else commandDone (setQueue s q (some (newQueue bs a.toNat))) p 0 := by
  subst ha
  change execQreg p s = _
  rw [execQreg, hostCommand_ready h]
  dsimp only
  rw [hq, hc]
  dsimp only
  rw [hal, hr, hb, Option.isNone_eq_false_iff.2 hx, Bool.or_false]
  rfl

theorem exec_qunreg_open {x : Queue} (h : commandReady s p 6 = true) (hq : argQueue (portAt s p).args[(0 : Fin 4)] = some q)
    (hx : queueAt s q = some x) (ho : x.closing = false) :
    exec (.qunreg p) s = .next (answered (setQueue s q (if queueBusy s q then some { x with closing := true } else none)) p 0) := by
  change execQunreg p s = _
  rw [execQunreg, hostCommand_ready h]
  dsimp only
  rw [hq]
  dsimp only
  rw [hx]
  dsimp only
  rw [ho]
  rfl

/-- The free STATUS of a code that names no command. -/
def freeStatus (v : W64) : Byte := [0, 2, 3, 4, 5, 6].getD (v.toNat % 6) 2

/-- It is not that of a command in progress. -/
theorem freeStatus_ne_one (v : W64) : freeStatus v ≠ 1 := by
  have h : ∀ n < 6, ([0, 2, 3, 4, 5, 6] : List Byte).getD n 2 ≠ 1 := by decide
  exact h _ (Nat.mod_lt _ (by decide))

theorem exec_unknownHostCommand_ready {code : Byte} (h : commandReady s p code = true) (hcode : code = 0 ∨ 16 ≤ code.toNat) :
    exec (.unknownHostCommand p code) s = .next (answered (freshValue s).1 p (freeStatus (freshValue s).2)) := by
  have hnone : (1 ≤ code.toNat && code.toNat ≤ 15) = false := by
    rcases hcode with rfl | hcode
    · rfl
    · simp; omega
  change execUnknownHostCommand p code s = _
  rw [execUnknownHostCommand, hostCommand_ready h]
  dsimp only
  rw [hnone]
  rfl

end

section

variable {s : State} {p : PortId}

theorem exec_resync_misaligned {a : W64} (h : commandReady s p 11 = true) (ha : a = (portAt s p).args[(0 : Fin 4)])
    (hal : a.toNat % 64 ≠ 0) :
    exec (.resync p) s = .next (answered s p 2) := by
  subst ha
  change execResync p s = _
  rw [execResync, hostCommand_ready h]
  exact if_pos hal

theorem exec_resync_aligned {a : W64} (h : commandReady s p 11 = true) (ha : a = (portAt s p).args[(0 : Fin 4)])
    (hal : a.toNat % 64 = 0) : exec (.resync p) s =
      .next (answered (hostPut (freeRun s 4).1 a.toNat (resyncBytes s p (freeRun s 4).2)) p 0) := by
  subst ha
  change execResync p s = _
  rw [execResync, hostCommand_ready h]
  exact if_neg fun hne => hne hal

/-- The report of a die as ATTEST writes it (R388). -/
def reportOfDie (s : State) (d : DieId) (nonce : List Byte) : List Byte :=
  bytesLE 256 (Config.reportBytes (reportOf s d nonce)).toNat

theorem exec_attest_ready {d : DieId} {nonce : List Byte} {a : W64} (h : commandReady s p 12 = true)
    (ha : a = (portAt s p).args[(0 : Fin 4)])
    (hd : d = Config.attestDie p (portAt s p).args[(2 : Fin 4)] (portAt s p).args[(3 : Fin 4)]) (hr : routeOk s p d = true)
    (hn : hostRead s p (portAt s p).args[(1 : Fin 4)].toNat 32 = .ok nonce) :
    exec (.attest p) s = .next (answered (hostPut s a.toNat
      (reportOfDie s d nonce ++ bytesLE 7856 (Config.signature d (reportOfDie s d nonce)).toNat)) p 0) := by
  subst ha hd
  change execAttest p s = _
  rw [execAttest, hostCommand_ready h]
  dsimp only
  rw [hr, withRead_ok hn]
  rfl

/-- STAGE of an image that can be read: it is staged when it passes the checks, and rejected otherwise (R391). -/
theorem exec_stage_ready {ctl : Fin 3} {d : DieId} {a b : W64} {h : ImageHeader} {header body sig : List Byte}
    (hcmd : commandReady s p 13 = true) (hc : argController (portAt s p).args[(0 : Fin 4)] = some (ctl, d))
    (ha : a = (portAt s p).args[(1 : Fin 4)]) (hb : b = (portAt s p).args[(2 : Fin 4)]) (hms : (b.extractLsb' 32 16).toNat ≤ 1000)
    (hr : routeOk s p d = true) (hs : (dieAt s d).striking = none) (hheader : hostRead s p a.toNat 256 = .ok header)
    (hh : h = Config.headerOf header) (hbody : hostRead s p (a.toNat + 256) h.bodyLen = .ok body)
    (hsig : hostRead s p (a.toNat + 256 + h.bodyLen) 7856 = .ok sig) :
    exec (.stage p) s = if imageOk d ctl h header body sig then
        .next (answered (modDie s d fun y => { y with
          staged := some (ctl, h.image, b.getLsbD 0, if b.extractLsb' 32 16 = 0 then 20 else (b.extractLsb' 32 16).toNat),
          rst := .staged, rstCtl := ctl }) p 0)
      else .next (answered (raiseAll (modDie s d fun y => { y with staged := none, rst := .rejected, rstCtl := ctl }) 65) p 4) := by
  subst ha hb hh
  change execStage p s = _
  rw [execStage, hostCommand_ready hcmd]
  dsimp only
  rw [hc]
  dsimp only
  rw [if_neg (Nat.not_lt.2 hms), hr, hs, withRead_ok hheader, withRead_ok hbody, withRead_ok hsig]
  rfl

/-- A restrike under way, as RESTRIKE begins it with the staged image (R392). -/
def beginsStrike (s : State) (p : PortId) (ctl : Fin 3) (d : DieId) (image : Image) : Striking :=
  { ctl := ctl, back := !handOverOk image (handOver s d ctl), port := p, quiesce := s.tick, started := s.tick }

/-- The state with the restrike begun: the running image becomes the retained one, and has written its hand-over record. -/
def struck (s : State) (p : PortId) (ctl : Fin 3) (d : DieId) (image : Image) : State :=
  modDie s d fun y => { y with
    rst := .progress, rstCtl := ctl, store := some ((imageStore s d).1, (imageStore s d).2.set ctl (dieAt s d).running[ctl]),
    hand := some (handOver s d ctl), striking := some (beginsStrike s p ctl d image) }

theorem exec_restrike_ready {ctl : Fin 3} {d : DieId} {image : Image} {persist : Bool} {dog : Nat} (h : commandReady s p 14 = true)
    (hc : argController (portAt s p).args[(0 : Fin 4)] = some (ctl, d)) (hr : routeOk s p d = true)
    (hs : ∀ e, (dieAt s e).striking = none)
    (hst : (dieAt s d).staged = some (ctl, image, persist, dog)) :
    exec (.restrike p) s = .next (answered (struck s p ctl d image) p 0) := by
  change execRestrike p s = _
  rw [execRestrike, hostCommand_ready h]
  dsimp only
  rw [hc]
  dsimp only
  rw [hr, no_striking hs, hst]
  dsimp only
  rw [if_neg fun hne : ctl ≠ ctl => hne rfl]
  rfl

end

end Sys2Proof.Machine

namespace Sys2Proof.Claims

open Sys2Proof.Machine

/-! ## The statements -/

theorem contextCommands : ContextCommands := by
  intro s p c a ha hc
  subst ha
  refine ⟨fun h hf => ⟨exec_ctxcreate_live h hf hc, fun hx hal bs hbs => exec_ctxcreate_free h hf hc hx rfl hal hbs⟩,
    fun hx => ⟨fun h => exec_ctxstop_dead hc h hx, fun h => exec_ctxresume_dead hc h hx, fun h => exec_ctxdestroy_dead hc h hx⟩,
    fun x hx => ⟨fun h => ?stop, fun h => ?resume, fun h hf => ?destroy, fun h => ?spill, fun h => exec_dbggrant_live hc hx h,
      fun h => ?revoke, fun h hw b w flags pol u n hb hu => exec_flagclr_live hc hx h hw hb hu, fun h hal hp => ?tlb⟩⟩
  case stop =>
    obtain ⟨y, hy⟩ := stopContext_done hx
    exact ⟨_, y, exec_ctxstop_live hc hx h, hy⟩
  case resume =>
    obtain ⟨y, hy⟩ := resumeCtx_done s c x
    exact ⟨_, y, exec_ctxresume_live hc hx h, hy⟩
  case destroy => exact ⟨_, exec_ctxdestroy_live hc hx h hf, destroyCtx_done s c⟩
  case spill => exact ⟨_, _, exec_spillclr_live hc hx h, ((writeOvctl_sameTables ..).ctxAt_eq c).trans (ctxAt_setCtx ..), rfl⟩
  case revoke =>
    obtain ⟨y, hy⟩ := dbgrevoke_done hx
    exact ⟨_, y, exec_dbgrevoke_live hc hx h, hy⟩
  case tlb =>
    refine ⟨_, exec_tlbinv_live hc hx h hal hp, rfl, fun k en hen => ?_, fun d en hen => ?_⟩
    · rw [coreAt_clearTlbs_tlb] at hen
      exact mem_tlbClear.1 hen
    · rw [dieAt_clearTlbs_tlb] at hen
      exact mem_tlbClear.1 hen

theorem queueCommands : QueueCommands := by
  refine ⟨fun s p q c a bs x ha h hq hc hx hal hr hb => ?_, fun s p q x h hq hx ho => exec_qunreg_open h hq hx ho,
    fun s p code h hcode => ⟨_, _, exec_unknownHostCommand_ready h hcode, freeStatus_ne_one _, rfl, rfl⟩⟩
  subst ha
  rw [exec_qreg_ready h hq hc hx rfl hal hr hb]
  refine ⟨fun ⟨y, hy, ho⟩ => ?_, fun hn hbs hblock => ?_⟩
  · rw [hy, Option.any_some, ho]
    rfl
  · rw [hn, Option.any_none, if_neg Bool.false_ne_true, withRead_ok hbs, ← hblock]
    refine ⟨fun hctx hring hlow hhigh => ?_, fun hctx => ?_⟩
    · have hgood : ¬ (x.ctx ≠ c || x.ring.toNat % 4096 ≠ 0 || x.log2n < 1 || x.log2n > 12) = true := by
        simp [hctx, hring]; omega
      rw [if_neg hgood]
      rfl
    · rw [if_pos (by simp [hctx])]
      rfl

theorem imageCommands : ImageCommands := by
  refine ⟨fun s p hm h => ⟨exec_resync_misaligned h rfl, fun hal => ?resync⟩, fun s p d nonce hm h hd hr hn => ?attest,
    fun s p ctl d a h header body sig ha hcmd hc hms hr hs hheader hh hbody hsig => ?stage,
    fun s p ctl d image persist dog h hc hr hs hst => ?restrike⟩
  case resync =>
    obtain ⟨hdev, hhost, hlen⟩ := freeRun_done s 4
    exact ⟨_, _, exec_resync_aligned (a := (portAt s p).args[0]) h rfl hal, (hostPut_dev ..).trans hdev, length_resyncBytes s p hlen,
      take_resyncBytes .., wrote_hostPut hm.host hhost _ _⟩
  case attest =>
    exact ⟨_, reportOfDie s d nonce, exec_attest_ready (a := (portAt s p).args[0]) h rfl hd hr hn, hostPut_dev .., rfl,
      wrote_hostPut hm.host rfl _ _⟩
  case stage =>
    subst ha
    rw [exec_stage_ready hcmd hc rfl rfl hms hr hs hheader hh hbody hsig]
    refine ⟨fun hok => ⟨_, if_pos hok, ?_, ?_⟩, fun hbad => ⟨_, if_neg (Bool.eq_false_iff.1 hbad), ?_, ?_⟩⟩
    · rw [dieAt_modDie]
    · rw [dieAt_modDie]
      exact ⟨_, _, rfl⟩
    · rw [dieAt_raiseAll, dieAt_modDie]
    · rw [dieAt_raiseAll, dieAt_modDie]
  case restrike =>
    refine ⟨_, beginsStrike s p ctl d image, handOver s d ctl, exec_restrike_ready h hc hr hs hst, ?_⟩
    rw [struck, dieAt_modDie]
    exact ⟨rfl, rfl, rfl, rfl, rfl, rfl, rfl, rfl, rfl, rfl, rfl, rfl, rfl, rfl, congrArg (!·) (handOverOk_handOver ..)⟩

/-- Settles O49: a command that is ready is its body's state, answered. -/
theorem hostCommandsComplete : Obligations.HostCommandsComplete := ⟨contextCommands, queueCommands, imageCommands⟩

end Sys2Proof.Claims
end
